-- ==== Sys2Proof/Syntax.lean ====
section
/-! DEFINITION. The instruction set of the HN816: one constructor for each row of spec/opcode_table.json.
The first part holds the encoded instructions (05 R94-R101, 06 R119); the second the device's own steps, which
have no encoding and carry the operands the event arrives with. Operand names are the spec's: rd, rs1, rs2, xs are
x registers, va, vb, vc, vd, vo, vi lane registers, k, ka, kb, kd, ma masks, y a uniform entry; `md` of a lane
instruction is its modifier word (05 R93), none when M = 0. -/

namespace Sys2Proof

/-- A hart that an external debug module reaches (21 R398): of a core, by its slot, or one of the security controller. -/
inductive DebugHart where
  | core (c slot : Nat)
  | controller (i : Nat)
deriving DecidableEq, Repr

/-- What the host asks of it (RISC-V Debug Specification 1.0, log 15): to halt or resume the hart, a register by its abstract number, or 8
bytes of the controller's ROM or SRAM. -/
inductive DebugAsk where
  | halt (h : DebugHart)
  | resume (h : DebugHart)
  | reg (h : DebugHart) (n : BitVec 16)
  | mem (rom : Bool) (off : Nat)
deriving DecidableEq, Repr

/-- Who accesses a device register: the host through BAR0, or a hart in S-mode or in M-mode (03 R51, 22 R404, R405); or the host through the
external debug module, in place of a register (21 R398). -/
inductive Writer where
  | host
  | smode
  | mmode
  | debug (ask : DebugAsk)
deriving DecidableEq, Repr

/-- One constructor per row of the table of operations and events. -/
inductive Instr where
  /-- R20. The executive checks a kernel image against Table 1.5 and codes 9–10, copies text and data into a code heap extent, applies relocations, invalidates instruction caches and returns a kernel handle. -/
  | imageLoad (job : BitVec 16) (img : List (BitVec 8))
  /-- R85. The host's replace call loads a new image under an existing handle, installs POINT entries on all eight dies and advances the job's text generation. -/
  | kernelReplace (handle : BitVec 64) (img : List (BitVec 8)) (points : List (Nat × Nat))
  /-- R84. The executive parks groups, copies text ranges, installs MOVE entries, invalidates the old ranges, rewrites saved PCs, advances the generation and unparks the groups. -/
  | heapCompaction (job : BitVec 16) (old new len : List Nat)
  /-- R86. Once no group of an older generation remains, the executive removes forwarding entries, invalidates the range and unmaps it. -/
  | textReclaim (job : BitVec 16) (old : BitVec 28)
  /-- R53. A write to qprod is accepted when it lies within the ring and makes entries pending; otherwise it sets QERR and leaves PROD unchanged. -/
  | queueDoorbell (q : BitVec 6) (p : BitVec 32)
  /-- R51. A write to qcfg sets EN, QPRIO and QJOB; CTL changes only from the host or M-mode; QJOB is ignored while EN is 1. -/
  | qcfgWrite (q : BitVec 6) (who : Writer) (v : BitVec 64)
  /-- R51. A write to qsize is ignored while EN is 1 and leaves LOG2N unchanged when the value is outside 4–16. -/
  | qsizeWrite (q : BitVec 6) (v : BitVec 64)
  /-- R53. A write of 1 clears QERR or BADENT; clearing QERR resumes dispatch from CONS. -/
  | qstatClear (q : BitVec 6) (v : BitVec 64)
  /-- R54. The dispatcher reads the next dispatchable entry of the highest-priority queue, advances CONS, and handles the entry by KIND or skips it. -/
  | queueEntryDispatch (iod : BitVec 1)
  /-- R57. Admission reads and checks the launch descriptor, computes the lease bases and requests residency of the leased pages. -/
  | launchAdmit (l : Nat)
  /-- R59. Once the pages are resident and the home NIs have room, leaf checks pass, translations are pinned, ranges are installed, the launch counter is set and the units go to placement; otherwise LEASEFAIL. -/
  | leaseInstall (l : Nat)
  /-- R25. Once the previous replay has retired and HOLD is 0, the device snapshots every node's parameters, writes the counters, increments REPLAYS and enqueues the root nodes. -/
  | replayStart (r : Nat)
  /-- R26. A job's next phase starts after PBAR of the previous phase has been written. -/
  | phaseStart (job : BitVec 16)
  /-- R72. The placer finds a region of idle cores for the next unit, reserves it, lays the tree branch and starts the groups; a lost reservation or a missing region makes it search again later. -/
  | unitPlace (iod : BitVec 1)
  /-- R62. When the unit counter reaches zero, the unit root sends its combined status word up the completion tree and the unit's resources are freed. -/
  | unitRetire (u : Nat)
  /-- R75. A done message arriving at a completion-tree node is combined into the node's status and lowers its pending count. -/
  | doneMessage (n : Nat)
  /-- R76. After placing the launch's last unit, the placer sends sealed to every collector of the launch. -/
  | sealed (l : Nat)
  /-- R76. A sealed collector whose pending count is zero forwards its combined word and unit count to the launch root. -/
  | collectorForward (l : Nat) (die : BitVec 3)
  /-- R63. When the launch counter reaches zero, the launch releases its writes, removes its ranges, writes DONE, decrements its successors and decrements the replay or job counter. -/
  | launchRetire (l : Nat)
  /-- R65. A dependence counter decrement is performed indivisibly at the counter's home; the decrement that observes 1 enqueues the node, and one that observes 0 sets DEPUNDER. -/
  | counterDecrement (n : Nat)
  /-- R64. lcctl GO with OP 0 cancels the launch, graph, phase or job at lcaddr and reports RES. -/
  | lcCancel (level : BitVec 3)
  /-- R64. lcctl GO with OP 1 removes the host's hold on a job's counter; at any other level it gives RES 3. -/
  | lcEnd (level : BitVec 3)
  /-- R82. A write to a forwarding table dword installs or removes an entry; a fetch that overlaps it sees the old or the new entry whole. -/
  | fwdTableWrite (die : BitVec 3) (idx : BitVec 10) (high : Bool) (v : BitVec 64)
  /-- R82. A write to icinv starts invalidation of the named heap pages in every flock of the die; it is ignored while BUSY is set. -/
  | icinvWrite (die : BitVec 3) (v : BitVec 64)
  /-- R82. The instruction cache invalidation finishes and BUSY clears. -/
  | icinvComplete (die : BitVec 3)
  /-- R83. A fetch that misses the flock instruction cache looks up the forwarding table, then redirects the PC or completes the fill, or raises instruction access fault. -/
  | icacheMissFill (c sl sp : Nat)
  /-- R123. When the issue slot is free, the core chooses the eligible split by priority, rotation and lowest PC, updates aging counters, and issues that split's clause. -/
  | issueArbitration (c : Nat)
  /-- R105. A native-mode stall hint window ends and the split becomes eligible again. -/
  | stallWindowExpire (c sl sp : Nat)
  /-- R363. Every 4,096 cycles a summarised traced slot emits a SUMMARY record. -/
  | summaryPeriod (c sl : Nat)
  /-- R125. Data for an outstanding load returns and is written per lane; the load counter falls once every active lane is written, and waiting or parked splits re-test. -/
  | loadReturn (c op lane : Nat) (err : BitVec 3)
  /-- R125. A store is performed at its home or scratchpad bank and the store counter falls. -/
  | storePerformed (c : Nat) (op : Nat × Bool)
  /-- R60. A global access arrives at its home NI, is translated and lease-checked, and is performed, forwarded to a peer or host, or ends the unit with LEASE. -/
  | homeRequest (c op idx : Nat) (fill : Bool) (err : BitVec 3)
  /-- R189. An access from another device arrives over Ultra Ethernet and is performed in this device's HBM, setting dirty bits for writes. -/
  | peerAccess (peer : BitVec 4) (addr : BitVec 64) (write : Bool) (n : Nat × Option Bool) (data : List (BitVec 8))
  /-- R406. A host CXL.mem write to HDM0 or to the weight window is performed, dropped, or, in the weight window while the gate is closed, freezes the host function. -/
  | hostMemWrite (port : BitVec 1) (hdm1 : Bool) (off : BitVec 64) (data : List (BitVec 8))
  /-- R406. A host CXL.mem read of HDM0 or of the weight window returns the memory contents, or zero outside the HBM. -/
  | hostMemRead (port : BitVec 1) (hdm1 : Bool) (off : BitVec 64) (n : Nat)
  /-- R351. A deferred self-test runs when the core next holds nothing or when the write gate next opens, and fences the part on a fail. -/
  | deferredSelfTest (die : BitVec 3) (kind : BitVec 8) (part : Nat) (pass : Bool)
  /-- R190. Every die acknowledges the invalidations of an SFENCE.VMA and the issuing split continues. -/
  | sfenceVmaComplete (c sl sp : Nat)
  /-- R196. dsctl GO starts a snapshot-and-clear of the dirty bits over NPAGE pages; a GO while BUSY is 1 is ignored. -/
  | snapshot (die : BitVec 3)
  /-- R197. The snapshot writes its bitmap to OUT, clears the reported dirty bits and sets RES. -/
  | snapshotComplete (die : BitVec 3)
  /-- R202. A write to wsgate opens or closes the die's weight-store write gate; opening is ignored unless IDLE is 1. -/
  | wsgateWrite (die : BitVec 3) (v : BitVec 64 ⊕ (BitVec 16 × Nat × Nat))
  /-- R201. When time mod 3,200 equals 50g, refresh group g becomes unavailable and accesses to it wait. -/
  | refreshWindowStart (g : BitVec 6)
  /-- R201. A refresh window ends after 32 ticks and waiting weight reads and writes complete. -/
  | refreshWindowEnd (g : BitVec 6)
  /-- R209. An engine fetches the next entry of a queue, at most two fetched per queue, unless a join holds it back. -/
  | copyFetch (c : Nat) (q : BitVec 3)
  /-- R215. A copy request lands its bytes in a line, or finds an error, and the line's pending count P falls, which may make the line present and wake parked splits. -/
  | copyLand (c : Nat) (q : BitVec 3) (err : BitVec 3) (line : Nat)
  /-- R217. A completed copy request updates its barrier object, reloading it and waking BARWAIT waiters at phase completion, and lowers the copy counter. -/
  | copyComplete (c : Nat) (q : BitVec 3)
  /-- R270. A join completes once every earlier entry of its named queues has completed, releasing later entries for fetch. -/
  | qfenceJoinComplete (c : Nat)
  /-- R233. A fill at the head of the matrix queue starts writing its slot once earlier steps that read the slot have completed and its local lines are present. -/
  | tloadFillStart (c : Nat)
  /-- R234. Every byte of a slot fill has landed and the tile counter falls. -/
  | tloadFillComplete (c : Nat)
  /-- R232. A 16 × 16 step ends after 128 cycles, writes its tile, returns the token when its entry ends, and the next queued step begins. -/
  | matrixStepComplete (c : Nat)
  /-- R236. The MLOOP sequencer starts step t once both of its fills have landed, issuing the fills of the following step. -/
  | mloopStepStart (c : Nat)
  /-- R247. An in-place tile conversion ends after 32 cycles and the tokens return. -/
  | acccvtComplete (c : Nat) (bank : BitVec 5)
  /-- R251. The banks of a REDSEND have been read after 128 cycles and the tokens return to the sender. -/
  | redsendTokenReturn (c n : Nat)
  /-- R240. A partial arrives at a reduction tile and is discarded or added through align_add; after the 256th, PEND or DROPS moves and the sender's tile counter falls. -/
  | redsendPartialArrival (n : Nat)
  /-- R272. A barrier watchdog reaches LIMIT and the unit ends with BARTIMEOUT. -/
  | barrierWatchdogExpire (u : Nat) (bar : BitVec 4)
  /-- R276. A message arrives at its destination core and is appended to the mailbox, or refused with KIND 1 or KIND 2. -/
  | messageArrival (n : Nat)
  /-- R276. A refusal arrives at the sending core and is placed in the sending slot's refusal area, or dropped with MSGDROP. -/
  | refusalArrival (n : Nat)
  /-- R278. An idle handler slot starts an activation for the deliverable entry of the highest-priority bound channel. -/
  | activationStart (c : Nat)
  /-- R282. A steal request arrives at the victim core's steal mailbox and is stored, or fails when the mailbox is occupied or the core has no deque of the job. -/
  | stealRequestArrival (n : Nat)
  /-- R282. A steal request's timeout expires and the request fails with reason 3. -/
  | stealTimeout (c : Nat)
  /-- R290. A task or a failure reaches the parked thief, which writes its result pair and wakes. -/
  | stealAnswer (n : Nat)
  /-- R302. A CBPUSH, CBTAKE, CBDONE or CBFLUSH operation arrives at the Sheepdog and is performed indivisibly. -/
  | sheepdogArrival (n : Nat)
  /-- R309. The Sheepdog's answer returns to the issuing group and its x or lane result is written. -/
  | sheepdogAnswer (n : Nat)
  /-- R325. A write to sireq sets SSIP in the named group slot, or is dropped. -/
  | sireqWrite (die : BitVec 3) (v : BitVec 64)
  /-- R323. time reaches stimecmp or mtimecmp and the timer interrupt becomes pending. -/
  | timerCompare (c sl : Nat)
  /-- R327. pctl GO with OP 0 halts the unit within 120 cycles and then saves it, or reports RES 2 when the area is too small. -/
  | preempt (die : BitVec 3)
  /-- R329. Once in-flight work has come to rest, the save engine writes the image and releases the unit's resources. -/
  | preemptSaveComplete (die : BitVec 3)
  /-- R331. pctl GO with OP 1 checks an image, places the unit when a region is available, restores every record and lets its agents issue. -/
  | unitResume (die : BitVec 3)
  /-- R327. pctl GO with OP 2 or 3 gives RES 3 with no effect. -/
  | pctlReservedOp (die : BitVec 3) (op : BitVec 2)
  /-- R367. The debug port halts the unit or one group, letting a running activation finish unless FORCE is set. -/
  | debugHalt (die : BitVec 3) (force : Bool)
  /-- R367. The debug port lets the halted agents of the unit, or of one group, issue again. -/
  | debugResume (die : BitVec 3)
  /-- R368. A fully halted unit resumes until each participant arrives at barrier BAR. -/
  | debugStep (die : BitVec 3) (bar : BitVec 5)
  /-- R368. The stepped barrier phase completes and every participant has halted; STEPS is incremented and STOP records are emitted. -/
  | stepEnd (die : BitVec 3)
  /-- R366. A dbgctl GO with OP 3–7 or BAR 16–31 gives RES 3. -/
  | debugBadRequest (die op : BitVec 3) (bar : BitVec 5)
  /-- R370. mgctl OP START reads the descriptor, sends OPEN and enters pre-copy. -/
  | migrationStart
  /-- R374. mgctl OP STOP holds the job and waits for its launches, or with FORCE pre-empts its units, then runs final rounds and sends IMAGE, JOB and FIN. -/
  | migrationStop (force : Bool × List (BitVec 8))
  /-- R382. mgctl OP ABORT stops the session, sends ABORT, sets RES 7, releases the hold and returns PHASE to 0. -/
  | migrationAbort
  /-- R378. mgctl OP RECEIVE reads the descriptor and waits for OPEN. -/
  | migrationReceive
  /-- R370. mgctl GO with OP 4–7 gives RES 3. -/
  | mgctlReservedOp (op : BitVec 3)
  /-- R372. The engines snapshot the dirty bits, send every reported page as a PAGE or DISCARD record, and may declare convergence. -/
  | precopyRound
  /-- R374. A held job with FORCE 0 has no admitted, unretired launch left, and the final rounds begin. -/
  | stopDrainComplete
  /-- R379. A stream record arrives and is verified; PAGE, DISCARD, IMAGE and JOB records are applied by round, and OPEN and FIN are answered with an ACK. -/
  | migrationRecordReceive (hdr : BitVec 4 × List (BitVec 8)) (body tag : List (BitVec 8))
  /-- R380. The sender receives the ACK of FIN and enters phase 6, or ends the session with the reported status. -/
  | migrationAck (ack : BitVec 4 × List (BitVec 8) × List (BitVec 8) × List (BitVec 8))
  /-- R377. A record's transport retries are exhausted and the session ends on both sides with RES 6. -/
  | migrationLinkFail
  /-- R396. The controller draws a 32-byte nonce from its DRBG and makes it the single outstanding nonce. -/
  | nonce (host : Bool) (req : List (BitVec 8))
  /-- R385. The controller returns the requested fuse words, with UDS reading as zero. -/
  | fuseread (host : Bool) (req : List (BitVec 8))
  /-- R397. The controller verifies a debug token bound to the nonce, wipes the key slots, extends M4 and M3, and raises the open debug level. -/
  | unlock (host : Bool) (req : List (BitVec 8))
  /-- R391. The controller returns the event log records that are present. -/
  | logread (host : Bool) (req : List (BitVec 8))
  /-- R390. The controller returns M0–M7 and the next log SEQ. -/
  | measread (host : Bool) (req : List (BitVec 8))
  /-- R390. A request from the executive mailbox extends M5–M7 with a software event and appends a log record. -/
  | extend (host : Bool) (req : List (BitVec 8))
  /-- R386. The controller verifies a lifecycle token, wipes the key slots, extends M3 and blows the new LCF pattern. -/
  | lcadv (host : Bool) (req : List (BitVec 8))
  /-- R388. The controller verifies a manifest and blows SVNF up to its SVN, extending M2. -/
  | svnraise (host : Bool) (req : List (BitVec 8))
  /-- R395. An unlisted CMD gives BADCMD. -/
  | mailboxBadCommand (host : Bool) (cmd : BitVec 8)
  /-- R396. The outstanding nonce is discarded 600 seconds after it was issued. -/
  | nonceExpire
  /-- R399. The SPDM responder serves certificate, challenge, measurement and key-exchange requests over DOE. -/
  | spdmMessage (code : BitVec 8) (arg : List (BitVec 8))
  /-- R400. A vendor-defined REPORT request returns a dual-signed TYPE 3 report that uses the next LMS leaf. -/
  | report (req : List (BitVec 8))
  /-- R392. Inside a secured session, KEYSET fills an empty key slot and extends M4. -/
  | keyset (slot : BitVec 8) (hbm mig : BitVec 256)
  /-- R392. Inside a secured session, KEYCLR empties a key slot that no registered job names and extends M4. -/
  | keyclr (slot : BitVec 8)
  /-- R409. Every 10 µs the power manager compares POWER with CAP and raises or lowers GATE by 1. -/
  | powerManagerTick (power : BitVec 16)
  /-- R410. TEMP reaches 100 °C; the cap is halved until TEMP falls below 95 °C, and THERM is set. -/
  | thermalLimit (temp : BitVec 16)
  /-- R410. At 110 °C the module removes its own power without saving state. -/
  | thermalShutdown (temp : BitVec 16)
  /-- R411. At power-up the controller, links, HBM and dies come up in seven steps, ending with READY set. -/
  | bringUp (ok : Bool × List (BitVec 8) × List (BitVec 8) × List (Nat × Nat × Nat))
  /-- R354. A host function-level reset releases a frozen host CXL function. -/
  | functionLevelReset (port : BitVec 1)
  /-- R408. A write to a peer table entry reopens a frozen flow when FROZ is written 1, or closes it when V is written 0. -/
  | peerTableWrite (idx : BitVec 4) (part : BitVec 2) (v : BitVec 64)
  /-- R8. A write to any other device register or CSR sets its writable fields and ignores its reserved fields. -/
  | registerWrite (die : BitVec 4) (off : BitVec 24) (who : Writer) (v : Option (BitVec 64))
  /-- R127. A clause header opens a clause of COUNT counted instructions with its waits, engine claim and stall hint. -/
  | clh (stall : BitVec 2) (wtile wcopy wstore wload engc : BitVec 3) (count : BitVec 4)
  /-- R128. Sets the source, result and rounding formats of the next instruction only. -/
  | fmt (rnd : BitVec 3) (fd fb fa : BitVec 5)
  /-- R129. Continues when the outstanding-operation counters meet the limits, otherwise parks the split. -/
  | waitc (tile copy store load : BitVec 3)
  /-- R269. A scoped release, acquire or full fence. -/
  | fenceS (ord : BitVec 2) (scope : BitVec 3)
  /-- R270. Inserts a join into every engine queue named in QMASK. -/
  | qfence (qmask : BitVec 7)
  /-- R130. Moves y register N into x register rd. -/
  | movyRd (rd : BitVec 5) (y : BitVec 9)
  /-- R130. Moves x register rs1 into y register N. -/
  | movyYn (y : BitVec 9) (rs1 : BitVec 5)
  /-- R131. Writes the lane or split quantity selected by SEL into rd. -/
  | lq (rd rs1 : BitVec 5)
  /-- R132. Pushes m0 onto the mask stack and ANDs m0 with mA. -/
  | mpush (ma : BitVec 3)
  /-- R132. Sets m0 to the top of the mask stack AND NOT m0. -/
  | melse
  /-- R132. Pops the mask stack into m0, restricted to the split's live lanes. -/
  | mpop
  /-- R133. Reads a mask register into an x register. -/
  | mrd (rd : BitVec 5) (ma : BitVec 3)
  /-- R133. Writes an x register into a mask register. -/
  | mwr (md : BitVec 3) (rs1 : BitVec 5)
  /-- R133. Copies one mask register to another. -/
  | mmv (md ma : BitVec 3)
  /-- R136. Retires the active lanes, terminating the split and possibly finishing the group. -/
  | lexit
  /-- R134. Uniform branch on a mask condition. -/
  | lbr (cond mi : BitVec 3) (off : BitVec 14)
  /-- R135. Per-lane indirect jump that divides the split among free split ids. -/
  | ljalr (rd : BitVec 5) (va : BitVec 6) (imm : BitVec 9)
  /-- R243. Claims the n lowest free operand slots. -/
  | tclaim (rd rs1 : BitVec 5)
  /-- R243. Releases the group's slots named in the mask. -/
  | trel (rd rs1 : BitVec 5)
  /-- R244. Tags the slot and appends a slot fill to the matrix queue. -/
  | tload (rs1 rs2 : BitVec 5)
  /-- R245. Enters one matrix step into the step queue. -/
  | mma (rs1 : BitVec 5)
  /-- R245. Reads an MLOOP descriptor and enters a sequence of fills and steps into the step queue. -/
  | mloop (rs1 : BitVec 5)
  /-- R246. Allocates n contiguous free accumulator banks as FP32 or exact tiles. -/
  | accalloc (rd rs1 : BitVec 5)
  /-- R246. Frees a range of the unit's banks. -/
  | accfree (rd rs1 rs2 : BitVec 5)
  /-- R247. Starts an in-place tile conversion on the engine. -/
  | acccvt (rd rs1 : BitVec 5)
  /-- R249. Moves a tile's token to another group of the unit and sets NEW. -/
  | tgive (rd rs1 rs2 : BitVec 5)
  /-- R249. Waits until a named token, or any token with NEW set, is on the caller's side. -/
  | ttake (rd rs1 : BitVec 5)
  /-- R250. Takes the Bellwether or parks until it is granted. -/
  | btake
  /-- R250. Passes the Bellwether to a named group or releases it. -/
  | bpass (rd rs1 : BitVec 5)
  /-- R218. Reads n copy requests and appends them to an engine queue. -/
  | cpyk (rs1 rs2 : BitVec 5)
  /-- R219. Initialises a barrier object. -/
  | barinit (rs1 rs2 : BitVec 5)
  /-- R219. Releases and removes arrivals from a barrier object, returning the phase. -/
  | bararr (rd rs1 rs2 : BitVec 5)
  /-- R219. Waits until the barrier object's phase differs from p, then acquires. -/
  | barwait (rd rs1 rs2 : BitVec 5)
  /-- R220. Clears the presence hold H on a line range. -/
  | prset (rd rs1 rs2 : BitVec 5)
  /-- R220. Sets the presence hold H on a line range. -/
  | prclr (rd rs1 rs2 : BitVec 5)
  /-- R271. Arrives at a unit barrier and waits for its phase to complete. -/
  | bar (rd rs1 : BitVec 5)
  /-- R207. Enqueues discard marks for up to 65,536 pages. -/
  | discard (rd rs1 rs2 : BitVec 5)
  /-- R271. Arrives at a unit barrier without waiting. -/
  | barA (rd rs1 : BitVec 5)
  /-- R271. Waits for a unit barrier phase to pass. -/
  | barW (rd rs1 rs2 : BitVec 5)
  /-- R286. Sends an active message with four payload words. -/
  | msend (rd rs1 rs2 : BitVec 5)
  /-- R287. Binds, unbinds or configures a channel. -/
  | mchan (rd rs1 rs2 : BitVec 5)
  /-- R288. Ends the running activation. -/
  | hend
  /-- R289. Pushes a task, hands it to a waiting thief, or refuses it. -/
  | spawn (rd rs1 rs2 : BitVec 5)
  /-- R290. Pops from the core's own deque or posts a remote steal request and parks. -/
  | steal (rd rs1 rs2 : BitVec 5)
  /-- R291. Ends the current task, returns its run time and updates profiling. -/
  | tdone (rd : BitVec 5)
  /-- R292. Reads a fork descriptor, allocates a join cell and recruits idle cores. -/
  | rfork (rd rs1 : BitVec 5)
  /-- R293. Decrements a join cell; the last participant continues at CONT. -/
  | join (rs1 : BitVec 5)
  /-- R251. Sends an exact tile's elements as partials to another core of the unit. -/
  | redsend (rs1 rs2 : BitVec 5)
  /-- R251. Arms a reduction tile or collects its sums into a bank. -/
  | redacc (rd rs1 rs2 : BitVec 5)
  /-- R294. Releases and decrements a dependence counter at its home. -/
  | depdec (rd rs1 : BitVec 5)
  /-- R295. Appends a queue entry from a kernel. -/
  | launch (rd rs1 rs2 : BitVec 5)
  /-- R296. Cancels or ends a level from S-mode. -/
  | cancel (rd rs1 rs2 : BitVec 5)
  /-- R310. Pushes constraint records into the Sheepdog window. -/
  | cbpush (rd rs1 rs2 : BitVec 5)
  /-- R312. Releases the group's batch. -/
  | cbdone (rd : BitVec 5)
  /-- R313. Waits for, arms, releases or queries a Sheepdog drain. -/
  | cbflush (rd rs1 : BitVec 5)
  /-- R338. Calls into a resident service through a gate table entry. -/
  | gate (rs1 : BitVec 5)
  /-- R340. Returns from a gate frame to the caller. -/
  | gret
  /-- R343. Unwinds the innermost gate frame of a target group with an error. -/
  | gabort (rd rs1 rs2 : BitVec 5)
  /-- R151. Lane integer add with result modifiers. -/
  | ladd (md : Option (BitVec 32)) (vd va vb : BitVec 6)
  /-- R151. Lane integer subtract. -/
  | lsub (md : Option (BitVec 32)) (vd va vb : BitVec 6)
  /-- R151. Lane integer multiply. -/
  | lmul (md : Option (BitVec 32)) (vd va vb : BitVec 6)
  /-- R151. Lane signed multiply high. -/
  | lmulh (md : Option (BitVec 32)) (vd va vb : BitVec 6)
  /-- R151. Lane unsigned multiply high. -/
  | lmulhu (md : Option (BitVec 32)) (vd va vb : BitVec 6)
  /-- R151. Lane signed minimum. -/
  | lmin (md : Option (BitVec 32)) (vd va vb : BitVec 6)
  /-- R151. Lane signed maximum. -/
  | lmax (md : Option (BitVec 32)) (vd va vb : BitVec 6)
  /-- R151. Lane unsigned minimum. -/
  | lminu (md : Option (BitVec 32)) (vd va vb : BitVec 6)
  /-- R151. Lane unsigned maximum. -/
  | lmaxu (md : Option (BitVec 32)) (vd va vb : BitVec 6)
  /-- R151. Lane bitwise AND. -/
  | land (md : Option (BitVec 32)) (vd va vb : BitVec 6)
  /-- R151. Lane bitwise OR. -/
  | lor (md : Option (BitVec 32)) (vd va vb : BitVec 6)
  /-- R151. Lane bitwise XOR. -/
  | lxor (md : Option (BitVec 32)) (vd va vb : BitVec 6)
  /-- R151. Lane AND NOT. -/
  | landn (md : Option (BitVec 32)) (vd va vb : BitVec 6)
  /-- R151. Lane shift left logical. -/
  | lsll (md : Option (BitVec 32)) (vd va vb : BitVec 6)
  /-- R151. Lane shift right logical. -/
  | lsrl (md : Option (BitVec 32)) (vd va vb : BitVec 6)
  /-- R151. Lane shift right arithmetic. -/
  | lsra (md : Option (BitVec 32)) (vd va vb : BitVec 6)
  /-- R152. Lane signed bit-field extract. -/
  | lbext (md : Option (BitVec 32)) (vd va vb : BitVec 6)
  /-- R152. Lane unsigned bit-field extract. -/
  | lbextu (md : Option (BitVec 32)) (vd va vb : BitVec 6)
  /-- R152. Lane bit-field insert. -/
  | lbins (md : Option (BitVec 32)) (vd va vb : BitVec 6)
  /-- R152. Lane population count per element. -/
  | lpopc (md : Option (BitVec 32)) (vd va : BitVec 6)
  /-- R152. Lane leading zero count per element. -/
  | lclz (md : Option (BitVec 32)) (vd va : BitVec 6)
  /-- R152. Lane trailing zero count per element. -/
  | lctz (md : Option (BitVec 32)) (vd va : BitVec 6)
  /-- R152. Lane select by m1. -/
  | lsel (md : Option (BitVec 32)) (vd va vb : BitVec 6)
  /-- R152. Lane move, usually with a route. -/
  | lmov (md : Option (BitVec 32)) (vd va : BitVec 6)
  /-- R152. Writes each lane's index. -/
  | lidx (md : Option (BitVec 32)) (vd : BitVec 6)
  /-- R153. Lane integer equal compare into a mask. -/
  | lcmpEq (md : Option (BitVec 32)) (k : BitVec 3) (va vb : BitVec 6)
  /-- R153. Lane integer not-equal compare into a mask. -/
  | lcmpNe (md : Option (BitVec 32)) (k : BitVec 3) (va vb : BitVec 6)
  /-- R153. Lane signed less-than compare into a mask. -/
  | lcmpLt (md : Option (BitVec 32)) (k : BitVec 3) (va vb : BitVec 6)
  /-- R153. Lane signed greater-or-equal compare into a mask. -/
  | lcmpGe (md : Option (BitVec 32)) (k : BitVec 3) (va vb : BitVec 6)
  /-- R153. Lane unsigned less-than compare into a mask. -/
  | lcmpLtu (md : Option (BitVec 32)) (k : BitVec 3) (va vb : BitVec 6)
  /-- R153. Lane unsigned greater-or-equal compare into a mask. -/
  | lcmpGeu (md : Option (BitVec 32)) (k : BitVec 3) (va vb : BitVec 6)
  /-- R154. Lane add immediate. -/
  | laddi (md : Option (BitVec 32)) (vd va : BitVec 6) (imm : BitVec 9)
  /-- R154. Lane AND immediate. -/
  | landi (md : Option (BitVec 32)) (vd va : BitVec 6) (imm : BitVec 9)
  /-- R154. Lane OR immediate. -/
  | lori (md : Option (BitVec 32)) (vd va : BitVec 6) (imm : BitVec 9)
  /-- R154. Lane XOR immediate. -/
  | lxori (md : Option (BitVec 32)) (vd va : BitVec 6) (imm : BitVec 9)
  /-- R154. Lane shift left by immediate. -/
  | lslli (md : Option (BitVec 32)) (vd va : BitVec 6) (sh : BitVec 5)
  /-- R154. Lane logical shift right by immediate. -/
  | lsrli (md : Option (BitVec 32)) (vd va : BitVec 6) (sh : BitVec 5)
  /-- R154. Lane arithmetic shift right by immediate. -/
  | lsrai (md : Option (BitVec 32)) (vd va : BitVec 6) (sh : BitVec 5)
  /-- R154. Lane move immediate, replicated per element. -/
  | lmovi (md : Option (BitVec 32)) (vd : BitVec 6) (imm : BitVec 9)
  /-- R155. Lane add of a uniform x value. -/
  | laddx (md : Option (BitVec 32)) (vd va : BitVec 6) (xs : BitVec 5)
  /-- R155. Lane subtract of a uniform x value. -/
  | lsubx (md : Option (BitVec 32)) (vd va : BitVec 6) (xs : BitVec 5)
  /-- R155. Lane multiply by a uniform x value. -/
  | lmulx (md : Option (BitVec 32)) (vd va : BitVec 6) (xs : BitVec 5)
  /-- R155. Lane signed minimum with a uniform x value. -/
  | lminx (md : Option (BitVec 32)) (vd va : BitVec 6) (xs : BitVec 5)
  /-- R155. Lane signed maximum with a uniform x value. -/
  | lmaxx (md : Option (BitVec 32)) (vd va : BitVec 6) (xs : BitVec 5)
  /-- R155. Lane AND with a uniform x value. -/
  | landx (md : Option (BitVec 32)) (vd va : BitVec 6) (xs : BitVec 5)
  /-- R155. Lane OR with a uniform x value. -/
  | lorx (md : Option (BitVec 32)) (vd va : BitVec 6) (xs : BitVec 5)
  /-- R155. Lane XOR with a uniform x value. -/
  | lxorx (md : Option (BitVec 32)) (vd va : BitVec 6) (xs : BitVec 5)
  /-- R155. Lane shift left by a uniform x value. -/
  | lsllx (md : Option (BitVec 32)) (vd va : BitVec 6) (xs : BitVec 5)
  /-- R155. Lane logical shift right by a uniform x value. -/
  | lsrlx (md : Option (BitVec 32)) (vd va : BitVec 6) (xs : BitVec 5)
  /-- R155. Lane arithmetic shift right by a uniform x value. -/
  | lsrax (md : Option (BitVec 32)) (vd va : BitVec 6) (xs : BitVec 5)
  /-- R155. Lane move of a uniform x value. -/
  | lmovx (md : Option (BitVec 32)) (vd : BitVec 6) (xs : BitVec 5)
  /-- R155. Lane equal compare with a uniform x value into a mask. -/
  | lcmpxEq (md : Option (BitVec 32)) (k : BitVec 3) (va : BitVec 6) (xs : BitVec 5)
  /-- R155. Lane signed less-than compare with a uniform x value into a mask. -/
  | lcmpxLt (md : Option (BitVec 32)) (k : BitVec 3) (va : BitVec 6) (xs : BitVec 5)
  /-- R155. Lane unsigned less-than compare with a uniform x value into a mask. -/
  | lcmpxLtu (md : Option (BitVec 32)) (k : BitVec 3) (va : BitVec 6) (xs : BitVec 5)
  /-- R155. Lane float add of a uniform x value. -/
  | lfaddx (md : Option (BitVec 32)) (vd va : BitVec 6) (xs : BitVec 5)
  /-- R155. Lane float multiply by a uniform x value. -/
  | lfmulx (md : Option (BitVec 32)) (vd va : BitVec 6) (xs : BitVec 5)
  /-- R248. Reads accumulator bank words into lanes. -/
  | accrd (md : Option (BitVec 32)) (vd : BitVec 6) (xs : BitVec 5)
  /-- R248. Writes lane values into accumulator bank words. -/
  | accwr (md : Option (BitVec 32)) (vd : BitVec 6) (xs : BitVec 5)
  /-- R311. Takes a body-disjoint batch of constraints, one per active lane. -/
  | cbtake (md : Option (BitVec 32)) (vd : BitVec 6) (k : BitVec 3) (xs : BitVec 5)
  /-- R205. Hinted global lane load of a byte, half or word. -/
  | lldc (md : Option (BitVec 32)) (ww hh : BitVec 2) (vd : BitVec 6) (xs : BitVec 5) (va : BitVec 6)
  /-- R205. Hinted global lane store of a byte, half or word. -/
  | lstc (md : Option (BitVec 32)) (ww hh : BitVec 2) (vd : BitVec 6) (xs : BitVec 5) (va : BitVec 6)
  /-- R206. Lane atomic read-modify-write in global or local space. -/
  | latom (md : Option (BitVec 32)) (loc : BitVec 1) (oo : BitVec 2) (op : BitVec 3) (vd : BitVec 6) (xs : BitVec 5) (va : BitVec 6)
  /-- R204. Lane load from the global, local or weight space. -/
  | lld (imm : BitVec 6) (wid : BitVec 1) (space : BitVec 2) (vd : BitVec 6) (xs vo : BitVec 5)
  /-- R204. Lane store to the global, local or weight space. -/
  | lst (imm : BitVec 6) (wid : BitVec 1) (space : BitVec 2) (vd : BitVec 6) (xs vo : BitVec 5)
  /-- R156. Lane float add. -/
  | lfadd (md : Option (BitVec 32)) (vd va vb : BitVec 6)
  /-- R156. Lane float subtract. -/
  | lfsub (md : Option (BitVec 32)) (vd va vb : BitVec 6)
  /-- R156. Lane float multiply. -/
  | lfmul (md : Option (BitVec 32)) (vd va vb : BitVec 6)
  /-- R156. Lane float minimum. -/
  | lfmin (md : Option (BitVec 32)) (vd va vb : BitVec 6)
  /-- R156. Lane float maximum. -/
  | lfmax (md : Option (BitVec 32)) (vd va vb : BitVec 6)
  /-- R157. Lane approximate reciprocal. -/
  | lfrcp (md : Option (BitVec 32)) (vd va : BitVec 6)
  /-- R157. Lane approximate reciprocal square root. -/
  | lfrsq (md : Option (BitVec 32)) (vd va : BitVec 6)
  /-- R157. Lane approximate 2 to the x. -/
  | lfexp2 (md : Option (BitVec 32)) (vd va : BitVec 6)
  /-- R157. Lane approximate base-2 logarithm. -/
  | lflog2 (md : Option (BitVec 32)) (vd va : BitVec 6)
  /-- R157. Lane approximate sine of 2πx. -/
  | lfsin (md : Option (BitVec 32)) (vd va : BitVec 6)
  /-- R157. Lane approximate cosine of 2πx. -/
  | lfcos (md : Option (BitVec 32)) (vd va : BitVec 6)
  /-- R158. Lane conversion between float and integer formats. -/
  | lfcvt (md : Option (BitVec 32)) (vd va : BitVec 6) (esel : BitVec 3)
  /-- R159. Lane float equal compare into a mask. -/
  | lfcmpEq (md : Option (BitVec 32)) (k : BitVec 3) (va vb : BitVec 6)
  /-- R159. Lane float less-than compare into a mask. -/
  | lfcmpLt (md : Option (BitVec 32)) (k : BitVec 3) (va vb : BitVec 6)
  /-- R159. Lane float less-or-equal compare into a mask. -/
  | lfcmpLe (md : Option (BitVec 32)) (k : BitVec 3) (va vb : BitVec 6)
  /-- R159. Lane float unordered compare into a mask. -/
  | lfcmpUn (md : Option (BitVec 32)) (k : BitVec 3) (va vb : BitVec 6)
  /-- R160. Lane fused multiply-add. -/
  | lfma (md : Option (BitVec 32)) (vd va vb vc : BitVec 6)
  /-- R160. Lane fused multiply-subtract. -/
  | lfms (md : Option (BitVec 32)) (vd va vb vc : BitVec 6)
  /-- R160. Lane fused negated multiply plus addend. -/
  | lfnms (md : Option (BitVec 32)) (vd va vb vc : BitVec 6)
  /-- R160. Lane fused negated multiply minus addend. -/
  | lfnma (md : Option (BitVec 32)) (vd va vb vc : BitVec 6)
  /-- R165. Gives each active lane the set of active lanes with a bitwise-equal key. -/
  | lmatch (md : Option (BitVec 32)) (vd va : BitVec 6)
  /-- R165. Gives each active lane the set of active lanes with a numerically equal FP32 key. -/
  | lmatchF (md : Option (BitVec 32)) (vd va : BitVec 6)
  /-- R166. Integer sum over the active set, written to every active lane. -/
  | lreduceAdd (md : Option (BitVec 32)) (vd va : BitVec 6)
  /-- R166. Minimum over the active set. -/
  | lreduceMin (md : Option (BitVec 32)) (vd va : BitVec 6)
  /-- R166. Maximum over the active set. -/
  | lreduceMax (md : Option (BitVec 32)) (vd va : BitVec 6)
  /-- R166. FP32 sum over the active set in ascending lane order. -/
  | lreduceFadd (md : Option (BitVec 32)) (vd va : BitVec 6)
  /-- R167. Inclusive integer prefix sum over the active set. -/
  | lscanAdd (md : Option (BitVec 32)) (vd va : BitVec 6)
  /-- R167. Inclusive FP32 prefix sum over the active set. -/
  | lscanFadd (md : Option (BitVec 32)) (vd va : BitVec 6)
  /-- R168. Writes the lane-mask value of the active lanes holding a nonzero value. -/
  | lballot (md : Option (BitVec 32)) (vd va : BitVec 6)
  /-- R169. Writes a mask of the active lanes below the first failing signed bound compare. -/
  | lwhileLt (md : Option (BitVec 32)) (k : BitVec 3) (va vb : BitVec 6)
  /-- R169. Writes a mask of the active lanes below the first failing unsigned bound compare. -/
  | lwhileLtu (md : Option (BitVec 32)) (k : BitVec 3) (va vb : BitVec 6)
  /-- R170. Mask AND. -/
  | mand (kd ka kb : BitVec 3)
  /-- R170. Mask OR. -/
  | mor (kd ka kb : BitVec 3)
  /-- R170. Mask XOR. -/
  | mxor (kd ka kb : BitVec 3)
  /-- R170. Mask AND NOT. -/
  | mandn (kd ka kb : BitVec 3)
  /-- R170. Mask NOT. -/
  | mnot (kd ka : BitVec 3)
  /-- R171. Molesy-2 shuffle up by K. -/
  | lshflUp (md : Option (BitVec 32)) (vd va kk : BitVec 6)
  /-- R171. Molesy-2 shuffle down by K. -/
  | lshflDn (md : Option (BitVec 32)) (vd va kk : BitVec 6)
  /-- R171. Molesy-2 shuffle by an index register. -/
  | lshflIdx (md : Option (BitVec 32)) (vd va vi : BitVec 6)
  /-- R171. Molesy-2 shuffle by XOR with K. -/
  | lshflXor (md : Option (BitVec 32)) (vd va kk : BitVec 6)
  /-- R119. Load upper immediate. -/
  | lui (rd : BitVec 5) (imm : BitVec 20)
  /-- R119. Add upper immediate to PC. -/
  | auipc (rd : BitVec 5) (imm : BitVec 20)
  /-- R119. Jump and link. -/
  | jal (rd : BitVec 5) (off : BitVec 20)
  /-- R119. Jump and link register. -/
  | jalr (rd rs1 : BitVec 5) (imm : BitVec 12)
  /-- R119. Branch if equal. -/
  | beq (rs1 rs2 : BitVec 5) (off : BitVec 12)
  /-- R119. Branch if not equal. -/
  | bne (rs1 rs2 : BitVec 5) (off : BitVec 12)
  /-- R119. Branch if less than. -/
  | blt (rs1 rs2 : BitVec 5) (off : BitVec 12)
  /-- R119. Branch if greater or equal. -/
  | bge (rs1 rs2 : BitVec 5) (off : BitVec 12)
  /-- R119. Branch if less than unsigned. -/
  | bltu (rs1 rs2 : BitVec 5) (off : BitVec 12)
  /-- R119. Branch if greater or equal unsigned. -/
  | bgeu (rs1 rs2 : BitVec 5) (off : BitVec 12)
  /-- R120. Hart load of a signed byte. -/
  | lb (rd rs1 : BitVec 5) (imm : BitVec 12)
  /-- R120. Hart load of a signed half. -/
  | lh (rd rs1 : BitVec 5) (imm : BitVec 12)
  /-- R120. Hart load of a signed word. -/
  | lw (rd rs1 : BitVec 5) (imm : BitVec 12)
  /-- R120. Hart load of a doubleword. -/
  | ld (rd rs1 : BitVec 5) (imm : BitVec 12)
  /-- R120. Hart load of an unsigned byte. -/
  | lbu (rd rs1 : BitVec 5) (imm : BitVec 12)
  /-- R120. Hart load of an unsigned half. -/
  | lhu (rd rs1 : BitVec 5) (imm : BitVec 12)
  /-- R120. Hart load of an unsigned word. -/
  | lwu (rd rs1 : BitVec 5) (imm : BitVec 12)
  /-- R120. Hart store of a byte. -/
  | sb (rs1 rs2 : BitVec 5) (imm : BitVec 12)
  /-- R120. Hart store of a half. -/
  | sh (rs1 rs2 : BitVec 5) (imm : BitVec 12)
  /-- R120. Hart store of a word. -/
  | sw (rs1 rs2 : BitVec 5) (imm : BitVec 12)
  /-- R120. Hart store of a doubleword. -/
  | sd (rs1 rs2 : BitVec 5) (imm : BitVec 12)
  /-- R119. Add immediate. -/
  | addi (rd rs1 : BitVec 5) (imm : BitVec 12)
  /-- R119. Set if less than immediate. -/
  | slti (rd rs1 : BitVec 5) (imm : BitVec 12)
  /-- R119. Set if less than immediate, unsigned. -/
  | sltiu (rd rs1 : BitVec 5) (imm : BitVec 12)
  /-- R119. XOR immediate. -/
  | xori (rd rs1 : BitVec 5) (imm : BitVec 12)
  /-- R119. OR immediate. -/
  | ori (rd rs1 : BitVec 5) (imm : BitVec 12)
  /-- R119. AND immediate. -/
  | andi (rd rs1 : BitVec 5) (imm : BitVec 12)
  /-- R119. Shift left logical immediate. -/
  | slli (rd rs1 : BitVec 5) (sh : BitVec 6)
  /-- R119. Shift right logical immediate. -/
  | srli (rd rs1 : BitVec 5) (sh : BitVec 6)
  /-- R119. Shift right arithmetic immediate. -/
  | srai (rd rs1 : BitVec 5) (sh : BitVec 6)
  /-- R119. Add. -/
  | add (rd rs1 rs2 : BitVec 5)
  /-- R119. Shift left logical. -/
  | sll (rd rs1 rs2 : BitVec 5)
  /-- R119. Set if less than. -/
  | slt (rd rs1 rs2 : BitVec 5)
  /-- R119. Set if less than, unsigned. -/
  | sltu (rd rs1 rs2 : BitVec 5)
  /-- R119. XOR. -/
  | xor (rd rs1 rs2 : BitVec 5)
  /-- R119. Shift right logical. -/
  | srl (rd rs1 rs2 : BitVec 5)
  /-- R119. OR. -/
  | or (rd rs1 rs2 : BitVec 5)
  /-- R119. AND. -/
  | and (rd rs1 rs2 : BitVec 5)
  /-- R119. Subtract. -/
  | sub (rd rs1 rs2 : BitVec 5)
  /-- R119. Shift right arithmetic. -/
  | sra (rd rs1 rs2 : BitVec 5)
  /-- R119. Add immediate, word. -/
  | addiw (rd rs1 : BitVec 5) (imm : BitVec 12)
  /-- R119. Shift left logical immediate, word. -/
  | slliw (rd rs1 sh : BitVec 5)
  /-- R119. Shift right logical immediate, word. -/
  | srliw (rd rs1 sh : BitVec 5)
  /-- R119. Shift right arithmetic immediate, word. -/
  | sraiw (rd rs1 sh : BitVec 5)
  /-- R119. Add, word. -/
  | addw (rd rs1 rs2 : BitVec 5)
  /-- R119. Shift left logical, word. -/
  | sllw (rd rs1 rs2 : BitVec 5)
  /-- R119. Shift right logical, word. -/
  | srlw (rd rs1 rs2 : BitVec 5)
  /-- R119. Subtract, word. -/
  | subw (rd rs1 rs2 : BitVec 5)
  /-- R119. Shift right arithmetic, word. -/
  | sraw (rd rs1 rs2 : BitVec 5)
  /-- R120. Acts as FENCE.S full at DEVICE scope. -/
  | fence (rd rs1 : BitVec 5) (fm pred succ : BitVec 4)
  /-- R120. Later fetches of the split observe its earlier stores. -/
  | fenceI (rd rs1 : BitVec 5) (imm : BitVec 12)
  /-- R120. Environment call trap. -/
  | ecall
  /-- R120. Breakpoint trap. -/
  | ebreak
  /-- R120. Multiply. -/
  | mul (rd rs1 rs2 : BitVec 5)
  /-- R120. Multiply high, signed. -/
  | mulh (rd rs1 rs2 : BitVec 5)
  /-- R120. Multiply high, signed by unsigned. -/
  | mulhsu (rd rs1 rs2 : BitVec 5)
  /-- R120. Multiply high, unsigned. -/
  | mulhu (rd rs1 rs2 : BitVec 5)
  /-- R120. Signed divide, result after 66 cycles. -/
  | div (rd rs1 rs2 : BitVec 5)
  /-- R120. Unsigned divide. -/
  | divu (rd rs1 rs2 : BitVec 5)
  /-- R120. Signed remainder. -/
  | rem (rd rs1 rs2 : BitVec 5)
  /-- R120. Unsigned remainder. -/
  | remu (rd rs1 rs2 : BitVec 5)
  /-- R120. Multiply, word. -/
  | mulw (rd rs1 rs2 : BitVec 5)
  /-- R120. Signed divide, word. -/
  | divw (rd rs1 rs2 : BitVec 5)
  /-- R120. Unsigned divide, word. -/
  | divuw (rd rs1 rs2 : BitVec 5)
  /-- R120. Signed remainder, word. -/
  | remw (rd rs1 rs2 : BitVec 5)
  /-- R120. Unsigned remainder, word. -/
  | remuw (rd rs1 rs2 : BitVec 5)
  /-- R120. Load-reserved word at the home. -/
  | lrW (aq rl : BitVec 1) (rd rs1 : BitVec 5)
  /-- R120. Load-reserved doubleword at the home. -/
  | lrD (aq rl : BitVec 1) (rd rs1 : BitVec 5)
  /-- R120. Store-conditional word. -/
  | scW (aq rl : BitVec 1) (rd rs1 rs2 : BitVec 5)
  /-- R120. Store-conditional doubleword. -/
  | scD (aq rl : BitVec 1) (rd rs1 rs2 : BitVec 5)
  /-- R120. Atomic swap, word. -/
  | amoswapW (aq rl : BitVec 1) (rd rs1 rs2 : BitVec 5)
  /-- R120. Atomic swap, doubleword. -/
  | amoswapD (aq rl : BitVec 1) (rd rs1 rs2 : BitVec 5)
  /-- R120. Atomic add, word. -/
  | amoaddW (aq rl : BitVec 1) (rd rs1 rs2 : BitVec 5)
  /-- R120. Atomic add, doubleword. -/
  | amoaddD (aq rl : BitVec 1) (rd rs1 rs2 : BitVec 5)
  /-- R120. Atomic XOR, word. -/
  | amoxorW (aq rl : BitVec 1) (rd rs1 rs2 : BitVec 5)
  /-- R120. Atomic XOR, doubleword. -/
  | amoxorD (aq rl : BitVec 1) (rd rs1 rs2 : BitVec 5)
  /-- R120. Atomic AND, word. -/
  | amoandW (aq rl : BitVec 1) (rd rs1 rs2 : BitVec 5)
  /-- R120. Atomic AND, doubleword. -/
  | amoandD (aq rl : BitVec 1) (rd rs1 rs2 : BitVec 5)
  /-- R120. Atomic OR, word. -/
  | amoorW (aq rl : BitVec 1) (rd rs1 rs2 : BitVec 5)
  /-- R120. Atomic OR, doubleword. -/
  | amoorD (aq rl : BitVec 1) (rd rs1 rs2 : BitVec 5)
  /-- R120. Atomic signed minimum, word. -/
  | amominW (aq rl : BitVec 1) (rd rs1 rs2 : BitVec 5)
  /-- R120. Atomic signed minimum, doubleword. -/
  | amominD (aq rl : BitVec 1) (rd rs1 rs2 : BitVec 5)
  /-- R120. Atomic signed maximum, word. -/
  | amomaxW (aq rl : BitVec 1) (rd rs1 rs2 : BitVec 5)
  /-- R120. Atomic signed maximum, doubleword. -/
  | amomaxD (aq rl : BitVec 1) (rd rs1 rs2 : BitVec 5)
  /-- R120. Atomic unsigned minimum, word. -/
  | amominuW (aq rl : BitVec 1) (rd rs1 rs2 : BitVec 5)
  /-- R120. Atomic unsigned minimum, doubleword. -/
  | amominuD (aq rl : BitVec 1) (rd rs1 rs2 : BitVec 5)
  /-- R120. Atomic unsigned maximum, word. -/
  | amomaxuW (aq rl : BitVec 1) (rd rs1 rs2 : BitVec 5)
  /-- R120. Atomic unsigned maximum, doubleword. -/
  | amomaxuD (aq rl : BitVec 1) (rd rs1 rs2 : BitVec 5)
  /-- R112. CSR read and write. -/
  | csrrw (rd rs1 : BitVec 5) (csr : BitVec 12)
  /-- R112. CSR read and set bits. -/
  | csrrs (rd rs1 : BitVec 5) (csr : BitVec 12)
  /-- R112. CSR read and clear bits. -/
  | csrrc (rd rs1 : BitVec 5) (csr : BitVec 12)
  /-- R112. CSR read and write immediate. -/
  | csrrwi (rd uimm : BitVec 5) (csr : BitVec 12)
  /-- R112. CSR read and set bits, immediate. -/
  | csrrsi (rd uimm : BitVec 5) (csr : BitVec 12)
  /-- R112. CSR read and clear bits, immediate. -/
  | csrrci (rd uimm : BitVec 5) (csr : BitVec 12)
  /-- R119. Shift left by 1 and add. -/
  | sh1add (rd rs1 rs2 : BitVec 5)
  /-- R119. Shift left by 2 and add. -/
  | sh2add (rd rs1 rs2 : BitVec 5)
  /-- R119. Shift left by 3 and add. -/
  | sh3add (rd rs1 rs2 : BitVec 5)
  /-- R119. Add unsigned word. -/
  | addUw (rd rs1 rs2 : BitVec 5)
  /-- R119. Shift unsigned word left by 1 and add. -/
  | sh1addUw (rd rs1 rs2 : BitVec 5)
  /-- R119. Shift unsigned word left by 2 and add. -/
  | sh2addUw (rd rs1 rs2 : BitVec 5)
  /-- R119. Shift unsigned word left by 3 and add. -/
  | sh3addUw (rd rs1 rs2 : BitVec 5)
  /-- R119. Shift unsigned word left by immediate. -/
  | slliUw (rd rs1 : BitVec 5) (sh : BitVec 6)
  /-- R119. AND with inverted operand. -/
  | andn (rd rs1 rs2 : BitVec 5)
  /-- R119. OR with inverted operand. -/
  | orn (rd rs1 rs2 : BitVec 5)
  /-- R119. Exclusive NOR. -/
  | xnor (rd rs1 rs2 : BitVec 5)
  /-- R119. Signed minimum. -/
  | min (rd rs1 rs2 : BitVec 5)
  /-- R119. Unsigned minimum. -/
  | minu (rd rs1 rs2 : BitVec 5)
  /-- R119. Signed maximum. -/
  | max (rd rs1 rs2 : BitVec 5)
  /-- R119. Unsigned maximum. -/
  | maxu (rd rs1 rs2 : BitVec 5)
  /-- R119. Rotate left. -/
  | rol (rd rs1 rs2 : BitVec 5)
  /-- R119. Rotate right. -/
  | ror (rd rs1 rs2 : BitVec 5)
  /-- R119. Rotate left, word. -/
  | rolw (rd rs1 rs2 : BitVec 5)
  /-- R119. Rotate right, word. -/
  | rorw (rd rs1 rs2 : BitVec 5)
  /-- R119. Zero-extend half. -/
  | zextH (rd rs1 : BitVec 5)
  /-- R119. Count leading zeros. -/
  | clz (rd rs1 : BitVec 5)
  /-- R119. Count trailing zeros. -/
  | ctz (rd rs1 : BitVec 5)
  /-- R119. Count set bits. -/
  | cpop (rd rs1 : BitVec 5)
  /-- R119. Sign-extend byte. -/
  | sextB (rd rs1 : BitVec 5)
  /-- R119. Sign-extend half. -/
  | sextH (rd rs1 : BitVec 5)
  /-- R119. Rotate right by immediate. -/
  | rori (rd rs1 : BitVec 5) (sh : BitVec 6)
  /-- R119. OR-combine bytes. -/
  | orcB (rd rs1 : BitVec 5)
  /-- R119. Reverse byte order. -/
  | rev8 (rd rs1 : BitVec 5)
  /-- R119. Count leading zeros, word. -/
  | clzw (rd rs1 : BitVec 5)
  /-- R119. Count trailing zeros, word. -/
  | ctzw (rd rs1 : BitVec 5)
  /-- R119. Count set bits, word. -/
  | cpopw (rd rs1 : BitVec 5)
  /-- R119. Rotate right by immediate, word. -/
  | roriw (rd rs1 sh : BitVec 5)
  /-- R119. Zero the result if the condition register is zero. -/
  | czeroEqz (rd rs1 rs2 : BitVec 5)
  /-- R119. Zero the result if the condition register is nonzero. -/
  | czeroNez (rd rs1 rs2 : BitVec 5)
  /-- R321. Returns from an S-mode trap, unfreezing the group's other splits. -/
  | sret
  /-- R321. Returns from an M-mode trap. -/
  | mret
  /-- R120. Parks the split until an interrupt is pending. -/
  | wfi
  /-- R190. Invalidates matching home TLB, flock L1 and hart cache entries on all eight dies. -/
  | sfenceVma (rs1 rs2 : BitVec 5)
  /-- R120. A DIV or REM family result becomes available 66 cycles after issue and is written to its scoreboarded destination. -/
  | divRemResultReturn (c sl sp : Nat)
  /-- R285. The result of a DEPDEC, LAUNCH or CANCEL returns from the home or IO die and is written to the scoreboarded result register. -/
  | engineResultReturn (n : Nat)
  /-- R350. A patrol of idle memory finds an error that is logged, self-tested and counted against no unit. -/
  | idleMemoryPatrol (at_ : BitVec 8 × Nat × Option (Nat × Nat × Nat) × Option Bool) (corrected pass : Bool)
  /-- R410. Main power is removed from outside and everything stops, with only fuses and protected flash keeping their contents. -/
  | mainPowerLoss
deriving DecidableEq, Repr

end Sys2Proof
end

