-- ==== Sys2Proof/Word.lean ====
section
/-! DEFINITION. The word types (00 R6, 06 Table 6.2). -/

namespace Sys2Proof

/-- An x or y register, a virtual or physical address. -/
abbrev Word64 := BitVec 64

/-- A lane register element, a mask (bit l is lane l), an instruction word. -/
abbrev Word32 := BitVec 32

abbrev Byte := BitVec 8

end Sys2Proof
end

