-- ==== Sys2Proof/Config.lean ====
section
/-! DEFINITION. What the HN816 fixes without stating it: the free values and the functions the spec names but does not
define. None has a body, so no proof can see which value it is (log 3, 6, 7). -/

namespace Sys2Proof.Config

/-- A free value, one for each reading of the counter `State.freeCtr` (log 3). -/
opaque freeWord : Nat → BitVec 64

/-- 07 R157: within 1 ulp the approximation is the value below or above the exact quotient; which, is a fixed function of x
(log 6). -/
opaque rcpRoundsUp : BitVec 32 → Bool
opaque rsqRoundsUp : BitVec 32 → Bool

/-- 07 R157, Table 7.11: the approximating functions away from their special cases (log 6). -/
opaque exp2Approx : BitVec 32 → BitVec 32
opaque log2Approx : BitVec 32 → BitVec 32
opaque sinApprox : BitVec 32 → BitVec 32
opaque cosApprox : BitVec 32 → BitVec 32

/-- 11 R212: a byte of an overlapping copy receives the source byte as it stood, or the value already written (log 8). -/
opaque overlapSeesOld : Nat → Bool

/-- 21 R396, R399: draw n of the controller's DRBG, which an entropy source seeds (log 7). -/
opaque drbg : Nat → BitVec 256

/-- 21 R389: a write to protected flash fails (log 7). -/
opaque flashFails : Nat → Bool

end Sys2Proof.Config
end

