-- ==== Sys2Proof/Decode.lean ====
section
/-! DEFINITION. Decoding of instruction words and, after it, the encoder (05 R87-R101, 06 R119).

A word is read by its fixed bit fields; every encoding the tables do not assign is rejected by name. What the spec
makes a trap of an assigned word (a CLH of COUNT 0, a reserved rounding code, an invalid modifier word, a lane register
at or above the declared count) decodes here and is raised by the instruction's meaning (05 R102).
The functions that build an instruction are noncomputable: Lean's runtime has no tag for constructor 245 and above
of a type, so they have no compiled code; the kernel evaluates them. -/

namespace Sys2Proof

/-- Why bytes are no instruction: too few of them, or a word no table assigns (05 R89). -/
inductive DecodeError where
  | short
  | unassigned (w : BitVec 32)
deriving DecidableEq, Repr

/-! Bit fields of a word, named after the formats that use them (05 Tables 5.5, 5.6, 5.8, 5.9a). -/

def fOp (w : BitVec 32) : BitVec 7 := w.extractLsb' 0 7
def fCount (w : BitVec 32) : BitVec 4 := w.extractLsb' 7 4
def fRd (w : BitVec 32) : BitVec 5 := w.extractLsb' 7 5
def fVd (w : BitVec 32) : BitVec 6 := w.extractLsb' 7 6
def fB11 (w : BitVec 32) : BitVec 1 := w.extractLsb' 11 1
def fF3 (w : BitVec 32) : BitVec 3 := w.extractLsb' 12 3
def fImm20 (w : BitVec 32) : BitVec 20 := w.extractLsb' 12 20
def fVo (w : BitVec 32) : BitVec 5 := w.extractLsb' 13 5
def fVa (w : BitVec 32) : BitVec 6 := w.extractLsb' 13 6
def fC15 (w : BitVec 32) : BitVec 3 := w.extractLsb' 15 3
def fRs1 (w : BitVec 32) : BitVec 5 := w.extractLsb' 15 5
def fZ6 (w : BitVec 32) : BitVec 6 := w.extractLsb' 15 6
def fOffHi (w : BitVec 32) : BitVec 9 := w.extractLsb' 15 9
def fSpace (w : BitVec 32) : BitVec 2 := w.extractLsb' 18 2
def fC18 (w : BitVec 32) : BitVec 3 := w.extractLsb' 18 3
def fXs (w : BitVec 32) : BitVec 5 := w.extractLsb' 19 5
def fVb (w : BitVec 32) : BitVec 6 := w.extractLsb' 19 6
def fImm9 (w : BitVec 32) : BitVec 9 := w.extractLsb' 19 9
def fUyOp (w : BitVec 32) : BitVec 3 := w.extractLsb' 20 3
def fRs2 (w : BitVec 32) : BitVec 5 := w.extractLsb' 20 5
def fImm12 (w : BitVec 32) : BitVec 12 := w.extractLsb' 20 12
def fC21 (w : BitVec 32) : BitVec 3 := w.extractLsb' 21 3
def fQmask (w : BitVec 32) : BitVec 7 := w.extractLsb' 21 7
def fY (w : BitVec 32) : BitVec 9 := w.extractLsb' 23 9
def fM24 (w : BitVec 32) : BitVec 3 := w.extractLsb' 24 3
def fLjVa (w : BitVec 32) : BitVec 6 := w.extractLsb' 24 6
def fLx7 (w : BitVec 32) : BitVec 7 := w.extractLsb' 24 7
def fWid (w : BitVec 32) : BitVec 1 := w.extractLsb' 25 1
def fRnd (w : BitVec 32) : BitVec 3 := w.extractLsb' 25 3
def fF5 (w : BitVec 32) : BitVec 5 := w.extractLsb' 25 5
def fF6 (w : BitVec 32) : BitVec 6 := w.extractLsb' 25 6
def fF7 (w : BitVec 32) : BitVec 7 := w.extractLsb' 25 7
def fImm6 (w : BitVec 32) : BitVec 6 := w.extractLsb' 26 6
def fOrd (w : BitVec 32) : BitVec 2 := w.extractLsb' 27 2
def fCond (w : BitVec 32) : BitVec 3 := w.extractLsb' 27 3
def fB28 (w : BitVec 32) : BitVec 1 := w.extractLsb' 28 1
def fLi3 (w : BitVec 32) : BitVec 3 := w.extractLsb' 28 3
def fTop4 (w : BitVec 32) : BitVec 4 := w.extractLsb' 28 4
def fTop3 (w : BitVec 32) : BitVec 3 := w.extractLsb' 29 3
def fTop2 (w : BitVec 32) : BitVec 2 := w.extractLsb' 30 2
def fM (w : BitVec 32) : BitVec 1 := w.extractLsb' 31 1

/-- The modifier word of a lane instruction: the next word when M = 1 (05 R95). -/
def mdOf (w md : BitVec 32) : Option (BitVec 32) := if fM w = 1#1 then some md else none

def mBit (md : Option (BitVec 32)) : BitVec 1 := if md.isSome then 1#1 else 0#1

/-- imm[12:1] of a branch from the two halves of a B-type word, and the halves from it. -/
def bOff (h : BitVec 7) (l : BitVec 5) : BitVec 12 :=
  h.extractLsb' 6 1 ++ l.extractLsb' 0 1 ++ h.extractLsb' 0 6 ++ l.extractLsb' 1 4
def bHi (off : BitVec 12) : BitVec 7 := off.extractLsb' 11 1 ++ off.extractLsb' 4 6
def bLo (off : BitVec 12) : BitVec 5 := off.extractLsb' 0 4 ++ off.extractLsb' 10 1

/-- imm[20:1] of JAL from the 20 bits of a J-type word, and the bits from it. -/
def jOff (i : BitVec 20) : BitVec 20 :=
  i.extractLsb' 19 1 ++ i.extractLsb' 0 8 ++ i.extractLsb' 8 1 ++ i.extractLsb' 9 10
def jImm (off : BitVec 20) : BitVec 20 :=
  off.extractLsb' 19 1 ++ off.extractLsb' 0 10 ++ off.extractLsb' 10 1 ++ off.extractLsb' 11 8

/-- 05 R97: custom-0 UE, by class and operation. -/
noncomputable def decCustom0_0 (w : BitVec 32) : Option Instr :=
  match (fF7 w).toNat with
  | 0x10 =>
      if fRs2 w = 0#5 then some (.tclaim (fRd w) (fRs1 w))
      else none
  | 0x11 =>
      if fRs2 w = 0#5 then some (.trel (fRd w) (fRs1 w))
      else none
  | 0x12 =>
      if fRd w = 0#5 then some (.tload (fRs1 w) (fRs2 w))
      else none
  | 0x13 =>
      if fRs2 w = 0#5 ∧ fRd w = 0#5 then some (.mma (fRs1 w))
      else none
  | 0x14 =>
      if fRs2 w = 0#5 ∧ fRd w = 0#5 then some (.mloop (fRs1 w))
      else none
  | 0x15 =>
      if fRs2 w = 0#5 then some (.accalloc (fRd w) (fRs1 w))
      else none
  | 0x16 => some (.accfree (fRd w) (fRs1 w) (fRs2 w))
  | 0x17 =>
      if fRs2 w = 0#5 then some (.acccvt (fRd w) (fRs1 w))
      else none
  | 0x18 => some (.tgive (fRd w) (fRs1 w) (fRs2 w))
  | 0x19 =>
      if fRs2 w = 0#5 then some (.ttake (fRd w) (fRs1 w))
      else none
  | 0x1A =>
      if fRs2 w = 0#5 ∧ fRs1 w = 0#5 ∧ fRd w = 0#5 then some (.btake)
      else none
  | 0x1B =>
      if fRs2 w = 0#5 then some (.bpass (fRd w) (fRs1 w))
      else none
  | 0x20 =>
      if fRd w = 0#5 then some (.cpyk (fRs1 w) (fRs2 w))
      else none
  | 0x21 =>
      if fRd w = 0#5 then some (.barinit (fRs1 w) (fRs2 w))
      else none
  | 0x22 => some (.bararr (fRd w) (fRs1 w) (fRs2 w))
  | 0x23 => some (.barwait (fRd w) (fRs1 w) (fRs2 w))
  | 0x24 => some (.prset (fRd w) (fRs1 w) (fRs2 w))
  | 0x25 => some (.prclr (fRd w) (fRs1 w) (fRs2 w))
  | 0x26 =>
      if fRs2 w = 0#5 then some (.bar (fRd w) (fRs1 w))
      else none
  | 0x27 => some (.discard (fRd w) (fRs1 w) (fRs2 w))
  | 0x28 =>
      if fRs2 w = 0#5 then some (.barA (fRd w) (fRs1 w))
      else none
  | 0x29 => some (.barW (fRd w) (fRs1 w) (fRs2 w))
  | 0x30 => some (.msend (fRd w) (fRs1 w) (fRs2 w))
  | 0x31 => some (.mchan (fRd w) (fRs1 w) (fRs2 w))
  | 0x32 =>
      if fRs2 w = 0#5 ∧ fRs1 w = 0#5 ∧ fRd w = 0#5 then some (.hend)
      else none
  | 0x33 => some (.spawn (fRd w) (fRs1 w) (fRs2 w))
  | 0x34 => some (.steal (fRd w) (fRs1 w) (fRs2 w))
  | 0x35 =>
      if fRs2 w = 0#5 ∧ fRs1 w = 0#5 then some (.tdone (fRd w))
      else none
  | 0x36 =>
      if fRs2 w = 0#5 then some (.rfork (fRd w) (fRs1 w))
      else none
  | 0x37 =>
      if fRs2 w = 0#5 ∧ fRd w = 0#5 then some (.join (fRs1 w))
      else none
  | 0x40 =>
      if fRd w = 0#5 then some (.redsend (fRs1 w) (fRs2 w))
      else none
  | 0x41 => some (.redacc (fRd w) (fRs1 w) (fRs2 w))
  | 0x42 =>
      if fRs2 w = 0#5 then some (.depdec (fRd w) (fRs1 w))
      else none
  | 0x43 => some (.launch (fRd w) (fRs1 w) (fRs2 w))
  | 0x44 => some (.cancel (fRd w) (fRs1 w) (fRs2 w))
  | 0x50 => some (.cbpush (fRd w) (fRs1 w) (fRs2 w))
  | 0x51 =>
      if fRs2 w = 0#5 ∧ fRs1 w = 0#5 then some (.cbdone (fRd w))
      else none
  | 0x52 =>
      if fRs2 w = 0#5 then some (.cbflush (fRd w) (fRs1 w))
      else none
  | 0x60 =>
      if fRs2 w = 0#5 ∧ fRd w = 0#5 then some (.gate (fRs1 w))
      else none
  | 0x61 =>
      if fRs2 w = 0#5 ∧ fRs1 w = 0#5 ∧ fRd w = 0#5 then some (.gret)
      else none
  | 0x62 => some (.gabort (fRd w) (fRs1 w) (fRs2 w))
  | _ => none

/-- 05 R94, R98: custom-0 UC, the register form -/
noncomputable def decUC (w : BitVec 32) : Option Instr :=
  match (fF5 w).toNat with
  | 0 =>
      if fRs2 w = 0#5 ∧ fRd w = 0#5 ∧ (fRs1 w).extractLsb' 3 2 = 0#2 then some (.mpush ((fRs1 w).extractLsb' 0 3))
      else none
  | 1 =>
      if fRs2 w = 0#5 ∧ fRs1 w = 0#5 ∧ fRd w = 0#5 then some (.melse)
      else none
  | 2 =>
      if fRs2 w = 0#5 ∧ fRs1 w = 0#5 ∧ fRd w = 0#5 then some (.mpop)
      else none
  | 3 =>
      if fRs2 w = 0#5 ∧ (fRs1 w).extractLsb' 3 2 = 0#2 then some (.mrd (fRd w) ((fRs1 w).extractLsb' 0 3))
      else none
  | 4 =>
      if fRs2 w = 0#5 ∧ (fRd w).extractLsb' 3 2 = 0#2 then some (.mwr ((fRd w).extractLsb' 0 3) (fRs1 w))
      else none
  | 5 =>
      if fRs2 w = 0#5 ∧ (fRs1 w).extractLsb' 3 2 = 0#2 ∧ (fRd w).extractLsb' 3 2 = 0#2 then some (.mmv ((fRd w).extractLsb' 0 3) ((fRs1 w).extractLsb' 0 3))
      else none
  | 6 =>
      if fRs2 w = 0#5 ∧ fRs1 w = 0#5 ∧ fRd w = 0#5 then some (.lexit)
      else none
  | 7 =>
      if fRs2 w = 0#5 then some (.lq (fRd w) (fRs1 w))
      else none
  | _ => none

/-- 05 R94, R98: custom-0 UC. -/
noncomputable def decCustom0_1 (w : BitVec 32) : Option Instr :=
  match (fTop2 w).toNat with
  | 0 => decUC w
  | 1 => some (.lbr (fCond w) (fM24 w) (fOffHi w ++ fRd w))
  | 2 => some (.ljalr (fRd w) (fLjVa w) (fOffHi w))
  | _ => none

/-- 05 R98: custom-0 UY. -/
noncomputable def decCustom0_2 (w : BitVec 32) : Option Instr :=
  match (fUyOp w).toNat with
  | 0 =>
      if fRs1 w = 0#5 then some (.movyRd (fRd w) (fY w))
      else none
  | 1 =>
      if fRd w = 0#5 then some (.movyYn (fY w) (fRs1 w))
      else none
  | _ => none

/-- 05 R94, R98: custom-0 UF. -/
noncomputable def decCustom0_3 (w : BitVec 32) : Option Instr :=
  match (fTop3 w).toNat with
  | 0 =>
      if fC21 w = 0#3 ∧ fC18 w = 0#3 ∧ fC15 w = 0#3 ∧ fRd w = 0#5 then some (.fenceS (fOrd w) (fM24 w))
      else none
  | 1 =>
      if fB28 w = 0#1 ∧ fZ6 w = 0#6 ∧ fRd w = 0#5 then some (.qfence (fQmask w))
      else none
  | 2 =>
      if fOrd w = 0#2 ∧ fRd w = 0#5 then some (.waitc (fM24 w) (fC21 w) (fC18 w) (fC15 w))
      else none
  | _ => none

/-- 05 R92: the FMT prefix. -/
noncomputable def decCustom0_6 (w : BitVec 32) : Option Instr :=
  if fTop4 w = 0#4 then some (.fmt (fRnd w) (fRs2 w) (fRs1 w) (fRd w))
  else none

/-- 05 R90: the clause header. -/
noncomputable def decCustom0_7 (w : BitVec 32) : Option Instr :=
  if fB11 w = 0#1 then some (.clh (fTop2 w) (fCond w) (fM24 w) (fC21 w) (fC18 w) (fC15 w) (fCount w))
  else none

/-- 05 R94: custom-0 by funct3. -/
noncomputable def decCustom0 (w : BitVec 32) : Option Instr :=
  match (fF3 w).toNat with
  | 0 => decCustom0_0 w
  | 1 => decCustom0_1 w
  | 2 => decCustom0_2 w
  | 3 => decCustom0_3 w
  | 6 => decCustom0_6 w
  | 7 => decCustom0_7 w
  | _ => none

/-- 05 R99: major custom-1, LR. -/
noncomputable def decLR (w md : BitVec 32) : Option Instr :=
  match (fF6 w).toNat with
  | 0 => some (.ladd (mdOf w md) (fVd w) (fVa w) (fVb w))
  | 1 => some (.lsub (mdOf w md) (fVd w) (fVa w) (fVb w))
  | 2 => some (.lmul (mdOf w md) (fVd w) (fVa w) (fVb w))
  | 3 => some (.lmulh (mdOf w md) (fVd w) (fVa w) (fVb w))
  | 4 => some (.lmulhu (mdOf w md) (fVd w) (fVa w) (fVb w))
  | 5 => some (.lmin (mdOf w md) (fVd w) (fVa w) (fVb w))
  | 6 => some (.lmax (mdOf w md) (fVd w) (fVa w) (fVb w))
  | 7 => some (.lminu (mdOf w md) (fVd w) (fVa w) (fVb w))
  | 8 => some (.lmaxu (mdOf w md) (fVd w) (fVa w) (fVb w))
  | 9 => some (.land (mdOf w md) (fVd w) (fVa w) (fVb w))
  | 0xA => some (.lor (mdOf w md) (fVd w) (fVa w) (fVb w))
  | 0xB => some (.lxor (mdOf w md) (fVd w) (fVa w) (fVb w))
  | 0xC => some (.landn (mdOf w md) (fVd w) (fVa w) (fVb w))
  | 0xD => some (.lsll (mdOf w md) (fVd w) (fVa w) (fVb w))
  | 0xE => some (.lsrl (mdOf w md) (fVd w) (fVa w) (fVb w))
  | 0xF => some (.lsra (mdOf w md) (fVd w) (fVa w) (fVb w))
  | 0x10 => some (.lbext (mdOf w md) (fVd w) (fVa w) (fVb w))
  | 0x11 => some (.lbextu (mdOf w md) (fVd w) (fVa w) (fVb w))
  | 0x12 => some (.lbins (mdOf w md) (fVd w) (fVa w) (fVb w))
  | 0x13 =>
      if fVb w = 0#6 then some (.lpopc (mdOf w md) (fVd w) (fVa w))
      else none
  | 0x14 =>
      if fVb w = 0#6 then some (.lclz (mdOf w md) (fVd w) (fVa w))
      else none
  | 0x15 =>
      if fVb w = 0#6 then some (.lctz (mdOf w md) (fVd w) (fVa w))
      else none
  | 0x16 => some (.lsel (mdOf w md) (fVd w) (fVa w) (fVb w))
  | 0x17 =>
      if fVb w = 0#6 then some (.lmov (mdOf w md) (fVd w) (fVa w))
      else none
  | 0x18 =>
      if fVb w = 0#6 ∧ fVa w = 0#6 then some (.lidx (mdOf w md) (fVd w))
      else none
  | 0x20 =>
      if (fVd w).extractLsb' 3 3 = 0#3 then some (.lcmpEq (mdOf w md) ((fVd w).extractLsb' 0 3) (fVa w) (fVb w))
      else none
  | 0x21 =>
      if (fVd w).extractLsb' 3 3 = 0#3 then some (.lcmpNe (mdOf w md) ((fVd w).extractLsb' 0 3) (fVa w) (fVb w))
      else none
  | 0x22 =>
      if (fVd w).extractLsb' 3 3 = 0#3 then some (.lcmpLt (mdOf w md) ((fVd w).extractLsb' 0 3) (fVa w) (fVb w))
      else none
  | 0x23 =>
      if (fVd w).extractLsb' 3 3 = 0#3 then some (.lcmpGe (mdOf w md) ((fVd w).extractLsb' 0 3) (fVa w) (fVb w))
      else none
  | 0x24 =>
      if (fVd w).extractLsb' 3 3 = 0#3 then some (.lcmpLtu (mdOf w md) ((fVd w).extractLsb' 0 3) (fVa w) (fVb w))
      else none
  | 0x25 =>
      if (fVd w).extractLsb' 3 3 = 0#3 then some (.lcmpGeu (mdOf w md) ((fVd w).extractLsb' 0 3) (fVa w) (fVb w))
      else none
  | _ => none

/-- 05 R99: major custom-2, LI. -/
noncomputable def decLI (w md : BitVec 32) : Option Instr :=
  match (fLi3 w).toNat with
  | 0 => some (.laddi (mdOf w md) (fVd w) (fVa w) (fImm9 w))
  | 1 => some (.landi (mdOf w md) (fVd w) (fVa w) (fImm9 w))
  | 2 => some (.lori (mdOf w md) (fVd w) (fVa w) (fImm9 w))
  | 3 => some (.lxori (mdOf w md) (fVd w) (fVa w) (fImm9 w))
  | 4 =>
      if (fImm9 w).extractLsb' 5 4 = 0#4 then some (.lslli (mdOf w md) (fVd w) (fVa w) ((fImm9 w).extractLsb' 0 5))
      else none
  | 5 =>
      if (fImm9 w).extractLsb' 5 4 = 0#4 then some (.lsrli (mdOf w md) (fVd w) (fVa w) ((fImm9 w).extractLsb' 0 5))
      else none
  | 6 =>
      if (fImm9 w).extractLsb' 5 4 = 0#4 then some (.lsrai (mdOf w md) (fVd w) (fVa w) ((fImm9 w).extractLsb' 0 5))
      else none
  | 7 =>
      if fVa w = 0#6 then some (.lmovi (mdOf w md) (fVd w) (fImm9 w))
      else none
  | _ => none

/-- 05 R100: major custom-3, LX. -/
noncomputable def decLX (w md : BitVec 32) : Option Instr :=
  if fLx7 w = 0#7 then some (.laddx (mdOf w md) (fVd w) (fVa w) (fXs w))
  else if fLx7 w = 1#7 then some (.lsubx (mdOf w md) (fVd w) (fVa w) (fXs w))
  else if fLx7 w = 2#7 then some (.lmulx (mdOf w md) (fVd w) (fVa w) (fXs w))
  else if fLx7 w = 3#7 then some (.lminx (mdOf w md) (fVd w) (fVa w) (fXs w))
  else if fLx7 w = 4#7 then some (.lmaxx (mdOf w md) (fVd w) (fVa w) (fXs w))
  else if fLx7 w = 5#7 then some (.landx (mdOf w md) (fVd w) (fVa w) (fXs w))
  else if fLx7 w = 6#7 then some (.lorx (mdOf w md) (fVd w) (fVa w) (fXs w))
  else if fLx7 w = 7#7 then some (.lxorx (mdOf w md) (fVd w) (fVa w) (fXs w))
  else if fLx7 w = 8#7 then some (.lsllx (mdOf w md) (fVd w) (fVa w) (fXs w))
  else if fLx7 w = 9#7 then some (.lsrlx (mdOf w md) (fVd w) (fVa w) (fXs w))
  else if fLx7 w = 0xA#7 then some (.lsrax (mdOf w md) (fVd w) (fVa w) (fXs w))
  else if fLx7 w = 0xB#7 ∧ fVa w = 0#6 then some (.lmovx (mdOf w md) (fVd w) (fXs w))
  else if fLx7 w = 0xC#7 ∧ (fVd w).extractLsb' 3 3 = 0#3 then some (.lcmpxEq (mdOf w md) ((fVd w).extractLsb' 0 3) (fVa w) (fXs w))
  else if fLx7 w = 0xD#7 ∧ (fVd w).extractLsb' 3 3 = 0#3 then some (.lcmpxLt (mdOf w md) ((fVd w).extractLsb' 0 3) (fVa w) (fXs w))
  else if fLx7 w = 0xE#7 ∧ (fVd w).extractLsb' 3 3 = 0#3 then some (.lcmpxLtu (mdOf w md) ((fVd w).extractLsb' 0 3) (fVa w) (fXs w))
  else if fLx7 w = 0xF#7 then some (.lfaddx (mdOf w md) (fVd w) (fVa w) (fXs w))
  else if fLx7 w = 0x10#7 then some (.lfmulx (mdOf w md) (fVd w) (fVa w) (fXs w))
  else if fLx7 w = 0x11#7 ∧ fVa w = 0#6 then some (.accrd (mdOf w md) (fVd w) (fXs w))
  else if fLx7 w = 0x12#7 ∧ fVa w = 0#6 then some (.accwr (mdOf w md) (fVd w) (fXs w))
  else if fLx7 w = 0x13#7 ∧ (fVa w).extractLsb' 3 3 = 0#3 then some (.cbtake (mdOf w md) (fVd w) ((fVa w).extractLsb' 0 3) (fXs w))
  else if (fLx7 w).extractLsb' 4 3 = 2#3 then some (.lldc (mdOf w md) ((fLx7 w).extractLsb' 2 2) ((fLx7 w).extractLsb' 0 2) (fVd w) (fXs w) (fVa w))
  else if (fLx7 w).extractLsb' 4 3 = 3#3 then some (.lstc (mdOf w md) ((fLx7 w).extractLsb' 2 2) ((fLx7 w).extractLsb' 0 2) (fVd w) (fXs w) (fVa w))
  else if (fLx7 w).extractLsb' 6 1 = 1#1 then some (.latom (mdOf w md) ((fLx7 w).extractLsb' 5 1) ((fLx7 w).extractLsb' 3 2) ((fLx7 w).extractLsb' 0 3) (fVd w) (fXs w) (fVa w))
  else none

/-- 05 R101: OP-FP, LF. -/
noncomputable def decLF (w md : BitVec 32) : Option Instr :=
  match (fF6 w).toNat with
  | 0 => some (.lfadd (mdOf w md) (fVd w) (fVa w) (fVb w))
  | 1 => some (.lfsub (mdOf w md) (fVd w) (fVa w) (fVb w))
  | 2 => some (.lfmul (mdOf w md) (fVd w) (fVa w) (fVb w))
  | 3 => some (.lfmin (mdOf w md) (fVd w) (fVa w) (fVb w))
  | 4 => some (.lfmax (mdOf w md) (fVd w) (fVa w) (fVb w))
  | 5 =>
      if fVb w = 0#6 then some (.lfrcp (mdOf w md) (fVd w) (fVa w))
      else none
  | 6 =>
      if fVb w = 0#6 then some (.lfrsq (mdOf w md) (fVd w) (fVa w))
      else none
  | 7 =>
      if fVb w = 0#6 then some (.lfexp2 (mdOf w md) (fVd w) (fVa w))
      else none
  | 8 =>
      if fVb w = 0#6 then some (.lflog2 (mdOf w md) (fVd w) (fVa w))
      else none
  | 9 =>
      if fVb w = 0#6 then some (.lfsin (mdOf w md) (fVd w) (fVa w))
      else none
  | 0xA =>
      if fVb w = 0#6 then some (.lfcos (mdOf w md) (fVd w) (fVa w))
      else none
  | 0xB =>
      if (fVb w).extractLsb' 3 3 = 0#3 then some (.lfcvt (mdOf w md) (fVd w) (fVa w) ((fVb w).extractLsb' 0 3))
      else none
  | 0xC =>
      if (fVd w).extractLsb' 3 3 = 0#3 then some (.lfcmpEq (mdOf w md) ((fVd w).extractLsb' 0 3) (fVa w) (fVb w))
      else none
  | 0xD =>
      if (fVd w).extractLsb' 3 3 = 0#3 then some (.lfcmpLt (mdOf w md) ((fVd w).extractLsb' 0 3) (fVa w) (fVb w))
      else none
  | 0xE =>
      if (fVd w).extractLsb' 3 3 = 0#3 then some (.lfcmpLe (mdOf w md) ((fVd w).extractLsb' 0 3) (fVa w) (fVb w))
      else none
  | 0xF =>
      if (fVd w).extractLsb' 3 3 = 0#3 then some (.lfcmpUn (mdOf w md) ((fVd w).extractLsb' 0 3) (fVa w) (fVb w))
      else none
  | _ => none

/-- 05 R101: OP-V, LV. -/
noncomputable def decLV (w md : BitVec 32) : Option Instr :=
  match (fF6 w).toNat with
  | 0 =>
      if fVb w = 0#6 then some (.lmatch (mdOf w md) (fVd w) (fVa w))
      else none
  | 1 =>
      if fVb w = 0#6 then some (.lmatchF (mdOf w md) (fVd w) (fVa w))
      else none
  | 2 =>
      if fVb w = 0#6 then some (.lreduceAdd (mdOf w md) (fVd w) (fVa w))
      else none
  | 3 =>
      if fVb w = 0#6 then some (.lreduceMin (mdOf w md) (fVd w) (fVa w))
      else none
  | 4 =>
      if fVb w = 0#6 then some (.lreduceMax (mdOf w md) (fVd w) (fVa w))
      else none
  | 5 =>
      if fVb w = 0#6 then some (.lreduceFadd (mdOf w md) (fVd w) (fVa w))
      else none
  | 6 =>
      if fVb w = 0#6 then some (.lscanAdd (mdOf w md) (fVd w) (fVa w))
      else none
  | 7 =>
      if fVb w = 0#6 then some (.lscanFadd (mdOf w md) (fVd w) (fVa w))
      else none
  | 8 =>
      if fVb w = 0#6 then some (.lballot (mdOf w md) (fVd w) (fVa w))
      else none
  | 9 =>
      if (fVd w).extractLsb' 3 3 = 0#3 then some (.lwhileLt (mdOf w md) ((fVd w).extractLsb' 0 3) (fVa w) (fVb w))
      else none
  | 0xA =>
      if (fVd w).extractLsb' 3 3 = 0#3 then some (.lwhileLtu (mdOf w md) ((fVd w).extractLsb' 0 3) (fVa w) (fVb w))
      else none
  | 0x10 =>
      if fM w = 0#1 ∧ (fVb w).extractLsb' 3 3 = 0#3 ∧ (fVa w).extractLsb' 3 3 = 0#3 ∧ (fVd w).extractLsb' 3 3 = 0#3 then some (.mand ((fVd w).extractLsb' 0 3) ((fVa w).extractLsb' 0 3) ((fVb w).extractLsb' 0 3))
      else none
  | 0x11 =>
      if fM w = 0#1 ∧ (fVb w).extractLsb' 3 3 = 0#3 ∧ (fVa w).extractLsb' 3 3 = 0#3 ∧ (fVd w).extractLsb' 3 3 = 0#3 then some (.mor ((fVd w).extractLsb' 0 3) ((fVa w).extractLsb' 0 3) ((fVb w).extractLsb' 0 3))
      else none
  | 0x12 =>
      if fM w = 0#1 ∧ (fVb w).extractLsb' 3 3 = 0#3 ∧ (fVa w).extractLsb' 3 3 = 0#3 ∧ (fVd w).extractLsb' 3 3 = 0#3 then some (.mxor ((fVd w).extractLsb' 0 3) ((fVa w).extractLsb' 0 3) ((fVb w).extractLsb' 0 3))
      else none
  | 0x13 =>
      if fM w = 0#1 ∧ (fVb w).extractLsb' 3 3 = 0#3 ∧ (fVa w).extractLsb' 3 3 = 0#3 ∧ (fVd w).extractLsb' 3 3 = 0#3 then some (.mandn ((fVd w).extractLsb' 0 3) ((fVa w).extractLsb' 0 3) ((fVb w).extractLsb' 0 3))
      else none
  | 0x14 =>
      if fM w = 0#1 ∧ fVb w = 0#6 ∧ (fVa w).extractLsb' 3 3 = 0#3 ∧ (fVd w).extractLsb' 3 3 = 0#3 then some (.mnot ((fVd w).extractLsb' 0 3) ((fVa w).extractLsb' 0 3))
      else none
  | 0x18 => some (.lshflUp (mdOf w md) (fVd w) (fVa w) (fVb w))
  | 0x19 => some (.lshflDn (mdOf w md) (fVd w) (fVa w) (fVb w))
  | 0x1A => some (.lshflIdx (mdOf w md) (fVd w) (fVa w) (fVb w))
  | 0x1B => some (.lshflXor (mdOf w md) (fVd w) (fVa w) (fVb w))
  | _ => none

/-- 05 R95: LOAD-FP, LLD. -/
noncomputable def decLLd (w : BitVec 32) : Option Instr :=
  some (.lld (fImm6 w) (fWid w) (fSpace w) (fVd w) (fRs2 w) (fVo w))

/-- 05 R95: STORE-FP, LST. -/
noncomputable def decLSt (w : BitVec 32) : Option Instr :=
  some (.lst (fImm6 w) (fWid w) (fSpace w) (fVd w) (fRs2 w) (fVo w))

/-- 05 R96: LFMA. -/
noncomputable def decL4a (w md : BitVec 32) : Option Instr :=
  some (.lfma (mdOf w md) (fVd w) (fVa w) (fVb w) (fF6 w))

/-- 05 R96: LFMS. -/
noncomputable def decL4s (w md : BitVec 32) : Option Instr :=
  some (.lfms (mdOf w md) (fVd w) (fVa w) (fVb w) (fF6 w))

/-- 05 R96: LFNMS. -/
noncomputable def decL4ns (w md : BitVec 32) : Option Instr :=
  some (.lfnms (mdOf w md) (fVd w) (fVa w) (fVb w) (fF6 w))

/-- 05 R96: LFNMA. -/
noncomputable def decL4na (w md : BitVec 32) : Option Instr :=
  some (.lfnma (mdOf w md) (fVd w) (fVa w) (fVb w) (fF6 w))

/-- 06 R119: major Load. -/
noncomputable def decLoad (w : BitVec 32) : Option Instr :=
  match (fF3 w).toNat with
  | 0 => some (.lb (fRd w) (fRs1 w) (fImm12 w))
  | 1 => some (.lh (fRd w) (fRs1 w) (fImm12 w))
  | 2 => some (.lw (fRd w) (fRs1 w) (fImm12 w))
  | 3 => some (.ld (fRd w) (fRs1 w) (fImm12 w))
  | 4 => some (.lbu (fRd w) (fRs1 w) (fImm12 w))
  | 5 => some (.lhu (fRd w) (fRs1 w) (fImm12 w))
  | 6 => some (.lwu (fRd w) (fRs1 w) (fImm12 w))
  | _ => none

/-- 06 R119: major Store. -/
noncomputable def decStore (w : BitVec 32) : Option Instr :=
  match (fF3 w).toNat with
  | 0 => some (.sb (fRs1 w) (fRs2 w) (fF7 w ++ fRd w))
  | 1 => some (.sh (fRs1 w) (fRs2 w) (fF7 w ++ fRd w))
  | 2 => some (.sw (fRs1 w) (fRs2 w) (fF7 w ++ fRd w))
  | 3 => some (.sd (fRs1 w) (fRs2 w) (fF7 w ++ fRd w))
  | _ => none

/-- 06 R119: major OpImm. -/
noncomputable def decOpImm (w : BitVec 32) : Option Instr :=
  match (fF3 w).toNat with
  | 0 => some (.addi (fRd w) (fRs1 w) (fImm12 w))
  | 1 =>
    if (fImm12 w).extractLsb' 6 6 = 0#6 then some (.slli (fRd w) (fRs1 w) ((fImm12 w).extractLsb' 0 6))
    else if fImm12 w = 0x600#12 then some (.clz (fRd w) (fRs1 w))
    else if fImm12 w = 0x601#12 then some (.ctz (fRd w) (fRs1 w))
    else if fImm12 w = 0x602#12 then some (.cpop (fRd w) (fRs1 w))
    else if fImm12 w = 0x604#12 then some (.sextB (fRd w) (fRs1 w))
    else if fImm12 w = 0x605#12 then some (.sextH (fRd w) (fRs1 w))
    else none
  | 2 => some (.slti (fRd w) (fRs1 w) (fImm12 w))
  | 3 => some (.sltiu (fRd w) (fRs1 w) (fImm12 w))
  | 4 => some (.xori (fRd w) (fRs1 w) (fImm12 w))
  | 5 =>
    if (fImm12 w).extractLsb' 6 6 = 0#6 then some (.srli (fRd w) (fRs1 w) ((fImm12 w).extractLsb' 0 6))
    else if (fImm12 w).extractLsb' 6 6 = 0x10#6 then some (.srai (fRd w) (fRs1 w) ((fImm12 w).extractLsb' 0 6))
    else if (fImm12 w).extractLsb' 6 6 = 0x18#6 then some (.rori (fRd w) (fRs1 w) ((fImm12 w).extractLsb' 0 6))
    else if fImm12 w = 0x287#12 then some (.orcB (fRd w) (fRs1 w))
    else if fImm12 w = 0x6B8#12 then some (.rev8 (fRd w) (fRs1 w))
    else none
  | 6 => some (.ori (fRd w) (fRs1 w) (fImm12 w))
  | 7 => some (.andi (fRd w) (fRs1 w) (fImm12 w))
  | _ => none

/-- 06 R119: major OpImm32. -/
noncomputable def decOpImm32 (w : BitVec 32) : Option Instr :=
  match (fF3 w).toNat with
  | 0 => some (.addiw (fRd w) (fRs1 w) (fImm12 w))
  | 1 =>
    if fF7 w = 0#7 then some (.slliw (fRd w) (fRs1 w) (fRs2 w))
    else if (fImm12 w).extractLsb' 6 6 = 2#6 then some (.slliUw (fRd w) (fRs1 w) ((fImm12 w).extractLsb' 0 6))
    else if fImm12 w = 0x600#12 then some (.clzw (fRd w) (fRs1 w))
    else if fImm12 w = 0x601#12 then some (.ctzw (fRd w) (fRs1 w))
    else if fImm12 w = 0x602#12 then some (.cpopw (fRd w) (fRs1 w))
    else none
  | 5 =>
    match (fF7 w).toNat with
    | 0 => some (.srliw (fRd w) (fRs1 w) (fRs2 w))
    | 0x20 => some (.sraiw (fRd w) (fRs1 w) (fRs2 w))
    | 0x30 => some (.roriw (fRd w) (fRs1 w) (fRs2 w))
    | _ => none
  | _ => none

/-- 06 R119: major Op. -/
noncomputable def decOp (w : BitVec 32) : Option Instr :=
  match (fF3 w).toNat with
  | 0 =>
    match (fF7 w).toNat with
    | 0 => some (.add (fRd w) (fRs1 w) (fRs2 w))
    | 1 => some (.mul (fRd w) (fRs1 w) (fRs2 w))
    | 0x20 => some (.sub (fRd w) (fRs1 w) (fRs2 w))
    | _ => none
  | 1 =>
    match (fF7 w).toNat with
    | 0 => some (.sll (fRd w) (fRs1 w) (fRs2 w))
    | 1 => some (.mulh (fRd w) (fRs1 w) (fRs2 w))
    | 0x30 => some (.rol (fRd w) (fRs1 w) (fRs2 w))
    | _ => none
  | 2 =>
    match (fF7 w).toNat with
    | 0 => some (.slt (fRd w) (fRs1 w) (fRs2 w))
    | 1 => some (.mulhsu (fRd w) (fRs1 w) (fRs2 w))
    | 0x10 => some (.sh1add (fRd w) (fRs1 w) (fRs2 w))
    | _ => none
  | 3 =>
    match (fF7 w).toNat with
    | 0 => some (.sltu (fRd w) (fRs1 w) (fRs2 w))
    | 1 => some (.mulhu (fRd w) (fRs1 w) (fRs2 w))
    | _ => none
  | 4 =>
    match (fF7 w).toNat with
    | 0 => some (.xor (fRd w) (fRs1 w) (fRs2 w))
    | 1 => some (.div (fRd w) (fRs1 w) (fRs2 w))
    | 5 => some (.min (fRd w) (fRs1 w) (fRs2 w))
    | 0x10 => some (.sh2add (fRd w) (fRs1 w) (fRs2 w))
    | 0x20 => some (.xnor (fRd w) (fRs1 w) (fRs2 w))
    | _ => none
  | 5 =>
    match (fF7 w).toNat with
    | 0 => some (.srl (fRd w) (fRs1 w) (fRs2 w))
    | 1 => some (.divu (fRd w) (fRs1 w) (fRs2 w))
    | 5 => some (.minu (fRd w) (fRs1 w) (fRs2 w))
    | 7 => some (.czeroEqz (fRd w) (fRs1 w) (fRs2 w))
    | 0x20 => some (.sra (fRd w) (fRs1 w) (fRs2 w))
    | 0x30 => some (.ror (fRd w) (fRs1 w) (fRs2 w))
    | _ => none
  | 6 =>
    match (fF7 w).toNat with
    | 0 => some (.or (fRd w) (fRs1 w) (fRs2 w))
    | 1 => some (.rem (fRd w) (fRs1 w) (fRs2 w))
    | 5 => some (.max (fRd w) (fRs1 w) (fRs2 w))
    | 0x10 => some (.sh3add (fRd w) (fRs1 w) (fRs2 w))
    | 0x20 => some (.orn (fRd w) (fRs1 w) (fRs2 w))
    | _ => none
  | 7 =>
    match (fF7 w).toNat with
    | 0 => some (.and (fRd w) (fRs1 w) (fRs2 w))
    | 1 => some (.remu (fRd w) (fRs1 w) (fRs2 w))
    | 5 => some (.maxu (fRd w) (fRs1 w) (fRs2 w))
    | 7 => some (.czeroNez (fRd w) (fRs1 w) (fRs2 w))
    | 0x20 => some (.andn (fRd w) (fRs1 w) (fRs2 w))
    | _ => none
  | _ => none

/-- 06 R119: major Op32. -/
noncomputable def decOp32 (w : BitVec 32) : Option Instr :=
  match (fF3 w).toNat with
  | 0 =>
    match (fF7 w).toNat with
    | 0 => some (.addw (fRd w) (fRs1 w) (fRs2 w))
    | 1 => some (.mulw (fRd w) (fRs1 w) (fRs2 w))
    | 4 => some (.addUw (fRd w) (fRs1 w) (fRs2 w))
    | 0x20 => some (.subw (fRd w) (fRs1 w) (fRs2 w))
    | _ => none
  | 1 =>
    match (fF7 w).toNat with
    | 0 => some (.sllw (fRd w) (fRs1 w) (fRs2 w))
    | 0x30 => some (.rolw (fRd w) (fRs1 w) (fRs2 w))
    | _ => none
  | 2 =>
    if fF7 w = 0x10#7 then some (.sh1addUw (fRd w) (fRs1 w) (fRs2 w))
    else none
  | 4 =>
    match (fF7 w).toNat with
    | 1 => some (.divw (fRd w) (fRs1 w) (fRs2 w))
    | 4 =>
        if fRs2 w = 0#5 then some (.zextH (fRd w) (fRs1 w))
        else none
    | 0x10 => some (.sh2addUw (fRd w) (fRs1 w) (fRs2 w))
    | _ => none
  | 5 =>
    match (fF7 w).toNat with
    | 0 => some (.srlw (fRd w) (fRs1 w) (fRs2 w))
    | 1 => some (.divuw (fRd w) (fRs1 w) (fRs2 w))
    | 0x20 => some (.sraw (fRd w) (fRs1 w) (fRs2 w))
    | 0x30 => some (.rorw (fRd w) (fRs1 w) (fRs2 w))
    | _ => none
  | 6 =>
    match (fF7 w).toNat with
    | 1 => some (.remw (fRd w) (fRs1 w) (fRs2 w))
    | 0x10 => some (.sh3addUw (fRd w) (fRs1 w) (fRs2 w))
    | _ => none
  | 7 =>
    if fF7 w = 1#7 then some (.remuw (fRd w) (fRs1 w) (fRs2 w))
    else none
  | _ => none

/-- 06 R119: major MiscMem. -/
noncomputable def decMiscMem (w : BitVec 32) : Option Instr :=
  match (fF3 w).toNat with
  | 0 => some (.fence (fRd w) (fRs1 w) ((fImm12 w).extractLsb' 8 4) ((fImm12 w).extractLsb' 4 4) ((fImm12 w).extractLsb' 0 4))
  | 1 => some (.fenceI (fRd w) (fRs1 w) (fImm12 w))
  | _ => none

/-- 06 R119: major System. -/
noncomputable def decSystem (w : BitVec 32) : Option Instr :=
  match (fF3 w).toNat with
  | 0 =>
    if fImm12 w = 0#12 ∧ fRs1 w = 0#5 ∧ fRd w = 0#5 then some (.ecall)
    else if fImm12 w = 1#12 ∧ fRs1 w = 0#5 ∧ fRd w = 0#5 then some (.ebreak)
    else if fImm12 w = 0x102#12 ∧ fRs1 w = 0#5 ∧ fRd w = 0#5 then some (.sret)
    else if fImm12 w = 0x302#12 ∧ fRs1 w = 0#5 ∧ fRd w = 0#5 then some (.mret)
    else if fImm12 w = 0x105#12 ∧ fRs1 w = 0#5 ∧ fRd w = 0#5 then some (.wfi)
    else if fRd w = 0#5 ∧ (fImm12 w).extractLsb' 5 7 = 9#7 then some (.sfenceVma (fRs1 w) ((fImm12 w).extractLsb' 0 5))
    else none
  | 1 => some (.csrrw (fRd w) (fRs1 w) (fImm12 w))
  | 2 => some (.csrrs (fRd w) (fRs1 w) (fImm12 w))
  | 3 => some (.csrrc (fRd w) (fRs1 w) (fImm12 w))
  | 5 => some (.csrrwi (fRd w) (fRs1 w) (fImm12 w))
  | 6 => some (.csrrsi (fRd w) (fRs1 w) (fImm12 w))
  | 7 => some (.csrrci (fRd w) (fRs1 w) (fImm12 w))
  | _ => none

/-- 06 R119: major Branch. -/
noncomputable def decBranch (w : BitVec 32) : Option Instr :=
  match (fF3 w).toNat with
  | 0 => some (.beq (fRs1 w) (fRs2 w) (bOff (fF7 w) (fRd w)))
  | 1 => some (.bne (fRs1 w) (fRs2 w) (bOff (fF7 w) (fRd w)))
  | 4 => some (.blt (fRs1 w) (fRs2 w) (bOff (fF7 w) (fRd w)))
  | 5 => some (.bge (fRs1 w) (fRs2 w) (bOff (fF7 w) (fRd w)))
  | 6 => some (.bltu (fRs1 w) (fRs2 w) (bOff (fF7 w) (fRd w)))
  | 7 => some (.bgeu (fRs1 w) (fRs2 w) (bOff (fF7 w) (fRd w)))
  | _ => none

/-- 06 R119: major Jalr. -/
noncomputable def decJalr (w : BitVec 32) : Option Instr :=
  match (fF3 w).toNat with
  | 0 => some (.jalr (fRd w) (fRs1 w) (fImm12 w))
  | _ => none

/-- 06 R119: major Jal. -/
noncomputable def decJal (w : BitVec 32) : Option Instr :=
  some (.jal (fRd w) (jOff (fImm20 w)))

/-- 06 R119: major Lui. -/
noncomputable def decLui (w : BitVec 32) : Option Instr :=
  some (.lui (fRd w) (fImm20 w))

/-- 06 R119: major Auipc. -/
noncomputable def decAuipc (w : BitVec 32) : Option Instr :=
  some (.auipc (fRd w) (fImm20 w))

/-- 06 R119: major Amo. -/
noncomputable def decAmo (w : BitVec 32) : Option Instr :=
  match (fF3 w).toNat with
  | 2 =>
    if fRs2 w = 0#5 ∧ (fF7 w).extractLsb' 2 5 = 2#5 then some (.lrW ((fF7 w).extractLsb' 1 1) ((fF7 w).extractLsb' 0 1) (fRd w) (fRs1 w))
    else if (fF7 w).extractLsb' 2 5 = 3#5 then some (.scW ((fF7 w).extractLsb' 1 1) ((fF7 w).extractLsb' 0 1) (fRd w) (fRs1 w) (fRs2 w))
    else if (fF7 w).extractLsb' 2 5 = 1#5 then some (.amoswapW ((fF7 w).extractLsb' 1 1) ((fF7 w).extractLsb' 0 1) (fRd w) (fRs1 w) (fRs2 w))
    else if (fF7 w).extractLsb' 2 5 = 0#5 then some (.amoaddW ((fF7 w).extractLsb' 1 1) ((fF7 w).extractLsb' 0 1) (fRd w) (fRs1 w) (fRs2 w))
    else if (fF7 w).extractLsb' 2 5 = 4#5 then some (.amoxorW ((fF7 w).extractLsb' 1 1) ((fF7 w).extractLsb' 0 1) (fRd w) (fRs1 w) (fRs2 w))
    else if (fF7 w).extractLsb' 2 5 = 0xC#5 then some (.amoandW ((fF7 w).extractLsb' 1 1) ((fF7 w).extractLsb' 0 1) (fRd w) (fRs1 w) (fRs2 w))
    else if (fF7 w).extractLsb' 2 5 = 8#5 then some (.amoorW ((fF7 w).extractLsb' 1 1) ((fF7 w).extractLsb' 0 1) (fRd w) (fRs1 w) (fRs2 w))
    else if (fF7 w).extractLsb' 2 5 = 0x10#5 then some (.amominW ((fF7 w).extractLsb' 1 1) ((fF7 w).extractLsb' 0 1) (fRd w) (fRs1 w) (fRs2 w))
    else if (fF7 w).extractLsb' 2 5 = 0x14#5 then some (.amomaxW ((fF7 w).extractLsb' 1 1) ((fF7 w).extractLsb' 0 1) (fRd w) (fRs1 w) (fRs2 w))
    else if (fF7 w).extractLsb' 2 5 = 0x18#5 then some (.amominuW ((fF7 w).extractLsb' 1 1) ((fF7 w).extractLsb' 0 1) (fRd w) (fRs1 w) (fRs2 w))
    else if (fF7 w).extractLsb' 2 5 = 0x1C#5 then some (.amomaxuW ((fF7 w).extractLsb' 1 1) ((fF7 w).extractLsb' 0 1) (fRd w) (fRs1 w) (fRs2 w))
    else none
  | 3 =>
    if fRs2 w = 0#5 ∧ (fF7 w).extractLsb' 2 5 = 2#5 then some (.lrD ((fF7 w).extractLsb' 1 1) ((fF7 w).extractLsb' 0 1) (fRd w) (fRs1 w))
    else if (fF7 w).extractLsb' 2 5 = 3#5 then some (.scD ((fF7 w).extractLsb' 1 1) ((fF7 w).extractLsb' 0 1) (fRd w) (fRs1 w) (fRs2 w))
    else if (fF7 w).extractLsb' 2 5 = 1#5 then some (.amoswapD ((fF7 w).extractLsb' 1 1) ((fF7 w).extractLsb' 0 1) (fRd w) (fRs1 w) (fRs2 w))
    else if (fF7 w).extractLsb' 2 5 = 0#5 then some (.amoaddD ((fF7 w).extractLsb' 1 1) ((fF7 w).extractLsb' 0 1) (fRd w) (fRs1 w) (fRs2 w))
    else if (fF7 w).extractLsb' 2 5 = 4#5 then some (.amoxorD ((fF7 w).extractLsb' 1 1) ((fF7 w).extractLsb' 0 1) (fRd w) (fRs1 w) (fRs2 w))
    else if (fF7 w).extractLsb' 2 5 = 0xC#5 then some (.amoandD ((fF7 w).extractLsb' 1 1) ((fF7 w).extractLsb' 0 1) (fRd w) (fRs1 w) (fRs2 w))
    else if (fF7 w).extractLsb' 2 5 = 8#5 then some (.amoorD ((fF7 w).extractLsb' 1 1) ((fF7 w).extractLsb' 0 1) (fRd w) (fRs1 w) (fRs2 w))
    else if (fF7 w).extractLsb' 2 5 = 0x10#5 then some (.amominD ((fF7 w).extractLsb' 1 1) ((fF7 w).extractLsb' 0 1) (fRd w) (fRs1 w) (fRs2 w))
    else if (fF7 w).extractLsb' 2 5 = 0x14#5 then some (.amomaxD ((fF7 w).extractLsb' 1 1) ((fF7 w).extractLsb' 0 1) (fRd w) (fRs1 w) (fRs2 w))
    else if (fF7 w).extractLsb' 2 5 = 0x18#5 then some (.amominuD ((fF7 w).extractLsb' 1 1) ((fF7 w).extractLsb' 0 1) (fRd w) (fRs1 w) (fRs2 w))
    else if (fF7 w).extractLsb' 2 5 = 0x1C#5 then some (.amomaxuD ((fF7 w).extractLsb' 1 1) ((fF7 w).extractLsb' 0 1) (fRd w) (fRs1 w) (fRs2 w))
    else none
  | _ => none

/-- The instruction a word stands for, by its major opcode (05 Table 5.10); `md` is the word after it. -/
noncomputable def decodeWord (w md : BitVec 32) : Option Instr :=
  match (fOp w).toNat with
  | 0x0B => decCustom0 w
  | 0x2B => decLR w md
  | 0x5B => decLI w md
  | 0x7B => decLX w md
  | 0x53 => decLF w md
  | 0x57 => decLV w md
  | 0x07 => decLLd w
  | 0x27 => decLSt w
  | 0x43 => decL4a w md
  | 0x47 => decL4s w md
  | 0x4B => decL4ns w md
  | 0x4F => decL4na w md
  | 0x03 => decLoad w
  | 0x23 => decStore w
  | 0x13 => decOpImm w
  | 0x1B => decOpImm32 w
  | 0x33 => decOp w
  | 0x3B => decOp32 w
  | 0x0F => decMiscMem w
  | 0x73 => decSystem w
  | 0x63 => decBranch w
  | 0x67 => decJalr w
  | 0x6F => decJal w
  | 0x37 => decLui w
  | 0x17 => decAuipc w
  | 0x2F => decAmo w
  | _ => none

/-- 05 R88, R95: the lane majors with an M bit; the word after one with M = 1 is its modifier word. -/
noncomputable def wantsModifier (w : BitVec 32) : Bool :=
  fM w = 1#1 &&
    (match (fOp w).toNat with
    | 0x2B | 0x5B | 0x7B | 0x53 | 0x57 | 0x43 | 0x47 | 0x4B | 0x4F => true
    | _ => false) &&
    (decodeWord w 0).isSome

/-- 05 R87: words are little-endian. -/
def wordOfBytes (a b c d : BitVec 8) : BitVec 32 := d ++ c ++ b ++ a

def bytesOfWord (w : BitVec 32) : List (BitVec 8) :=
  [w.extractLsb' 0 8, w.extractLsb' 8 8, w.extractLsb' 16 8, w.extractLsb' 24 8]

/-- The instruction at the front of a byte sequence and the bytes after it. -/
noncomputable def decode (bs : List (BitVec 8)) : Except DecodeError (Instr × List (BitVec 8)) :=
  match bs with
  | a :: b :: c :: d :: rest =>
    let w := wordOfBytes a b c d
    if wantsModifier w then
      match rest with
      | e :: f :: g :: h :: rest' =>
        match decodeWord w (wordOfBytes e f g h) with
        | some i => .ok (i, rest')
        | none => .error (.unassigned w)
      | _ => .error .short
    else
      match decodeWord w 0 with
      | some i => .ok (i, rest)
      | none => .error (.unassigned w)
  | _ => .error .short

/-- What the decoder reads from the bits of an opcode-table row; bits above them are zero. -/
noncomputable def decodeTableWord (nbits w : Nat) : Option Instr :=
  let v := BitVec.ofNat 64 (w % 2 ^ nbits)
  match decode (bytesOfWord (v.extractLsb' 0 32) ++ bytesOfWord (v.extractLsb' 32 32)) with
  | .ok (i, _) => some i
  | .error _ => none

/-! The encoder. -/

/-- The fields of format R, from bit 31 down. -/
def encR (f7 : BitVec 7) (rs2 : BitVec 5) (rs1 : BitVec 5) (f3 : BitVec 3) (rd : BitVec 5) (op : BitVec 7) : BitVec 32 :=
  f7 ++ rs2 ++ rs1 ++ f3 ++ rd ++ op

/-- The fields of format I, from bit 31 down. -/
def encI (imm : BitVec 12) (rs1 : BitVec 5) (f3 : BitVec 3) (rd : BitVec 5) (op : BitVec 7) : BitVec 32 :=
  imm ++ rs1 ++ f3 ++ rd ++ op

/-- The fields of format U, from bit 31 down. -/
def encU (imm : BitVec 20) (rd : BitVec 5) (op : BitVec 7) : BitVec 32 :=
  imm ++ rd ++ op

/-- The fields of format LR, from bit 31 down. -/
def encLR (m : BitVec 1) (f6 : BitVec 6) (vb : BitVec 6) (va : BitVec 6) (vd : BitVec 6) (op : BitVec 7) : BitVec 32 :=
  m ++ f6 ++ vb ++ va ++ vd ++ op

/-- The fields of format LI, from bit 31 down. -/
def encLI (m : BitVec 1) (f3 : BitVec 3) (imm : BitVec 9) (va : BitVec 6) (vd : BitVec 6) (op : BitVec 7) : BitVec 32 :=
  m ++ f3 ++ imm ++ va ++ vd ++ op

/-- The fields of format LX, from bit 31 down. -/
def encLX (m : BitVec 1) (f7 : BitVec 7) (xs : BitVec 5) (va : BitVec 6) (vd : BitVec 6) (op : BitVec 7) : BitVec 32 :=
  m ++ f7 ++ xs ++ va ++ vd ++ op

/-- The fields of format LM, from bit 31 down. -/
def encLM (imm : BitVec 6) (wid : BitVec 1) (xs : BitVec 5) (sp : BitVec 2) (vo : BitVec 5) (vd : BitVec 6) (op : BitVec 7) : BitVec 32 :=
  imm ++ wid ++ xs ++ sp ++ vo ++ vd ++ op

/-- The fields of format UC, from bit 31 down. -/
def encUC (h2 : BitVec 2) (f5 : BitVec 5) (b : BitVec 5) (a : BitVec 5) (f3 : BitVec 3) (d : BitVec 5) (op : BitVec 7) : BitVec 32 :=
  h2 ++ f5 ++ b ++ a ++ f3 ++ d ++ op

/-- The fields of format LBR, from bit 31 down. -/
def encLBR (h2 : BitVec 2) (cond : BitVec 3) (mi : BitVec 3) (oh : BitVec 9) (f3 : BitVec 3) (ol : BitVec 5) (op : BitVec 7) : BitVec 32 :=
  h2 ++ cond ++ mi ++ oh ++ f3 ++ ol ++ op

/-- The fields of format LJ, from bit 31 down. -/
def encLJ (h2 : BitVec 2) (va : BitVec 6) (imm : BitVec 9) (f3 : BitVec 3) (rd : BitVec 5) (op : BitVec 7) : BitVec 32 :=
  h2 ++ va ++ imm ++ f3 ++ rd ++ op

/-- The fields of format UY, from bit 31 down. -/
def encUY (y : BitVec 9) (o : BitVec 3) (rs1 : BitVec 5) (f3 : BitVec 3) (rd : BitVec 5) (op : BitVec 7) : BitVec 32 :=
  y ++ o ++ rs1 ++ f3 ++ rd ++ op

/-- The fields of format UF, from bit 31 down. -/
def encUF (o : BitVec 3) (z2 : BitVec 2) (s : BitVec 3) (c : BitVec 3) (b : BitVec 3) (a : BitVec 3) (f3 : BitVec 3) (rd : BitVec 5) (op : BitVec 7) : BitVec 32 :=
  o ++ z2 ++ s ++ c ++ b ++ a ++ f3 ++ rd ++ op

/-- The fields of format UQ, from bit 31 down. -/
def encUQ (o : BitVec 3) (z1 : BitVec 1) (q : BitVec 7) (z6 : BitVec 6) (f3 : BitVec 3) (rd : BitVec 5) (op : BitVec 7) : BitVec 32 :=
  o ++ z1 ++ q ++ z6 ++ f3 ++ rd ++ op

/-- The fields of format CLH, from bit 31 down. -/
def encCLH (stall : BitVec 2) (wtile : BitVec 3) (wcopy : BitVec 3) (wstore : BitVec 3) (wload : BitVec 3) (engc : BitVec 3) (f3 : BitVec 3) (z : BitVec 1) (count : BitVec 4) (op : BitVec 7) : BitVec 32 :=
  stall ++ wtile ++ wcopy ++ wstore ++ wload ++ engc ++ f3 ++ z ++ count ++ op

/-- The fields of format FMT, from bit 31 down. -/
def encFMT (z : BitVec 4) (rnd : BitVec 3) (fd : BitVec 5) (fb : BitVec 5) (f3 : BitVec 3) (fa : BitVec 5) (op : BitVec 7) : BitVec 32 :=
  z ++ rnd ++ fd ++ fb ++ f3 ++ fa ++ op

/-- The words of an instruction; a step of the device that is no instruction has none. -/
def encode (i : Instr) : List (BitVec 32) :=
  match i with
  | .imageLoad .. => []
  | .kernelReplace .. => []
  | .heapCompaction .. => []
  | .textReclaim .. => []
  | .queueDoorbell .. => []
  | .qcfgWrite .. => []
  | .qsizeWrite .. => []
  | .qstatClear .. => []
  | .queueEntryDispatch .. => []
  | .launchAdmit .. => []
  | .leaseInstall .. => []
  | .replayStart .. => []
  | .phaseStart .. => []
  | .unitPlace .. => []
  | .unitRetire .. => []
  | .doneMessage .. => []
  | .sealed .. => []
  | .collectorForward .. => []
  | .launchRetire .. => []
  | .counterDecrement .. => []
  | .lcCancel .. => []
  | .lcEnd .. => []
  | .fwdTableWrite .. => []
  | .icinvWrite .. => []
  | .icinvComplete .. => []
  | .icacheMissFill .. => []
  | .issueArbitration .. => []
  | .stallWindowExpire .. => []
  | .summaryPeriod .. => []
  | .loadReturn .. => []
  | .storePerformed .. => []
  | .homeRequest .. => []
  | .peerAccess .. => []
  | .hostMemWrite .. => []
  | .hostMemRead .. => []
  | .deferredSelfTest .. => []
  | .sfenceVmaComplete .. => []
  | .snapshot .. => []
  | .snapshotComplete .. => []
  | .wsgateWrite .. => []
  | .refreshWindowStart .. => []
  | .refreshWindowEnd .. => []
  | .copyFetch .. => []
  | .copyLand .. => []
  | .copyComplete .. => []
  | .qfenceJoinComplete .. => []
  | .tloadFillStart .. => []
  | .tloadFillComplete .. => []
  | .matrixStepComplete .. => []
  | .mloopStepStart .. => []
  | .acccvtComplete .. => []
  | .redsendTokenReturn .. => []
  | .redsendPartialArrival .. => []
  | .barrierWatchdogExpire .. => []
  | .messageArrival .. => []
  | .refusalArrival .. => []
  | .activationStart .. => []
  | .stealRequestArrival .. => []
  | .stealTimeout .. => []
  | .stealAnswer .. => []
  | .sheepdogArrival .. => []
  | .sheepdogAnswer .. => []
  | .sireqWrite .. => []
  | .timerCompare .. => []
  | .preempt .. => []
  | .preemptSaveComplete .. => []
  | .unitResume .. => []
  | .pctlReservedOp .. => []
  | .debugHalt .. => []
  | .debugResume .. => []
  | .debugStep .. => []
  | .stepEnd .. => []
  | .debugBadRequest .. => []
  | .migrationStart => []
  | .migrationStop .. => []
  | .migrationAbort => []
  | .migrationReceive => []
  | .mgctlReservedOp .. => []
  | .precopyRound => []
  | .stopDrainComplete => []
  | .migrationRecordReceive .. => []
  | .migrationAck .. => []
  | .migrationLinkFail => []
  | .nonce .. => []
  | .fuseread .. => []
  | .unlock .. => []
  | .logread .. => []
  | .measread .. => []
  | .extend .. => []
  | .lcadv .. => []
  | .svnraise .. => []
  | .mailboxBadCommand .. => []
  | .nonceExpire => []
  | .spdmMessage .. => []
  | .report .. => []
  | .keyset .. => []
  | .keyclr .. => []
  | .powerManagerTick .. => []
  | .thermalLimit .. => []
  | .thermalShutdown .. => []
  | .bringUp .. => []
  | .functionLevelReset .. => []
  | .peerTableWrite .. => []
  | .registerWrite .. => []
  | .clh stall wtile wcopy wstore wload engc count => [encCLH stall wtile wcopy wstore wload engc 7#3 0#1 count 0xB#7]
  | .fmt rnd fd fb fa => [encFMT 0#4 rnd fd fb 6#3 fa 0xB#7]
  | .waitc tile copy store load => [encUF 2#3 0#2 tile copy store load 3#3 0#5 0xB#7]
  | .fenceS ord scope => [encUF 0#3 ord scope 0#3 0#3 0#3 3#3 0#5 0xB#7]
  | .qfence qmask => [encUQ 1#3 0#1 qmask 0#6 3#3 0#5 0xB#7]
  | .movyRd rd y => [encUY y 0#3 0#5 2#3 rd 0xB#7]
  | .movyYn y rs1 => [encUY y 1#3 rs1 2#3 0#5 0xB#7]
  | .lq rd rs1 => [encUC 0#2 7#5 0#5 rs1 1#3 rd 0xB#7]
  | .mpush ma => [encUC 0#2 0#5 0#5 (0#2 ++ ma) 1#3 0#5 0xB#7]
  | .melse => [encUC 0#2 1#5 0#5 0#5 1#3 0#5 0xB#7]
  | .mpop => [encUC 0#2 2#5 0#5 0#5 1#3 0#5 0xB#7]
  | .mrd rd ma => [encUC 0#2 3#5 0#5 (0#2 ++ ma) 1#3 rd 0xB#7]
  | .mwr md rs1 => [encUC 0#2 4#5 0#5 rs1 1#3 (0#2 ++ md) 0xB#7]
  | .mmv md ma => [encUC 0#2 5#5 0#5 (0#2 ++ ma) 1#3 (0#2 ++ md) 0xB#7]
  | .lexit => [encUC 0#2 6#5 0#5 0#5 1#3 0#5 0xB#7]
  | .lbr cond mi off => [encLBR 1#2 cond mi (off.extractLsb' 5 9) 1#3 (off.extractLsb' 0 5) 0xB#7]
  | .ljalr rd va imm => [encLJ 2#2 va imm 1#3 rd 0xB#7]
  | .tclaim rd rs1 => [encR 0x10#7 0#5 rs1 0#3 rd 0xB#7]
  | .trel rd rs1 => [encR 0x11#7 0#5 rs1 0#3 rd 0xB#7]
  | .tload rs1 rs2 => [encR 0x12#7 rs2 rs1 0#3 0#5 0xB#7]
  | .mma rs1 => [encR 0x13#7 0#5 rs1 0#3 0#5 0xB#7]
  | .mloop rs1 => [encR 0x14#7 0#5 rs1 0#3 0#5 0xB#7]
  | .accalloc rd rs1 => [encR 0x15#7 0#5 rs1 0#3 rd 0xB#7]
  | .accfree rd rs1 rs2 => [encR 0x16#7 rs2 rs1 0#3 rd 0xB#7]
  | .acccvt rd rs1 => [encR 0x17#7 0#5 rs1 0#3 rd 0xB#7]
  | .tgive rd rs1 rs2 => [encR 0x18#7 rs2 rs1 0#3 rd 0xB#7]
  | .ttake rd rs1 => [encR 0x19#7 0#5 rs1 0#3 rd 0xB#7]
  | .btake => [encR 0x1A#7 0#5 0#5 0#3 0#5 0xB#7]
  | .bpass rd rs1 => [encR 0x1B#7 0#5 rs1 0#3 rd 0xB#7]
  | .cpyk rs1 rs2 => [encR 0x20#7 rs2 rs1 0#3 0#5 0xB#7]
  | .barinit rs1 rs2 => [encR 0x21#7 rs2 rs1 0#3 0#5 0xB#7]
  | .bararr rd rs1 rs2 => [encR 0x22#7 rs2 rs1 0#3 rd 0xB#7]
  | .barwait rd rs1 rs2 => [encR 0x23#7 rs2 rs1 0#3 rd 0xB#7]
  | .prset rd rs1 rs2 => [encR 0x24#7 rs2 rs1 0#3 rd 0xB#7]
  | .prclr rd rs1 rs2 => [encR 0x25#7 rs2 rs1 0#3 rd 0xB#7]
  | .bar rd rs1 => [encR 0x26#7 0#5 rs1 0#3 rd 0xB#7]
  | .discard rd rs1 rs2 => [encR 0x27#7 rs2 rs1 0#3 rd 0xB#7]
  | .barA rd rs1 => [encR 0x28#7 0#5 rs1 0#3 rd 0xB#7]
  | .barW rd rs1 rs2 => [encR 0x29#7 rs2 rs1 0#3 rd 0xB#7]
  | .msend rd rs1 rs2 => [encR 0x30#7 rs2 rs1 0#3 rd 0xB#7]
  | .mchan rd rs1 rs2 => [encR 0x31#7 rs2 rs1 0#3 rd 0xB#7]
  | .hend => [encR 0x32#7 0#5 0#5 0#3 0#5 0xB#7]
  | .spawn rd rs1 rs2 => [encR 0x33#7 rs2 rs1 0#3 rd 0xB#7]
  | .steal rd rs1 rs2 => [encR 0x34#7 rs2 rs1 0#3 rd 0xB#7]
  | .tdone rd => [encR 0x35#7 0#5 0#5 0#3 rd 0xB#7]
  | .rfork rd rs1 => [encR 0x36#7 0#5 rs1 0#3 rd 0xB#7]
  | .join rs1 => [encR 0x37#7 0#5 rs1 0#3 0#5 0xB#7]
  | .redsend rs1 rs2 => [encR 0x40#7 rs2 rs1 0#3 0#5 0xB#7]
  | .redacc rd rs1 rs2 => [encR 0x41#7 rs2 rs1 0#3 rd 0xB#7]
  | .depdec rd rs1 => [encR 0x42#7 0#5 rs1 0#3 rd 0xB#7]
  | .launch rd rs1 rs2 => [encR 0x43#7 rs2 rs1 0#3 rd 0xB#7]
  | .cancel rd rs1 rs2 => [encR 0x44#7 rs2 rs1 0#3 rd 0xB#7]
  | .cbpush rd rs1 rs2 => [encR 0x50#7 rs2 rs1 0#3 rd 0xB#7]
  | .cbdone rd => [encR 0x51#7 0#5 0#5 0#3 rd 0xB#7]
  | .cbflush rd rs1 => [encR 0x52#7 0#5 rs1 0#3 rd 0xB#7]
  | .gate rs1 => [encR 0x60#7 0#5 rs1 0#3 0#5 0xB#7]
  | .gret => [encR 0x61#7 0#5 0#5 0#3 0#5 0xB#7]
  | .gabort rd rs1 rs2 => [encR 0x62#7 rs2 rs1 0#3 rd 0xB#7]
  | .ladd md vd va vb => (encLR (mBit md) 0#6 vb va vd 0x2B#7) :: md.toList
  | .lsub md vd va vb => (encLR (mBit md) 1#6 vb va vd 0x2B#7) :: md.toList
  | .lmul md vd va vb => (encLR (mBit md) 2#6 vb va vd 0x2B#7) :: md.toList
  | .lmulh md vd va vb => (encLR (mBit md) 3#6 vb va vd 0x2B#7) :: md.toList
  | .lmulhu md vd va vb => (encLR (mBit md) 4#6 vb va vd 0x2B#7) :: md.toList
  | .lmin md vd va vb => (encLR (mBit md) 5#6 vb va vd 0x2B#7) :: md.toList
  | .lmax md vd va vb => (encLR (mBit md) 6#6 vb va vd 0x2B#7) :: md.toList
  | .lminu md vd va vb => (encLR (mBit md) 7#6 vb va vd 0x2B#7) :: md.toList
  | .lmaxu md vd va vb => (encLR (mBit md) 8#6 vb va vd 0x2B#7) :: md.toList
  | .land md vd va vb => (encLR (mBit md) 9#6 vb va vd 0x2B#7) :: md.toList
  | .lor md vd va vb => (encLR (mBit md) 0xA#6 vb va vd 0x2B#7) :: md.toList
  | .lxor md vd va vb => (encLR (mBit md) 0xB#6 vb va vd 0x2B#7) :: md.toList
  | .landn md vd va vb => (encLR (mBit md) 0xC#6 vb va vd 0x2B#7) :: md.toList
  | .lsll md vd va vb => (encLR (mBit md) 0xD#6 vb va vd 0x2B#7) :: md.toList
  | .lsrl md vd va vb => (encLR (mBit md) 0xE#6 vb va vd 0x2B#7) :: md.toList
  | .lsra md vd va vb => (encLR (mBit md) 0xF#6 vb va vd 0x2B#7) :: md.toList
  | .lbext md vd va vb => (encLR (mBit md) 0x10#6 vb va vd 0x2B#7) :: md.toList
  | .lbextu md vd va vb => (encLR (mBit md) 0x11#6 vb va vd 0x2B#7) :: md.toList
  | .lbins md vd va vb => (encLR (mBit md) 0x12#6 vb va vd 0x2B#7) :: md.toList
  | .lpopc md vd va => (encLR (mBit md) 0x13#6 0#6 va vd 0x2B#7) :: md.toList
  | .lclz md vd va => (encLR (mBit md) 0x14#6 0#6 va vd 0x2B#7) :: md.toList
  | .lctz md vd va => (encLR (mBit md) 0x15#6 0#6 va vd 0x2B#7) :: md.toList
  | .lsel md vd va vb => (encLR (mBit md) 0x16#6 vb va vd 0x2B#7) :: md.toList
  | .lmov md vd va => (encLR (mBit md) 0x17#6 0#6 va vd 0x2B#7) :: md.toList
  | .lidx md vd => (encLR (mBit md) 0x18#6 0#6 0#6 vd 0x2B#7) :: md.toList
  | .lcmpEq md k va vb => (encLR (mBit md) 0x20#6 vb va (0#3 ++ k) 0x2B#7) :: md.toList
  | .lcmpNe md k va vb => (encLR (mBit md) 0x21#6 vb va (0#3 ++ k) 0x2B#7) :: md.toList
  | .lcmpLt md k va vb => (encLR (mBit md) 0x22#6 vb va (0#3 ++ k) 0x2B#7) :: md.toList
  | .lcmpGe md k va vb => (encLR (mBit md) 0x23#6 vb va (0#3 ++ k) 0x2B#7) :: md.toList
  | .lcmpLtu md k va vb => (encLR (mBit md) 0x24#6 vb va (0#3 ++ k) 0x2B#7) :: md.toList
  | .lcmpGeu md k va vb => (encLR (mBit md) 0x25#6 vb va (0#3 ++ k) 0x2B#7) :: md.toList
  | .laddi md vd va imm => (encLI (mBit md) 0#3 imm va vd 0x5B#7) :: md.toList
  | .landi md vd va imm => (encLI (mBit md) 1#3 imm va vd 0x5B#7) :: md.toList
  | .lori md vd va imm => (encLI (mBit md) 2#3 imm va vd 0x5B#7) :: md.toList
  | .lxori md vd va imm => (encLI (mBit md) 3#3 imm va vd 0x5B#7) :: md.toList
  | .lslli md vd va sh => (encLI (mBit md) 4#3 (0#4 ++ sh) va vd 0x5B#7) :: md.toList
  | .lsrli md vd va sh => (encLI (mBit md) 5#3 (0#4 ++ sh) va vd 0x5B#7) :: md.toList
  | .lsrai md vd va sh => (encLI (mBit md) 6#3 (0#4 ++ sh) va vd 0x5B#7) :: md.toList
  | .lmovi md vd imm => (encLI (mBit md) 7#3 imm 0#6 vd 0x5B#7) :: md.toList
  | .laddx md vd va xs => (encLX (mBit md) 0#7 xs va vd 0x7B#7) :: md.toList
  | .lsubx md vd va xs => (encLX (mBit md) 1#7 xs va vd 0x7B#7) :: md.toList
  | .lmulx md vd va xs => (encLX (mBit md) 2#7 xs va vd 0x7B#7) :: md.toList
  | .lminx md vd va xs => (encLX (mBit md) 3#7 xs va vd 0x7B#7) :: md.toList
  | .lmaxx md vd va xs => (encLX (mBit md) 4#7 xs va vd 0x7B#7) :: md.toList
  | .landx md vd va xs => (encLX (mBit md) 5#7 xs va vd 0x7B#7) :: md.toList
  | .lorx md vd va xs => (encLX (mBit md) 6#7 xs va vd 0x7B#7) :: md.toList
  | .lxorx md vd va xs => (encLX (mBit md) 7#7 xs va vd 0x7B#7) :: md.toList
  | .lsllx md vd va xs => (encLX (mBit md) 8#7 xs va vd 0x7B#7) :: md.toList
  | .lsrlx md vd va xs => (encLX (mBit md) 9#7 xs va vd 0x7B#7) :: md.toList
  | .lsrax md vd va xs => (encLX (mBit md) 0xA#7 xs va vd 0x7B#7) :: md.toList
  | .lmovx md vd xs => (encLX (mBit md) 0xB#7 xs 0#6 vd 0x7B#7) :: md.toList
  | .lcmpxEq md k va xs => (encLX (mBit md) 0xC#7 xs va (0#3 ++ k) 0x7B#7) :: md.toList
  | .lcmpxLt md k va xs => (encLX (mBit md) 0xD#7 xs va (0#3 ++ k) 0x7B#7) :: md.toList
  | .lcmpxLtu md k va xs => (encLX (mBit md) 0xE#7 xs va (0#3 ++ k) 0x7B#7) :: md.toList
  | .lfaddx md vd va xs => (encLX (mBit md) 0xF#7 xs va vd 0x7B#7) :: md.toList
  | .lfmulx md vd va xs => (encLX (mBit md) 0x10#7 xs va vd 0x7B#7) :: md.toList
  | .accrd md vd xs => (encLX (mBit md) 0x11#7 xs 0#6 vd 0x7B#7) :: md.toList
  | .accwr md vd xs => (encLX (mBit md) 0x12#7 xs 0#6 vd 0x7B#7) :: md.toList
  | .cbtake md vd k xs => (encLX (mBit md) 0x13#7 xs (0#3 ++ k) vd 0x7B#7) :: md.toList
  | .lldc md ww hh vd xs va => (encLX (mBit md) (2#3 ++ ww ++ hh) xs va vd 0x7B#7) :: md.toList
  | .lstc md ww hh vd xs va => (encLX (mBit md) (3#3 ++ ww ++ hh) xs va vd 0x7B#7) :: md.toList
  | .latom md loc oo op vd xs va => (encLX (mBit md) (1#1 ++ loc ++ oo ++ op) xs va vd 0x7B#7) :: md.toList
  | .lld imm wid space vd xs vo => [encLM imm wid xs space vo vd 7#7]
  | .lst imm wid space vd xs vo => [encLM imm wid xs space vo vd 0x27#7]
  | .lfadd md vd va vb => (encLR (mBit md) 0#6 vb va vd 0x53#7) :: md.toList
  | .lfsub md vd va vb => (encLR (mBit md) 1#6 vb va vd 0x53#7) :: md.toList
  | .lfmul md vd va vb => (encLR (mBit md) 2#6 vb va vd 0x53#7) :: md.toList
  | .lfmin md vd va vb => (encLR (mBit md) 3#6 vb va vd 0x53#7) :: md.toList
  | .lfmax md vd va vb => (encLR (mBit md) 4#6 vb va vd 0x53#7) :: md.toList
  | .lfrcp md vd va => (encLR (mBit md) 5#6 0#6 va vd 0x53#7) :: md.toList
  | .lfrsq md vd va => (encLR (mBit md) 6#6 0#6 va vd 0x53#7) :: md.toList
  | .lfexp2 md vd va => (encLR (mBit md) 7#6 0#6 va vd 0x53#7) :: md.toList
  | .lflog2 md vd va => (encLR (mBit md) 8#6 0#6 va vd 0x53#7) :: md.toList
  | .lfsin md vd va => (encLR (mBit md) 9#6 0#6 va vd 0x53#7) :: md.toList
  | .lfcos md vd va => (encLR (mBit md) 0xA#6 0#6 va vd 0x53#7) :: md.toList
  | .lfcvt md vd va esel => (encLR (mBit md) 0xB#6 (0#3 ++ esel) va vd 0x53#7) :: md.toList
  | .lfcmpEq md k va vb => (encLR (mBit md) 0xC#6 vb va (0#3 ++ k) 0x53#7) :: md.toList
  | .lfcmpLt md k va vb => (encLR (mBit md) 0xD#6 vb va (0#3 ++ k) 0x53#7) :: md.toList
  | .lfcmpLe md k va vb => (encLR (mBit md) 0xE#6 vb va (0#3 ++ k) 0x53#7) :: md.toList
  | .lfcmpUn md k va vb => (encLR (mBit md) 0xF#6 vb va (0#3 ++ k) 0x53#7) :: md.toList
  | .lfma md vd va vb vc => (encLR (mBit md) vc vb va vd 0x43#7) :: md.toList
  | .lfms md vd va vb vc => (encLR (mBit md) vc vb va vd 0x47#7) :: md.toList
  | .lfnms md vd va vb vc => (encLR (mBit md) vc vb va vd 0x4B#7) :: md.toList
  | .lfnma md vd va vb vc => (encLR (mBit md) vc vb va vd 0x4F#7) :: md.toList
  | .lmatch md vd va => (encLR (mBit md) 0#6 0#6 va vd 0x57#7) :: md.toList
  | .lmatchF md vd va => (encLR (mBit md) 1#6 0#6 va vd 0x57#7) :: md.toList
  | .lreduceAdd md vd va => (encLR (mBit md) 2#6 0#6 va vd 0x57#7) :: md.toList
  | .lreduceMin md vd va => (encLR (mBit md) 3#6 0#6 va vd 0x57#7) :: md.toList
  | .lreduceMax md vd va => (encLR (mBit md) 4#6 0#6 va vd 0x57#7) :: md.toList
  | .lreduceFadd md vd va => (encLR (mBit md) 5#6 0#6 va vd 0x57#7) :: md.toList
  | .lscanAdd md vd va => (encLR (mBit md) 6#6 0#6 va vd 0x57#7) :: md.toList
  | .lscanFadd md vd va => (encLR (mBit md) 7#6 0#6 va vd 0x57#7) :: md.toList
  | .lballot md vd va => (encLR (mBit md) 8#6 0#6 va vd 0x57#7) :: md.toList
  | .lwhileLt md k va vb => (encLR (mBit md) 9#6 vb va (0#3 ++ k) 0x57#7) :: md.toList
  | .lwhileLtu md k va vb => (encLR (mBit md) 0xA#6 vb va (0#3 ++ k) 0x57#7) :: md.toList
  | .mand kd ka kb => [encLR 0#1 0x10#6 (0#3 ++ kb) (0#3 ++ ka) (0#3 ++ kd) 0x57#7]
  | .mor kd ka kb => [encLR 0#1 0x11#6 (0#3 ++ kb) (0#3 ++ ka) (0#3 ++ kd) 0x57#7]
  | .mxor kd ka kb => [encLR 0#1 0x12#6 (0#3 ++ kb) (0#3 ++ ka) (0#3 ++ kd) 0x57#7]
  | .mandn kd ka kb => [encLR 0#1 0x13#6 (0#3 ++ kb) (0#3 ++ ka) (0#3 ++ kd) 0x57#7]
  | .mnot kd ka => [encLR 0#1 0x14#6 0#6 (0#3 ++ ka) (0#3 ++ kd) 0x57#7]
  | .lshflUp md vd va kk => (encLR (mBit md) 0x18#6 kk va vd 0x57#7) :: md.toList
  | .lshflDn md vd va kk => (encLR (mBit md) 0x19#6 kk va vd 0x57#7) :: md.toList
  | .lshflIdx md vd va vi => (encLR (mBit md) 0x1A#6 vi va vd 0x57#7) :: md.toList
  | .lshflXor md vd va kk => (encLR (mBit md) 0x1B#6 kk va vd 0x57#7) :: md.toList
  | .lui rd imm => [encU imm rd 0x37#7]
  | .auipc rd imm => [encU imm rd 0x17#7]
  | .jal rd off => [encU (jImm off) rd 0x6F#7]
  | .jalr rd rs1 imm => [encI imm rs1 0#3 rd 0x67#7]
  | .beq rs1 rs2 off => [encR (bHi off) rs2 rs1 0#3 (bLo off) 0x63#7]
  | .bne rs1 rs2 off => [encR (bHi off) rs2 rs1 1#3 (bLo off) 0x63#7]
  | .blt rs1 rs2 off => [encR (bHi off) rs2 rs1 4#3 (bLo off) 0x63#7]
  | .bge rs1 rs2 off => [encR (bHi off) rs2 rs1 5#3 (bLo off) 0x63#7]
  | .bltu rs1 rs2 off => [encR (bHi off) rs2 rs1 6#3 (bLo off) 0x63#7]
  | .bgeu rs1 rs2 off => [encR (bHi off) rs2 rs1 7#3 (bLo off) 0x63#7]
  | .lb rd rs1 imm => [encI imm rs1 0#3 rd 3#7]
  | .lh rd rs1 imm => [encI imm rs1 1#3 rd 3#7]
  | .lw rd rs1 imm => [encI imm rs1 2#3 rd 3#7]
  | .ld rd rs1 imm => [encI imm rs1 3#3 rd 3#7]
  | .lbu rd rs1 imm => [encI imm rs1 4#3 rd 3#7]
  | .lhu rd rs1 imm => [encI imm rs1 5#3 rd 3#7]
  | .lwu rd rs1 imm => [encI imm rs1 6#3 rd 3#7]
  | .sb rs1 rs2 imm => [encR (imm.extractLsb' 5 7) rs2 rs1 0#3 (imm.extractLsb' 0 5) 0x23#7]
  | .sh rs1 rs2 imm => [encR (imm.extractLsb' 5 7) rs2 rs1 1#3 (imm.extractLsb' 0 5) 0x23#7]
  | .sw rs1 rs2 imm => [encR (imm.extractLsb' 5 7) rs2 rs1 2#3 (imm.extractLsb' 0 5) 0x23#7]
  | .sd rs1 rs2 imm => [encR (imm.extractLsb' 5 7) rs2 rs1 3#3 (imm.extractLsb' 0 5) 0x23#7]
  | .addi rd rs1 imm => [encI imm rs1 0#3 rd 0x13#7]
  | .slti rd rs1 imm => [encI imm rs1 2#3 rd 0x13#7]
  | .sltiu rd rs1 imm => [encI imm rs1 3#3 rd 0x13#7]
  | .xori rd rs1 imm => [encI imm rs1 4#3 rd 0x13#7]
  | .ori rd rs1 imm => [encI imm rs1 6#3 rd 0x13#7]
  | .andi rd rs1 imm => [encI imm rs1 7#3 rd 0x13#7]
  | .slli rd rs1 sh => [encI (0#6 ++ sh) rs1 1#3 rd 0x13#7]
  | .srli rd rs1 sh => [encI (0#6 ++ sh) rs1 5#3 rd 0x13#7]
  | .srai rd rs1 sh => [encI (0x10#6 ++ sh) rs1 5#3 rd 0x13#7]
  | .add rd rs1 rs2 => [encR 0#7 rs2 rs1 0#3 rd 0x33#7]
  | .sll rd rs1 rs2 => [encR 0#7 rs2 rs1 1#3 rd 0x33#7]
  | .slt rd rs1 rs2 => [encR 0#7 rs2 rs1 2#3 rd 0x33#7]
  | .sltu rd rs1 rs2 => [encR 0#7 rs2 rs1 3#3 rd 0x33#7]
  | .xor rd rs1 rs2 => [encR 0#7 rs2 rs1 4#3 rd 0x33#7]
  | .srl rd rs1 rs2 => [encR 0#7 rs2 rs1 5#3 rd 0x33#7]
  | .or rd rs1 rs2 => [encR 0#7 rs2 rs1 6#3 rd 0x33#7]
  | .and rd rs1 rs2 => [encR 0#7 rs2 rs1 7#3 rd 0x33#7]
  | .sub rd rs1 rs2 => [encR 0x20#7 rs2 rs1 0#3 rd 0x33#7]
  | .sra rd rs1 rs2 => [encR 0x20#7 rs2 rs1 5#3 rd 0x33#7]
  | .addiw rd rs1 imm => [encI imm rs1 0#3 rd 0x1B#7]
  | .slliw rd rs1 sh => [encR 0#7 sh rs1 1#3 rd 0x1B#7]
  | .srliw rd rs1 sh => [encR 0#7 sh rs1 5#3 rd 0x1B#7]
  | .sraiw rd rs1 sh => [encR 0x20#7 sh rs1 5#3 rd 0x1B#7]
  | .addw rd rs1 rs2 => [encR 0#7 rs2 rs1 0#3 rd 0x3B#7]
  | .sllw rd rs1 rs2 => [encR 0#7 rs2 rs1 1#3 rd 0x3B#7]
  | .srlw rd rs1 rs2 => [encR 0#7 rs2 rs1 5#3 rd 0x3B#7]
  | .subw rd rs1 rs2 => [encR 0x20#7 rs2 rs1 0#3 rd 0x3B#7]
  | .sraw rd rs1 rs2 => [encR 0x20#7 rs2 rs1 5#3 rd 0x3B#7]
  | .fence rd rs1 fm pred succ => [encI (fm ++ pred ++ succ) rs1 0#3 rd 0xF#7]
  | .fenceI rd rs1 imm => [encI imm rs1 1#3 rd 0xF#7]
  | .ecall => [encI 0#12 0#5 0#3 0#5 0x73#7]
  | .ebreak => [encI 1#12 0#5 0#3 0#5 0x73#7]
  | .mul rd rs1 rs2 => [encR 1#7 rs2 rs1 0#3 rd 0x33#7]
  | .mulh rd rs1 rs2 => [encR 1#7 rs2 rs1 1#3 rd 0x33#7]
  | .mulhsu rd rs1 rs2 => [encR 1#7 rs2 rs1 2#3 rd 0x33#7]
  | .mulhu rd rs1 rs2 => [encR 1#7 rs2 rs1 3#3 rd 0x33#7]
  | .div rd rs1 rs2 => [encR 1#7 rs2 rs1 4#3 rd 0x33#7]
  | .divu rd rs1 rs2 => [encR 1#7 rs2 rs1 5#3 rd 0x33#7]
  | .rem rd rs1 rs2 => [encR 1#7 rs2 rs1 6#3 rd 0x33#7]
  | .remu rd rs1 rs2 => [encR 1#7 rs2 rs1 7#3 rd 0x33#7]
  | .mulw rd rs1 rs2 => [encR 1#7 rs2 rs1 0#3 rd 0x3B#7]
  | .divw rd rs1 rs2 => [encR 1#7 rs2 rs1 4#3 rd 0x3B#7]
  | .divuw rd rs1 rs2 => [encR 1#7 rs2 rs1 5#3 rd 0x3B#7]
  | .remw rd rs1 rs2 => [encR 1#7 rs2 rs1 6#3 rd 0x3B#7]
  | .remuw rd rs1 rs2 => [encR 1#7 rs2 rs1 7#3 rd 0x3B#7]
  | .lrW aq rl rd rs1 => [encR (2#5 ++ aq ++ rl) 0#5 rs1 2#3 rd 0x2F#7]
  | .lrD aq rl rd rs1 => [encR (2#5 ++ aq ++ rl) 0#5 rs1 3#3 rd 0x2F#7]
  | .scW aq rl rd rs1 rs2 => [encR (3#5 ++ aq ++ rl) rs2 rs1 2#3 rd 0x2F#7]
  | .scD aq rl rd rs1 rs2 => [encR (3#5 ++ aq ++ rl) rs2 rs1 3#3 rd 0x2F#7]
  | .amoswapW aq rl rd rs1 rs2 => [encR (1#5 ++ aq ++ rl) rs2 rs1 2#3 rd 0x2F#7]
  | .amoswapD aq rl rd rs1 rs2 => [encR (1#5 ++ aq ++ rl) rs2 rs1 3#3 rd 0x2F#7]
  | .amoaddW aq rl rd rs1 rs2 => [encR (0#5 ++ aq ++ rl) rs2 rs1 2#3 rd 0x2F#7]
  | .amoaddD aq rl rd rs1 rs2 => [encR (0#5 ++ aq ++ rl) rs2 rs1 3#3 rd 0x2F#7]
  | .amoxorW aq rl rd rs1 rs2 => [encR (4#5 ++ aq ++ rl) rs2 rs1 2#3 rd 0x2F#7]
  | .amoxorD aq rl rd rs1 rs2 => [encR (4#5 ++ aq ++ rl) rs2 rs1 3#3 rd 0x2F#7]
  | .amoandW aq rl rd rs1 rs2 => [encR (0xC#5 ++ aq ++ rl) rs2 rs1 2#3 rd 0x2F#7]
  | .amoandD aq rl rd rs1 rs2 => [encR (0xC#5 ++ aq ++ rl) rs2 rs1 3#3 rd 0x2F#7]
  | .amoorW aq rl rd rs1 rs2 => [encR (8#5 ++ aq ++ rl) rs2 rs1 2#3 rd 0x2F#7]
  | .amoorD aq rl rd rs1 rs2 => [encR (8#5 ++ aq ++ rl) rs2 rs1 3#3 rd 0x2F#7]
  | .amominW aq rl rd rs1 rs2 => [encR (0x10#5 ++ aq ++ rl) rs2 rs1 2#3 rd 0x2F#7]
  | .amominD aq rl rd rs1 rs2 => [encR (0x10#5 ++ aq ++ rl) rs2 rs1 3#3 rd 0x2F#7]
  | .amomaxW aq rl rd rs1 rs2 => [encR (0x14#5 ++ aq ++ rl) rs2 rs1 2#3 rd 0x2F#7]
  | .amomaxD aq rl rd rs1 rs2 => [encR (0x14#5 ++ aq ++ rl) rs2 rs1 3#3 rd 0x2F#7]
  | .amominuW aq rl rd rs1 rs2 => [encR (0x18#5 ++ aq ++ rl) rs2 rs1 2#3 rd 0x2F#7]
  | .amominuD aq rl rd rs1 rs2 => [encR (0x18#5 ++ aq ++ rl) rs2 rs1 3#3 rd 0x2F#7]
  | .amomaxuW aq rl rd rs1 rs2 => [encR (0x1C#5 ++ aq ++ rl) rs2 rs1 2#3 rd 0x2F#7]
  | .amomaxuD aq rl rd rs1 rs2 => [encR (0x1C#5 ++ aq ++ rl) rs2 rs1 3#3 rd 0x2F#7]
  | .csrrw rd rs1 csr => [encI csr rs1 1#3 rd 0x73#7]
  | .csrrs rd rs1 csr => [encI csr rs1 2#3 rd 0x73#7]
  | .csrrc rd rs1 csr => [encI csr rs1 3#3 rd 0x73#7]
  | .csrrwi rd uimm csr => [encI csr uimm 5#3 rd 0x73#7]
  | .csrrsi rd uimm csr => [encI csr uimm 6#3 rd 0x73#7]
  | .csrrci rd uimm csr => [encI csr uimm 7#3 rd 0x73#7]
  | .sh1add rd rs1 rs2 => [encR 0x10#7 rs2 rs1 2#3 rd 0x33#7]
  | .sh2add rd rs1 rs2 => [encR 0x10#7 rs2 rs1 4#3 rd 0x33#7]
  | .sh3add rd rs1 rs2 => [encR 0x10#7 rs2 rs1 6#3 rd 0x33#7]
  | .addUw rd rs1 rs2 => [encR 4#7 rs2 rs1 0#3 rd 0x3B#7]
  | .sh1addUw rd rs1 rs2 => [encR 0x10#7 rs2 rs1 2#3 rd 0x3B#7]
  | .sh2addUw rd rs1 rs2 => [encR 0x10#7 rs2 rs1 4#3 rd 0x3B#7]
  | .sh3addUw rd rs1 rs2 => [encR 0x10#7 rs2 rs1 6#3 rd 0x3B#7]
  | .slliUw rd rs1 sh => [encI (2#6 ++ sh) rs1 1#3 rd 0x1B#7]
  | .andn rd rs1 rs2 => [encR 0x20#7 rs2 rs1 7#3 rd 0x33#7]
  | .orn rd rs1 rs2 => [encR 0x20#7 rs2 rs1 6#3 rd 0x33#7]
  | .xnor rd rs1 rs2 => [encR 0x20#7 rs2 rs1 4#3 rd 0x33#7]
  | .min rd rs1 rs2 => [encR 5#7 rs2 rs1 4#3 rd 0x33#7]
  | .minu rd rs1 rs2 => [encR 5#7 rs2 rs1 5#3 rd 0x33#7]
  | .max rd rs1 rs2 => [encR 5#7 rs2 rs1 6#3 rd 0x33#7]
  | .maxu rd rs1 rs2 => [encR 5#7 rs2 rs1 7#3 rd 0x33#7]
  | .rol rd rs1 rs2 => [encR 0x30#7 rs2 rs1 1#3 rd 0x33#7]
  | .ror rd rs1 rs2 => [encR 0x30#7 rs2 rs1 5#3 rd 0x33#7]
  | .rolw rd rs1 rs2 => [encR 0x30#7 rs2 rs1 1#3 rd 0x3B#7]
  | .rorw rd rs1 rs2 => [encR 0x30#7 rs2 rs1 5#3 rd 0x3B#7]
  | .zextH rd rs1 => [encR 4#7 0#5 rs1 4#3 rd 0x3B#7]
  | .clz rd rs1 => [encI 0x600#12 rs1 1#3 rd 0x13#7]
  | .ctz rd rs1 => [encI 0x601#12 rs1 1#3 rd 0x13#7]
  | .cpop rd rs1 => [encI 0x602#12 rs1 1#3 rd 0x13#7]
  | .sextB rd rs1 => [encI 0x604#12 rs1 1#3 rd 0x13#7]
  | .sextH rd rs1 => [encI 0x605#12 rs1 1#3 rd 0x13#7]
  | .rori rd rs1 sh => [encI (0x18#6 ++ sh) rs1 5#3 rd 0x13#7]
  | .orcB rd rs1 => [encI 0x287#12 rs1 5#3 rd 0x13#7]
  | .rev8 rd rs1 => [encI 0x6B8#12 rs1 5#3 rd 0x13#7]
  | .clzw rd rs1 => [encI 0x600#12 rs1 1#3 rd 0x1B#7]
  | .ctzw rd rs1 => [encI 0x601#12 rs1 1#3 rd 0x1B#7]
  | .cpopw rd rs1 => [encI 0x602#12 rs1 1#3 rd 0x1B#7]
  | .roriw rd rs1 sh => [encR 0x30#7 sh rs1 5#3 rd 0x1B#7]
  | .czeroEqz rd rs1 rs2 => [encR 7#7 rs2 rs1 5#3 rd 0x33#7]
  | .czeroNez rd rs1 rs2 => [encR 7#7 rs2 rs1 7#3 rd 0x33#7]
  | .sret => [encI 0x102#12 0#5 0#3 0#5 0x73#7]
  | .mret => [encI 0x302#12 0#5 0#3 0#5 0x73#7]
  | .wfi => [encI 0x105#12 0#5 0#3 0#5 0x73#7]
  | .sfenceVma rs1 rs2 => [encI (9#7 ++ rs2) rs1 0#3 0#5 0x73#7]
  | .divRemResultReturn .. => []
  | .engineResultReturn .. => []
  | .idleMemoryPatrol .. => []
  | .mainPowerLoss => []

/-- The first word, as a trap reports it in `xtval`. -/
def encodeWord (i : Instr) : BitVec 32 := (encode i).headD 0

end Sys2Proof
end

