-- ==== Sys2Proof/Machine/State.lean ====
section
/-! DEFINITION. The state of one HN816 module as plain data (INVENTORY.md, State). Collections are lists of (key, value)
pairs with rising keys; a key that is not listed holds the default its accessor in Ops.lean names. Numbers that only the
model uses (keys, ids) are Nat; registers are bit vectors. -/

namespace Sys2Proof.Machine

/-- A collection by key, keys strictly rising. -/
abbrev Map (α : Type) := List (Nat × α)

/-- Bytes by address, in canonical form (`Memory.wf` in Ops.lean). -/
abbrev Memory := List Host.Cell

/-- Why the machine stops. -/
inductive Fault where
  /-- Raised by an encoded instruction when no split holds the issue slot of the focus core: the instruction belongs to
  nobody. Safe: the hardware issues nothing either. -/
  | noIssuer
deriving DecidableEq, Repr

/-- Why an instruction has no meaning here. -/
inductive Refusal where
  /-- Not modelled yet. Safe: nothing follows from it. -/
  | notModelled (mnemonic : String)
deriving DecidableEq, Repr

/-- Where a translated access is performed (10 R187-R189). -/
inductive Place where
  | hbm (pa : Nat)
  /-- a peer device, by its fabric endpoint address, and an address there (22 R408) -/
  | peer (dev : BitVec 128) (pa : Nat)
  | host (pa : Nat)
deriving DecidableEq, Repr

/-- 06 R118. -/
inductive Mode where
  | u | s | m
deriving DecidableEq, Repr

/-! ## Splits and groups -/

/-- What a parked split waits for (06 R122, R129; 10 R199; 11 R218, R219; 12; 13 R269, R271; 14 R290, R293; 17 R338). -/
inductive Wake where
  /-- The split's counters are at most these limits; 7 is no limit (06 R129). -/
  | counters (tile copy store load : BitVec 3)
  /-- A fence: the store and load counters are at most these limits, and whether it then drops lines of the flock L1
  (13 R269). -/
  | fence (store load : BitVec 3) (drop : Bool)
  /-- The split's load and store counters are 0 and no result of it is outstanding (17 R338). -/
  | quiet
  /-- The same of the group in a slot of a core (17 R343). -/
  | quietOf (core slot : Nat)
  /-- These scratchpad lines are present (10 R199). -/
  | lines (ls : List Nat)
  /-- A queue of the core has room for n entries and no line's pending count would pass 7 (11 R218). -/
  | copyRoom (q n : Nat) (ls : List Nat)
  /-- The phase of the barrier object at a scratchpad byte differs from p (11 R219). -/
  | objPhase (byte : Nat) (p : BitVec 16)
  /-- The phase of a unit barrier differs from p (13 R271). -/
  | barPhase (bar : BitVec 4) (p : BitVec 16)
  /-- An interrupt is pending (06 Table 6.11, WFI). -/
  | interrupt
  /-- Only an event wakes the split: a join, an acknowledgement. -/
  | event
  /-- No CBTAKE or CBDONE of the group is unanswered (15 R309). -/
  | sheepIdle
  /-- The answer to an errand of the split. -/
  | answer (id : Nat)
  /-- The step queue of the core has a free place (12 R231). -/
  | stepRoom
  /-- No MLOOP holds any of these operand slots (12 R236). -/
  | loopFree (mask : BitVec 8)
  /-- The group holds the Bellwether (12 R230). -/
  | bell
  /-- The token of a bank is on the group's side (12 R249). -/
  | token (bank : Nat)
  /-- Some token with NEW = 1 is on the group's side (12 R249). -/
  | anyToken
  /-- A reduction tile awaits no more arrivals (12 R251). -/
  | pendZero (tile : Nat)
deriving DecidableEq, Repr

/-- One x result that is outstanding: the register, and the value where the hardware already holds it (06 Table 6.11,
14 R285). -/
structure Pend where
  rd  : BitVec 5
  val : Option Word64
  /-- the errand that brings it; 0 for a division -/
  id  : Nat := 0
  /-- the x bank that receives it: the split's own, or that of a split merged into it (06 R138) -/
  bank : Nat := 0
deriving DecidableEq, Repr

/-- A split of a group (06 Tables 6.1, 6.2, R113-R116, R122, R126, R137). -/
structure Split where
  pc       : Word64 := 0
  mode     : Mode := .u
  m0       : Word32 := 0
  lanes    : Word32 := 0
  depth    : BitVec 5 := 0
  stack    : Map Word32 := []
  idx      : BitVec 4 := 0
  pp       : Bool := false
  crem     : BitVec 4 := 0
  cremEngc : BitVec 3 := 0
  gfmt     : BitVec 18 := 0
  /-- the split resumes: its next issue takes CREM and PP (06 R126, R128) -/
  resume   : Bool := false
  /-- PP has been taken: the word at the pc issues under `gfmt` -/
  armed    : Bool := false
  /-- an SFENCE.VMA has been sent to the dies, and every die has acknowledged it (10 R190) -/
  sfence   : Option Bool := none
  /-- fields of an FMT whose target has not issued -/
  fmt      : Option (BitVec 18) := none
  /-- counted words of the running clause still to issue; 0 outside a counted clause -/
  left     : BitVec 4 := 0
  engc     : BitVec 3 := 7
  stall    : BitVec 2 := 0
  window   : Bool := false
  aging    : Nat := 0
  wake     : Option Wake := none
  /-- the result register of a parked instruction that an event completes -/
  ansRd    : BitVec 5 := 0
  /-- the arrival this split has already made in a BAR that parked it (13 R271) -/
  arrived  : Option (BitVec 4 × BitVec 16) := none
  /-- the cell a parked JOIN has already decremented (14 R293) -/
  joined   : Option Nat := none
  /-- the continuation of a JOIN whose cell reached 0 (14 R293) -/
  joinCont : Option Word64 := none
  atLjalr  : Bool := false
  skipBrk  : Bool := false
  /-- traps the split has taken -/
  traps    : Nat := 0
  marks    : BitVec 16 := 0
  pend     : List Pend := []
  /-- the mode the split came from while it is in a trap -/
  trapFrom : Option Mode := none
  /-- the waits of a split that interrupts took out of its park, the latest first, with the mode it was parked in (05 R105, 16 R324) -/
  held     : List (Mode × Wake) := []
  /-- the number of the next operation at the split's last FENCE.S rel: its later writes follow every operation below it
  (13 R263) -/
  rel      : Nat := 0
deriving DecidableEq, Repr

/-- A gate frame (17 R337). -/
structure GateFrame where
  shadow  : Map Word64 := []
  ret     : Word64 := 0
  asid    : BitVec 16 := 0
  dom     : BitVec 12 := 0
  tbase   : BitVec 40 := 0
  tlast   : BitVec 8 := 0
  gidx    : BitVec 8 := 0
  xarg    : Word32 := 0
  xres    : Word32 := 0
  larg    : BitVec 16 := 0
  lwin    : BitVec 5 := 0
  fault   : BitVec 48 := 0
  m0      : Word32 := 0
  m       : Map Word32 := []
  depth   : BitVec 5 := 0
  stack   : Map Word32 := []
  faulted : Bool := false
deriving DecidableEq, Repr

/-- S-mode CSRs of a group or the handler slot (06 R121, 16 R326); `sstatus` holds the writable S bits. -/
structure SCsr where
  sstatus    : Word64 := 0
  sie        : Word64 := 0
  stvec      : Word64 := 0
  sscratch   : Word64 := 0
  sepc       : Word64 := 0
  scause     : Word64 := 0
  stval      : Word64 := 0
  sip        : Word64 := 0
  satp       : Word64 := 0
  stimecmp   : Word64 := 0xFFFFFFFFFFFFFFFF
  scounteren : Word32 := 0
  senvcfg    : Word64 := 0
deriving DecidableEq, Repr

/-- A group in a slot; the handler slot's bank has the same shape with one split (06 R108-R117, 14 R279). -/
structure Group where
  unit    : Nat := 0
  index   : Nat := 0
  /-- the join handle of a recruit (14 R284) -/
  recruit : Option Word64 := none
  gen     : Word32 := 0
  prio    : BitVec 3 := 0
  ilock   : Bool := false
  lw16    : Bool := false
  vregs   : Nat := 16
  splits  : Map Split := []
  y       : Map Word64 := []
  v       : Map Word32 := []
  m       : Map Word32 := []
  exited  : Word32 := 0
  aur     : Bool := false
  xdiv    : Bool := false
  wsgrp   : BitVec 6 := 0
  gsel    : BitVec 4 := 0
  csr     : SCsr := {}
  dom     : BitVec 12 := 0
  tbase   : BitVec 40 := 0
  tlast   : BitVec 8 := 0
  frames  : List GateFrame := []
  instret : Word64 := 0
  /-- the split in a trap, while the others are frozen (16 R315) -/
  trapped : Option Nat := none
  /-- frozen by a protection violation: cause and value of the notification (18 R354) -/
  frozen  : Option (Option Nat × Word64) := none
  /-- halted for debug or by a pre-emption (16 R328, 19 R367) -/
  halted  : Bool := false
deriving DecidableEq, Repr

/-! ## Outstanding operations of a core (06 R125) -/

/-- What one access of an operation does at its ordering point. -/
inductive AccWhat where
  | read
  | write (d : List Byte)
  /-- 10 R206: ppp, b, and vd + 1 for CAS -/
  | atom (op : BitVec 3) (b c : Word32)
  | discard
deriving DecidableEq, Repr

/-- One access of an outstanding lane, store or engine operation. `space` as Table 10.1; `addr` the virtual address, the
local offset or the weight offset; `val` the value read; `done` it has been performed. -/
structure Acc where
  lane  : Nat := 0
  space : BitVec 2 := 0
  addr  : Word64 := 0
  size  : Nat := 4
  what  : AccWhat := .read
  /-- where a privileged access goes, fixed when its instruction issued (10 R203) -/
  place : Option (Place × BitVec 2) := none
  val   : Option Word64 := none
  done  : Bool := false
  /-- its value has been written to the lane -/
  wrote : Bool := false
  /-- of a pair of 32-bit elements, those that have been written (05 R105) -/
  part  : BitVec 2 := 0
deriving DecidableEq, Repr

structure Op where
  id    : Nat
  slot  : Nat
  /-- the splits that count it -/
  who   : BitVec 4
  /-- the splits whose program order holds it; unlike `who`, it outlives the splits (13 R253) -/
  agent : BitVec 4 := who
  load  : Bool := false
  store : Bool := false
  /-- a hart store, which does not touch the flock L1 (10 R191) -/
  hart  : Bool := false
  mode  : Mode := .u
  asid  : BitVec 16 := 0
  unit  : Nat := 0
  vd    : BitVec 6 := 0
  hint  : BitVec 2 := 0
  /-- its reads are acquires: no later access of its splits is performed before it (13 R263) -/
  acq   : Bool := false
  /-- a release before it: its writes follow every operation of its splits with a lower id (13 R263) -/
  behind : Nat := 0
  /-- sstatus.MXR when it issued (10 R186) -/
  mxr   : Bool := false
  /-- a hart load whose value is still to be written: its bytes, and whether it is sign-extended (06 R120) -/
  into  : Option (Nat × Bool) := none
  accs  : List Acc := []
deriving DecidableEq, Repr

/-! ## Engine queues, matrix engine -/

/-- A copy or gather or collective request (11 Table 11.2) or a slot fill (12). `raw` is the 256-bit record; the rest is
what the engine holds about it. -/
structure Entry where
  id      : Nat
  slot    : Nat
  who     : BitVec 4
  mode    : Mode
  asid    : BitVec 16
  unit    : Nat
  raw     : BitVec 256
  fetched : Bool := false
  /-- destination lines of the request that have landed -/
  landed  : List Nat := []
  /-- the index list of a gather, read when the request was fetched (11 R212) -/
  idx     : List Word32 := []
  /-- what the bytes held that the request has written, where its source may overlap its destination (11 R212) -/
  olds    : Map Byte := []
  err     : Bool := false
  /-- an access of it lay outside the unit's leases: it was not performed, and the request updates nothing (03 R61) -/
  cut     : Bool := false
  /-- a slot fill (12 R233): the steps it must not overtake, and the MLOOP it belongs to -/
  after   : List Nat := []
  loop    : Option Nat := none
  /-- dropped for a protection violation: the queue is frozen with the cause and address of the notification (18 R354) -/
  dead    : Option (Option Nat × Word64) := none
deriving DecidableEq, Repr

/-- A tile operation that a split counts (06 Table 6.13): the id of its fill, step, conversion or send. -/
structure Tile where
  id   : Nat
  slot : Nat
  who  : BitVec 4
deriving DecidableEq, Repr

/-- A place in an engine queue: an entry, or a join with the ids it waits for (13 R270). -/
inductive QItem where
  | entry (e : Entry)
  | join (ids : List Nat)
deriving DecidableEq, Repr

/-! ## Handler slot, tasks -/

/-- A message on a mailbox, a refusal area, or in flight (14 R275): destination tag, header, payload; `core`, `slot` and
`job` are the sender's. -/
structure Msg where
  tag  : BitVec 24 := 0
  hdr  : Word64 := 0
  pay  : List Word64 := []
  core : Nat := 0
  slot : Nat := 0
  job  : BitVec 16 := 0
  unit : Nat := 0
  /-- the sender's reply channel; the order of arrival of a refusal -/
  reply : BitVec 3 := 0
  arr   : Nat := 0
deriving DecidableEq, Repr

/-- A channel of a core (14 R274). -/
structure Channel where
  handler : Word64 := 0
  bound   : Bool := false
  prio    : BitVec 3 := 0
  depth   : Nat := 16
  mailbox : List Msg := []
deriving DecidableEq, Repr

/-- A deque entry (14 R281). -/
structure Task where
  fn   : Word64
  arg  : Word64
  tenq : Word64
deriving DecidableEq, Repr

/-- A slot of a core: 0-3 group slots, 4 the handler slot (06 R121, 14 R274, R276, R281). -/
structure Slot where
  group      : Option Group := none
  /-- the handler slot runs an activation (14 R278): the channel it came from -/
  activation : Option (BitVec 3) := none
  /-- its message header and handler address (19 Table 19.6) -/
  actHdr     : Word64 := 0
  actPc      : Word64 := 0
  mstatus    : Word64 := 0
  medeleg    : Word64 := 0
  mideleg    : Word64 := 0
  mie        : Word64 := 0
  mtvec      : Word64 := 0
  mscratch   : Word64 := 0
  mepc       : Word64 := 0
  mcause     : Word64 := 0
  mtval      : Word64 := 0
  mip        : Word64 := 0
  mcounteren : Word32 := 0
  menvcfg    : Word64 := 0
  mtimecmp   : Word64 := 0xFFFFFFFFFFFFFFFF
  mcycleOff  : Word64 := 0
  /-- SEQ of the next send, sends outstanding, refusals with their channel -/
  seq        : BitVec 16 := 0
  sends      : Nat := 0
  refusals   : List (BitVec 3 × Msg) := []
  /-- the current-task record -/
  tenq       : Word64 := 0
  tdeq       : Word64 := 0
  tsrch      : Word64 := 0
  tfn        : Word64 := 0
  tvalid     : Bool := false
deriving DecidableEq, Repr

/-! ## Matrix engine (12) -/

/-- An operand slot: the slot number of the group that holds it, its unit, format tag, 16 lines of 64 bytes, side-area
(12 R223). -/
structure MSlot where
  owner : Option Nat := none
  unit  : Nat := 0
  tag   : BitVec 5 := 0
  bytes : Memory := []
  side  : Memory := []
deriving DecidableEq, Repr

/-- Where a bank's token is (12 R228). -/
inductive Token where
  | vector (slot : Nat) (new : Bool)
  | engine
  | nobody
deriving DecidableEq, Repr

/-- 12 Table 12.3. -/
inductive BankState where
  | free | f | el | eh
deriving DecidableEq, Repr

structure Bank where
  state : BankState := .free
  unit  : Nat := 0
  words : Map Word32 := []
  loss  : Bool := false
  token : Token := .nobody
deriving DecidableEq, Repr

/-- What is left of an MLOOP (12 Table 12.6); `cur` are the fills of the next step, `ahead` those of the step after it. -/
structure LoopRec where
  asrc  : Word64
  bsrc  : Word64
  actl  : Word64
  bctl  : Word64
  ainc  : Word64
  binc  : Word64
  left  : Nat
  odd   : Bool := false
  sa0   : Nat
  sa1   : Nat
  sb0   : Nat
  sb1   : Nat
  cur   : Option (Nat × Nat) := none
  ahead : Option (Nat × Nat) := none
  running : Bool := false
  mode    : Mode := .u
  asid    : BitVec 16 := 0
  /-- the fills that had been issued when the MLOOP was saved and that it repeats, with those of the step after (12 R237) -/
  redo    : List (Nat × Nat) := []
deriving DecidableEq, Repr

/-- An entry of the step queue (12 R231): an MMA, or an MLOOP. `waits` are the fills an interlocked step waits for. -/
structure Step where
  id    : Nat
  slot  : Nat
  unit  : Nat
  fa    : BitVec 5
  fb    : BitVec 5
  sa    : Nat
  sb    : Nat
  bank  : Nat
  z     : Bool
  waits : List Nat := []
  /-- the array was performing it when its unit was halted to be saved (12 R237) -/
  begun : Bool := false
  loop  : Option LoopRec := none
deriving DecidableEq, Repr

/-- A conversion in progress (12 R247). -/
structure Conv where
  id   : Nat
  slot : Nat
  bank : Nat
  op   : BitVec 2
deriving DecidableEq, Repr

/-- A REDSEND in progress (12 R239): the elements (N, X) not yet processed at the destination. -/
structure Send where
  id    : Nat
  core  : Nat
  slot  : Nat
  unit  : Nat
  bank  : Nat
  /-- the tokens have not returned -/
  held  : Bool
  dest  : Nat
  tile  : Nat
  tag   : Word32
  elems : List (BitVec 64 × BitVec 32)
deriving DecidableEq, Repr

/-- A reduction tile (12 R238): a sum that is not listed is EMPTY; N, X and LOSS of the others. -/
structure RTile where
  unit  : Option Nat := none
  pend  : BitVec 16 := 0
  drops : BitVec 16 := 0
  tag   : Word32 := 0
  sums  : Map (BitVec 128 × BitVec 32 × Bool) := []
  /-- arrivals dropped of units that have not armed the tile, by unit (12 R221, R240) -/
  loose : Map (BitVec 16) := []
deriving DecidableEq, Repr

/-! ## Errands: what a split asks of a home, an IO die, another core or the Sheepdog (14 R285, R290, R294-R296, 15 R302) -/

inductive Errand where
  | depdec (addr : Word64) (place : Option Place)
  | launch (desc ctl : Word64)
  | cancel (addr ctl : Word64)
  | steal (victim limit : Nat)
  | push (recs : List (BitVec 128))
  /-- capacity, the active lanes, their mask, and the destinations -/
  | take (cap : Nat) (lanes : List Nat) (m0 : Word32) (vd : BitVec 6) (k : BitVec 3)
  | done
  | flush (op : BitVec 2)
  /-- the release of a batch whose group has finished (15 R307) -/
  | release (holder : Nat)
deriving DecidableEq, Repr

/-- Errands whose split parks until they are answered. -/
def Errand.parks : Errand → Bool
  | .steal _ _ => true
  | .cancel _ _ => true
  | .flush op => op = 0 || op = 2
  | _ => false

/-- CBTAKE and CBDONE. -/
def Errand.batching : Errand → Bool
  | .take _ _ _ _ _ => true
  | .done => true
  | _ => false

def Errand.taking : Errand → Bool
  | .take _ _ _ _ _ => true
  | _ => false

/-- Errands to the Sheepdog. -/
def Errand.sheep : Errand → Bool
  | .push _ => true
  | .take _ _ _ _ _ => true
  | .done => true
  | .flush _ => true
  | .release _ => true
  | _ => false

structure Flight where
  id     : Nat
  core   : Nat
  slot   : Nat
  split  : Nat
  unit   : Nat
  job    : BitVec 16
  asid   : BitVec 16
  mode   : Mode
  /-- the instruction that a parked split asks from -/
  pc     : Word64 := 0
  rd     : BitVec 5
  what   : Errand
  /-- a steal request stands in the victim's mailbox; a CBFLUSH stands at the Sheepdog -/
  posted : Bool := false
  /-- the time a steal request was issued -/
  since  : Word64 := 0
  /-- the result values, once the errand has been performed -/
  answer : Option (List Word64) := none
  /-- the answer has reached the core while the split could not take it up: the instruction takes it when it is issued again -/
  arrived : Bool := false
  /-- the batch of a CBTAKE -/
  batch  : List (BitVec 128) := []
  /-- the handler slot's drain test failed (15 Table 15.5) -/
  failed : Bool := false
  /-- a task was delivered by this slot, whose operations with a lower id are performed first -/
  after  : Option (Nat × Nat × Nat) := none
deriving DecidableEq, Repr

/-- A message or a refusal on the mesh (14 R276). -/
structure Mail where
  id      : Nat
  refusal : Bool
  msg     : Msg
deriving DecidableEq, Repr

/-- An outstanding batch (15 Table 15.1): the hart id of its holder (a number that is no hart's, once the holder has finished), its
count, its bodies. -/
structure Batch where
  holder : Nat
  count  : Nat
  bodies : List (BitVec 24)
deriving DecidableEq, Repr

/-- The Sheepdog of a die (15 Table 15.1); `armed` lists hart ids. -/
structure Sheep where
  owner   : Option Nat := none
  window  : List (BitVec 128) := []
  batches : List Batch := []
  armed   : List Nat := []
  sweeps  : BitVec 16 := 0
deriving DecidableEq, Repr

/-- A join cell in use (04 Table 4.5). -/
structure JoinCell where
  unit  : Nat
  /-- the cell as handles name it: its number when it was allocated (16 R331) -/
  named : Nat
  cont  : BitVec 48
  count : Nat
  ocore : Nat
  oslot : Nat
deriving DecidableEq, Repr

/-! ## Kernels, queues and levels (01, 03, 04) -/

/-- An installed lease range (03 R57-R60, 05 R79): launch 0 is a standing lease of the executive. -/
structure Range where
  asid   : BitVec 16
  base   : BitVec 48
  size   : Nat
  w      : Bool
  launch : Nat
deriving DecidableEq, Repr

/-- A loaded kernel image, by handle (01 R12-R20, 05 R79). `text` is a heap offset. -/
structure Kernel where
  job     : BitVec 16
  text    : Nat
  textLen : Nat
  dataLen : Nat
  hw0     : Word32
  hw1     : Word32
  entry   : Nat
  leases  : List (BitVec 128)
  chans   : List Word64
  gates   : List Word64
deriving DecidableEq, Repr

/-- A heap extent: job, address space, offset, length in bytes, bytes of loaded text; the generation at which it was moved or
superseded (05 R79, R84-R86). -/
structure Extent where
  job : BitVec 16
  asid : BitVec 16
  off : Nat
  len : Nat
  text : Nat
  old : Option Word32 := none
deriving DecidableEq, Repr

/-- What a queue entry has started and has not retired (03 R54). -/
inductive Live where
  | launch (id : Nat)
  | run (id : Nat)
  | job (id : Nat)
deriving DecidableEq, Repr

/-- 03 Table 3.1. -/
structure Queue where
  base   : Word64 := 0
  logn   : BitVec 5 := 4
  prod   : Word32 := 0
  cons   : Word32 := 0
  ctl    : Bool := false
  qjob   : BitVec 16 := 0
  en     : Bool := false
  qprio  : BitVec 3 := 0
  badent : Word32 := 0
  qerr   : Bool := false
  live   : List Live := []
deriving DecidableEq, Repr

/-- A die collector of a launch (04 R76). -/
structure Collector where
  pending   : Nat := 0
  count     : Nat := 0
  status    : Word64 := 0
  faddr     : Word64 := 0
  /-- the cycle in which the first fault arose (04 R75) -/
  ftime     : Nat := 0
  sealed    : Bool := false
  forwarded : Bool := false
deriving DecidableEq, Repr

/-- How far a launch has come (03 R57, R63). -/
inductive Stage where
  | asked | leasing | running | refused
deriving DecidableEq, Repr

structure Launch where
  job    : BitVec 16
  /-- the address space of its job when it was dispatched -/
  asid   : BitVec 16 := 0
  desc   : Word64
  /-- the queue that dispatched it or its graph, and the IO die that admits it -/
  queue  : Nat
  iod    : Nat
  /-- the replay it is a node of, and the node's index -/
  run    : Option Nat := none
  nidx   : Nat := 0
  stage  : Stage := .asked
  /-- it counts in its job's counter (03 R56) -/
  counted : Bool := true
  kernel : Nat := 0
  prio   : BitVec 3 := 0
  gx     : Nat := 0
  gy     : Nat := 0
  gz     : Nat := 0
  param  : Word64 := 0
  plen   : Nat := 0
  done   : Word64 := 0
  node   : Word64 := 0
  ilock  : Bool := false
  gen    : Word32 := 0
  ranges : List Range := []
  counter : Nat := 0
  /-- order of admission; cores of a unit -/
  seq    : Nat := 0
  ncores : Nat := 1
  /-- index of the next unit to place -/
  next   : Nat := 0
  sealed : Bool := false
  cols   : Map Collector := []
  status : Word64 := 0
  faddr  : Word64 := 0
  /-- the cycle in which the first fault arose (04 R75) -/
  ftime  : Nat := 0
  cancelled : Bool := false
  /-- the image the launch runs, as its handle named it when the launch was admitted (05 R81, R85) -/
  image  : Option Kernel := none
  /-- parts its units have used whose tests are due: die, STRUCT, part (18 R351) -/
  suspects : List (Nat × Nat × Nat) := []
deriving DecidableEq, Repr

/-- The replays of a graph entry or phase (01 R25, R26, 03 R62). -/
structure Run where
  job     : BitVec 16
  graph   : Word64
  queue   : Nat
  iod     : Nat
  /-- replays not yet started -/
  left    : Nat
  active  : Bool := false
  nodes   : List Word64 := []
  counter : Nat := 0
  status  : Word64 := 0
  faddr   : Word64 := 0
  /-- index of the node whose first fault stands in the status -/
  ffNode  : Nat := 0
  /-- the dependence counters of the nodes -/
  counters : List Word64 := []
  /-- nodes enqueued in this replay -/
  begun   : List Nat := []
  /-- the phase descriptor and PBAR of a phase -/
  phase   : Option (Word64 × Word64) := none
  /-- started by its job's phase array, not by a queue entry -/
  own     : Bool := false
  pstatus : Word64 := 0
  pfaddr  : Word64 := 0
  cancelled : Bool := false
  /-- parts its units have used whose tests are due -/
  suspects : List (Nat × Nat × Nat) := []
deriving DecidableEq, Repr

/-- A decrement on its way from a launch's retirement (03 R63, R65). -/
structure Dec where
  id   : Nat
  asid : BitVec 16
  addr : Word64
  run  : Nat
  /-- the last decrement of its launch -/
  last : Bool
deriving DecidableEq, Repr

/-- A done message from a unit root to its die's collector (04 R75, R76). -/
structure DoneMsg where
  id     : Nat
  launch : Nat
  die    : Nat
  status : Word64
  faddr  : Word64
  /-- the cycle in which the first fault arose -/
  ftime  : Nat := 0
deriving DecidableEq, Repr

/-- A core node of a unit's branch of the completion tree, below the unit root (04 R76, R77): the core whose node it reports
to, what it waits for (groups and child nodes), and its combined word. -/
structure TreeNode where
  parent  : Nat
  pending : Nat
  status  : Word64 := 0
  faddr   : Word64 := 0
  ftime   : Nat := 0
deriving DecidableEq, Repr

/-- What the trace of a slot keeps between records (19 R363, R364): whether it was traced, the splits whose SYNC is due, the
records of the core at its last SYNC, the summary counters and the cycle they start at, and the cycle of each split's last issue. -/
structure SlotTrace where
  on      : Bool := false
  need    : List Nat := []
  since   : Nat := 0
  clauses : Nat := 0
  insns   : Nat := 0
  waits   : Nat := 0
  parks   : Nat := 0
  holds   : Nat := 0
  start   : Nat := 0
  last    : Map Nat := []
deriving DecidableEq, Repr

/-- The clause in the issue slot, for its CLAUSE record. -/
structure OpenClause where
  slot   : Nat
  split  : Nat
  pc     : Word64
  words  : Nat
  resume : Bool
  engc   : BitVec 3
  stall  : Nat
  m0     : Word32
deriving DecidableEq, Repr

structure Core where
  /-- the split that holds the issue slot: slot and split id -/
  issuing   : Option (Nat × Nat) := none
  /-- the slot that issued last (06 R123) -/
  lastSlot  : Option Nat := none
  slots     : Map Slot := []
  ops       : List Op := []
  tiles     : List Tile := []
  mslots    : Map MSlot := []
  banks     : Map Bank := []
  bell      : Option Nat := none
  steps     : List Step := []
  convs     : List Conv := []
  rtiles    : Map RTile := []
  /-- operand slots and banks fenced by a failed test (18 R351) -/
  deadSlots : BitVec 8 := 0
  deadBanks : Word32 := 0
  queues    : Map (List QItem) := []
  channels  : Map Channel := []
  deque     : List Task := []
  /-- the request in the steal mailbox: the id of its errand -/
  stealBox  : Option Nat := none
  /-- the unit that owns the channels, and the unit that owns the deque (04 R69, 14 R281) -/
  chanUnit  : Option Nat := none
  dequeUnit : Option Nat := none
  /-- profiling block (19 Table 19.1) -/
  dropped   : Word32 := 0
  failSteal : Word32 := 0
  tasks     : Word32 := 0
  qwait     : Word64 := 0
  search    : Word64 := 0
  runTicks  : Word64 := 0
  /-- trace: the selected register, TCTL, TUNIT, TENTRY, TBRK, TSTAT (19 Tables 19.2, 19.3) -/
  tsel      : BitVec 3 := 0
  tctl      : Word64 := 0x0380000000000000
  tunit     : Word64 := 0
  tentry    : Word64 := 0
  tbrk      : Word64 := 0
  tstat     : Word64 := 0
  /-- cycle of the core's last record, the records it has emitted, what each slot's trace keeps, the open clause -/
  tlast     : Nat := 0
  emits     : Nat := 0
  traces    : Map SlotTrace := []
  clause    : Option OpenClause := none
  reserved  : Option Nat := none
  fenced    : Bool := false
  /-- a test waits until the core holds nothing (18 R351) -/
  testDue   : Bool := false
  /-- the instruction at issue waits for a scoreboard, a counter or an engine port (06 R125, R141) -/
  waiting   : Bool := false
deriving DecidableEq, Repr

/-! ## Jobs, launches, units -/

/-- A notification of the executive: cause (none where the spec names none), unit, core and slot of the master, value (16 R318,
18 R354). -/
structure Notice where
  cause : Option Nat
  unit  : Nat
  core  : Nat
  slot  : Nat
  value : Word64
deriving DecidableEq, Repr

/-- A participant-independent unit barrier (13 R271, R272). -/
structure UBar where
  phase   : BitVec 16 := 0
  /-- watchdog: cycles counted, whether it counts, and since when (13 R272) -/
  count   : Nat := 0
  running : Bool := false
  since   : Nat := 0
  /-- a group that has finished had arrived at the phase by BAR or BAR.A -/
  left    : Bool := false
deriving DecidableEq, Repr

/-- A placed unit (03 R62, 04 R68-R76, 13 R271). -/
structure Unit where
  launch  : Nat := 0
  index   : Nat := 0
  job     : BitVec 16 := 0
  asid    : BitVec 16 := 0
  gen     : Word32 := 0
  cores   : List Nat := []
  ngroups : Nat := 1
  counter : Nat := 0
  /-- scratchpad window: base byte on the core of a single-core unit, size in bytes -/
  sbase   : Nat := 0
  ssize   : Nat := 0
  /-- the group slots a single-core unit holds -/
  slots   : List Nat := []
  vregs   : Nat := 16
  lw16    : Bool := false
  bars    : Map UBar := []
  /-- group indices that have finished -/
  finished : List Nat := []
  /-- the unit root, on unit core 0: its word, and the cycle in which its first fault arose (04 R75) -/
  status  : Word64 := 0
  faddr   : Word64 := 0
  ftime   : Nat := 0
  /-- the core nodes of the other cores, recruits' among them, that have not reported, by core (04 R76, R77) -/
  nodes   : Map TreeNode := []
  /-- the launch's parameter block (14 Table 14.2) -/
  param   : Word64 := 0
  /-- ended by a lease end, a watchdog or a cancel: no agent of it issues again -/
  ended   : Bool := false
  halted  : Bool := false
  /-- the access that ended the unit with a lease end: core, slot, address (03 R61, 16 R318) -/
  lease   : Option (Nat × Nat × Word64) := none
  /-- a PREEMPT is saving the unit (16 R328) -/
  saving  : Bool := false
  /-- an end or a cancel came while it was being saved: its image retires without a resume (16 R330) -/
  doomed  : Bool := false
deriving DecidableEq, Repr

/-- A registered job (01 R27, 03 R62, 05 R81, 20 R374). -/
structure Job where
  asid    : BitVec 16 := 0
  ptroot  : Word64 := 0
  gen     : Word32 := 1
  desc    : Word64 := 0
  keyslot : Nat := 0
  pceil   : BitVec 3 := 0
  dirty   : Bool := false
  qmask   : Word64 := 0
  phases  : Word64 := 0
  nphase  : Nat := 0
  /-- index of the next phase of the array, and the run of the phase in progress -/
  pnext   : Nat := 0
  prun    : Option Nat := none
  jdone   : Word64 := 0
  counter : Nat := 1
  /-- END has removed the host's 1 -/
  ended   : Bool := false
  cancelled : Bool := false
  /-- held by a migration: nothing of it is dispatched or started; `unplaced`: its units stay unplaced -/
  held    : Bool := false
  unplaced : Bool := false
  status  : Word64 := 0
  faddr   : Word64 := 0
  /-- the entry whose first fault stands in the status -/
  ffId    : Nat := 0
  /-- the control queue whose entry registered it -/
  queue   : Nat := 0
  /-- parts its units have used whose tests are due -/
  suspects : List (Nat × Nat × Nat) := []
deriving DecidableEq, Repr

/-- A forwarding-table entry is 128 bits (05 Table 5.1); a die holds its control space registers. -/
structure Die where
  fwd      : Map (BitVec 128) := []
  icinv    : Word64 := 0
  wsOpen   : Bool := false
  bwEn     : Bool := true
  bwLimit  : Word32 := 0x01000000
  /-- hart template: STVEC, SSBASE, SIE, STCMP, SCEN, SENV (16 Table 16.4) -/
  tStvec   : Word64 := 0
  tSsbase  : Word64 := 0
  tSie     : Word64 := 0
  tStcmp   : Word64 := 0
  tScen    : Word32 := 0
  tSenv    : Word64 := 0
  domains  : Map Word64 := []
  /-- error log registers (18 Table 18.6); the IO dies, 8 and 9, have them too -/
  elbase   : Word64 := 0
  elprod   : Word32 := 0
  elcons   : Word32 := 0
  elcorr   : Word32 := 0
  elovf    : Word32 := 0
  sheep    : Sheep := {}
  /-- snapshot port (10 Table 10.4) -/
  dsva     : Word64 := 0
  dscnt    : Word64 := 0
  dsout    : Word64 := 0
  dsres    : BitVec 2 := 0
  dsbusy   : Bool := false
  /-- the three registers as the GO of the snapshot in progress found them -/
  dsreq    : Word64 × Word64 × Word64 := (0, 0, 0)
  /-- pre-emption port (16 Table 16.5) and the unit it is saving or resuming -/
  pop      : BitVec 2 := 0
  pres     : BitVec 2 := 0
  pbusy    : Bool := false
  plen     : Word32 := 0
  parea    : Word64 := 0
  psize    : Word64 := 0
  punit    : Word64 := 0
  psaving  : Option Nat := none
  /-- the image a RESUME is looking for room for -/
  presume  : Option Nat := none
  /-- debug port (19 Table 19.7) and the steps in progress: unit, barrier, its phase at the start -/
  dunit    : Word64 := 0
  dforce   : Bool := false
  dop      : BitVec 3 := 0
  dbar     : BitVec 5 := 0
  dres     : BitVec 2 := 0
  dsteps   : Word32 := 0
  stepping : List (Nat × BitVec 4 × BitVec 16) := []
  /-- trace ring (19 Table 19.4) -/
  trbase   : Word64 := 0
  trprod   : Word32 := 0
  trcons   : Word32 := 0
  trdrop   : Word32 := 0
  /-- refresh groups of the weight store excluded from new regions, L2 ways masked, frames retired, ports degraded (18 R351) -/
  badGroups : Word64 := 0
  testDue  : List (Nat × Nat) := []
  badParts : List (Nat × Nat) := []
deriving DecidableEq, Repr

/-! ## Saved images (16 R331-R333) -/

/-- What is saved of one unit core: the core's parts that belong to the unit, and its scratchpad lines. -/
structure CoreImage where
  at_     : Nat
  core    : Core
  scratch : Memory
  lineP   : Map Nat
  lineH   : Map Bool
  /-- the join cells whose forker is on this core, by cell number -/
  joins   : Map JoinCell
  /-- a unit core's scratchpad allocation and the group slots its unit holds there -/
  base    : Nat := 0
  size    : Nat := 0
  slots   : List Nat := []
  /-- the core's answered steals and waits for a drain that are not taken up -/
  flights : List Flight := []
  /-- the core's place in its flock when it was saved (04 Table 4.5) -/
  pos     : Nat := 0
deriving DecidableEq, Repr

structure Image where
  /-- the number of the unit among the placed and saved ones -/
  number : Nat
  unit  : Unit
  /-- where it was written, and its bytes -/
  area  : Nat := 0
  size  : Nat
  /-- the launch's descriptor, as the header names it -/
  desc  : Word64
  cores : List CoreImage
  /-- recruits of the unit, each on a core of its own -/
  recruits : List CoreImage := []
  sheep : Option Sheep
deriving DecidableEq, Repr

/-! ## Migration, security, power (20, 21, 22) -/

/-- 20 Tables 20.1-20.3. -/
structure Migration where
  desc    : Word64 := 0
  res     : BitVec 3 := 0
  force   : Bool := false
  op      : BitVec 3 := 0
  phase   : BitVec 4 := 0
  round   : BitVec 16 := 0
  pages   : Word32 := 0
  recs    : Word32 := 0
  stale   : Word32 := 0
  /-- the descriptor in use -/
  job     : BitVec 16 := 0
  asid    : BitVec 16 := 0
  keyslot : Nat := 0
  peer    : BitVec 4 := 0
  maxround : Nat := 0
  session : Word32 := 0
  thresh  : Nat := 0
  ranges  : List (Word64 × Nat) := []
  notify  : Word32 := 0
  imgarea : Word64 := 0
  imgsize : Nat := 0
  /-- bytes of images stored so far, final rounds run -/
  imgused : Nat := 0
  finals  : Nat := 0
  /-- the stop in progress is a forced one; it waits for another STOP or an ABORT (20 R374) -/
  forced  : Bool := false
  stuck   : Bool := false
  /-- the round in progress: the pages its snapshot has selected, and those not yet read (20 R372, R373) -/
  total   : Nat := 0
  todo    : List Word64 := []
  /-- the pages that the snapshot of the round in progress has reported dirty (20 R374) -/
  reported : Nat := 0
  /-- the executive's data for the EXEC record (20 Table 20.4) -/
  exec    : List Byte := []
  seq     : Nat := 0
  /-- the receiver: OPEN applied, records applied, FIN's count, held records, required tags seen -/
  opened  : Bool := false
  applied : Nat := 0
  fin     : Option Nat := none
  held    : List (List Byte × List Byte × List Byte) := []
  jobOk   : Bool := false
  /-- the JOB record received, for the executive -/
  jobBody : List Byte := []
  /-- the images received: LAUNCH, UNIT and whether Sheepdog state is present, of their headers -/
  imgs    : List (Word64 × Nat × Bool) := []
  /-- records sent on the wire, oldest first: header and sealed body with its tag -/
  sent    : List (List Byte × List Byte × List Byte) := []
deriving DecidableEq, Repr

/-- A mailbox of the security controller (21 Table 21.7). -/
structure Mailbox where
  buf    : Memory := []
  len    : BitVec 16 := 0
  cmd    : BitVec 8 := 0
  rlen   : Word32 := 0
  status : BitVec 8 := 0
  busy   : Bool := false
  /-- bytes written to the buffer since GO, by offset (21 R394) -/
  late   : Map Byte := []
deriving DecidableEq, Repr

/-- A record of the event log (21 Table 21.6); its SEQ is its place. -/
structure LogRec where
  type : BitVec 16
  reg  : BitVec 8
  time : Word64
  dig  : BitVec 384
deriving DecidableEq, Repr

/-- A hart of the security controller, RV64 in M-mode (21 R384): its registers, its M-mode CSRs by number, and whether the external debug
module has halted it (21 R398). -/
structure CtlHart where
  pc : Word64 := 0
  x  : Map Word64 := []
  csr : Map Word64 := []
  halted : Bool := false
deriving DecidableEq, Repr

/-- A copy of NEXT in protected flash (21 R389). -/
structure FlashCopy where
  seq   : Nat := 0
  value : Nat := 0
  /-- the copy verifies -/
  good  : Bool := true
deriving DecidableEq, Repr

/-- The connection of the SPDM responder (21 R399, log 15): how far it has been negotiated; the transcripts of the negotiation, of the
measurements since the last signature, of the certificate messages, and of the key exchange; the key that the requester's FINISH has to
know, and the session's number. -/
structure Spdm where
  stage : Nat := 0
  vca   : List Byte := []
  meas  : List Byte := []
  cert  : List Byte := []
  kex   : List Byte := []
  fin   : List Byte := []
  id    : BitVec 32 := 0
deriving DecidableEq, Repr

/-- The security controller (21). -/
structure Security where
  /-- its private memories and harts, which no other agent reaches, and whose program is carried out request by request (21 R384,
  log 15); the certificate chain in protected flash (21 R387) -/
  rom     : Memory := []
  sram    : Memory := []
  harts   : List CtlHart := [{}, {}]
  /-- the root certificate, the certificates between it and the DevID certificate, and what stands in that before, between and after the two
  public keys -/
  root    : List Byte := []
  chain   : List Byte := []
  devid   : List Byte × List Byte × List Byte := ([], [], [])
  /-- the device keys derived at reset: ECDSA private key, LMS seed and identifier (21 R387) -/
  ecKey   : BitVec 384 := 0
  lmsSeed : BitVec 192 := 0
  lmsId   : BitVec 128 := 0
  fuses   : Map Word64 := [(1, 3)]
  /-- LCF as it stood at reset, which fixes the lifecycle state (21 R386) -/
  lcf     : BitVec 8 := 3
  lcadv   : Bool := false
  m       : Map (BitVec 384) := []
  log     : List LogRec := []
  keys    : Map (BitVec 256 × BitVec 256) := []
  nonce   : Option (BitVec 256 × Nat) := none
  level   : BitVec 2 := 0
  /-- the two copies of NEXT -/
  next0   : FlashCopy := {}
  next1   : FlashCopy := {}
  /-- leaves of the current block already used -/
  leaf    : Nat := 1024
  draws   : Nat := 0
  session : Bool := false
  fwver   : Word32 := 0
  spdm    : Spdm := {}
  host    : Mailbox := {}
  exec    : Mailbox := {}
  /-- GO writes that are not served yet, oldest first: the host's mailbox or not, CMD, request bytes (21 R384) -/
  turn    : List (Bool × Nat × Nat) := []
deriving DecidableEq, Repr

/-- 22 Tables 22.3, 22.6. -/
structure Power where
  temp  : BitVec 16 := 0
  power : BitVec 16 := 0
  gate  : BitVec 6 := 0
  cap   : BitVec 16 := 4400
  hot   : Bool := false
  bstep : BitVec 8 := 0
  therm : Bool := false
  ready : Bool := false
  /-- a bring-up step has failed; the module has no power -/
  failed : Bool := false
  off   : Bool := false
  /-- the executive runs on every hart (22 R411) -/
  exec  : Bool := false
  /-- the controller's record of bring-up steps that have failed (22 R411) -/
  faults : List (BitVec 8) := []
deriving DecidableEq, Repr

/-- An error that stands in the way of a hart: the next access of the memory system that it makes meets it, a fetch or a data access:
STRUCT of 18 Table 18.3, and whether the test passes (18 R349-R351, log 16). -/
structure Flaw where
  core   : Nat
  slot   : Nat
  struct : Nat
  pass   : Bool
  fetch  : Bool := false
deriving DecidableEq, Repr

structure State where
  cycle   : Nat := 0
  agenda  : List Instr := []
  /-- of the hart loads to come, those that are performed after they have issued (log 5) -/
  late    : List Bool := []
  flaw    : Option Flaw := none
  focus   : Nat := 0
  freeCtr : Nat := 0
  nextId  : Nat := 1
  hbm     : Memory := []
  scratch : Memory := []
  weight  : Memory := []
  hostMem : Memory := []
  peerMem : Memory := []
  /-- frame state by frame number: tracked, dirty; and the discarded frames (10 R193, R195) -/
  tracked : Map Bool := []
  dirty   : Map Bool := []
  discarded : Map Bool := []
  /-- pending count P and hold bit H of a scratchpad line, by core · 512 + line (11 R215) -/
  lineP   : Map Nat := []
  lineH   : Map Bool := []
  /-- root page tables by ASID (10 R187), and the host's (10 R188) -/
  roots   : Map Word64 := []
  hroots  : Map Word64 := []
  ranges  : List Range := []
  /-- pinned translations: ASID · 2^36 + page to leaf PTE and its level (03 R58) -/
  pins    : Map (Word64 × Nat) := []
  /-- entries of the home TLBs: ASID · 2^36 + page to leaf PTE and its level (10 R187) -/
  tlb     : Map (Word64 × Nat) := []
  /-- lines present in the hart data caches: (core, ASID, line) key to the HBM address the line stands for, the leaf it was translated
  by, and whether it is newer than the L2; the caches are coherent, so the bytes of a line are those that `hbm` holds (10 R191) -/
  dcache  : Map (Nat × Word64 × Bool) := []
  /-- instruction cache lines: (flock, ASID, line) key to the 64 bytes (05 R83) -/
  icache  : Map (List Byte) := []
  /-- flock L1 lines: (flock, ASID, line) key to the line of memory it stands for and the 64 bytes (10 R191) -/
  l1      : Map (Nat × List Byte) := []
  /-- load reservations held at the homes: a 64-byte line (kind and address) and the split that holds it (06 Table 6.11) -/
  resvs   : List (Nat × Nat × Nat × Nat) := []
  /-- weight region of a job on a die: job · 8 + die to base and size (10 R200) -/
  regions : Map (Nat × Nat) := []
  /-- text pages fetched in interlocked mode: ASID · 2^36 + page (05 R104) -/
  ilkPages : Map Bool := []
  jobs    : Map Job := []
  units   : Map Unit := []
  cores   : Map Core := []
  /-- REDSENDs whose partials are on their way (12 R239) -/
  sends   : List Send := []
  /-- the peer table, 16 entries of 256 bits (22 Table 22.4) -/
  peers   : Map (BitVec 256) := []
  dies    : Map Die := []
  flights : List Flight := []
  mails   : List Mail := []
  /-- join cells in use, by flock · 64 + cell (04 R78) -/
  joins   : Map JoinCell := []
  kernels : Map Kernel := []
  extents : List Extent := []
  queues  : Map Queue := []
  /-- the queue last served at a priority, by IO die · 8 + priority (03 R54) -/
  served  : Map Nat := []
  /-- launch control registers (03 Table 3.5) -/
  lcaddr  : Word64 := 0
  lcop    : BitVec 2 := 0
  lclevel : BitVec 3 := 0
  lcres   : BitVec 2 := 0
  launches : Map Launch := []
  runs    : Map Run := []
  /-- levels that have retired: level, job, descriptor (03 R64) -/
  gone    : List (Nat × BitVec 16 × Word64) := []
  decs    : List Dec := []
  dones   : List DoneMsg := []
  /-- the die that received a placer's last unit, by IO die (04 R72) -/
  lastDie : Map Nat := []
  /-- saved units, by unit -/
  images  : Map Image := []
  mig     : Migration := {}
  /-- received rounds of frames (20 R379) -/
  rround  : Map (BitVec 16) := []
  sec     : Security := {}
  power   : Power := {}
  /-- notifications of the executive, oldest first (16 R318, 18 R354) -/
  notices : List Notice := []
  /-- CXL functions frozen by a violation, by port (18 Table 18.4) -/
  cxlFrozen : BitVec 2 := 0
  /-- what the last operation answered to the host or the executive -/
  reply   : List Word64 := []
  data    : List Byte := []
deriving DecidableEq, Repr

/-- The module right after reset. -/
def State.reset : State := {}

end Sys2Proof.Machine
end

