-- ==== Sys2Proof/Machine/Map.lean ====
section
/-! DEFINITION. Reading and writing of the keyed collections and of memories: the canonical form, and bytes and words in
little-endian order (00 R6). -/

namespace Sys2Proof.Machine

def Map.find {α : Type} : Map α → Nat → Option α
  | [], _ => none
  | (k, v) :: r, a => if a = k then some v else Map.find r a

/-- Sets the value of a key, keeping the keys in rising order. -/
def Map.put {α : Type} : Map α → Nat → α → Map α
  | [], a, v => [(a, v)]
  | (k, w) :: r, a, v =>
    if a = k then (k, v) :: r
    else if a < k then (a, v) :: (k, w) :: r
    else (k, w) :: Map.put r a v

def Map.del {α : Type} : Map α → Nat → Map α
  | [], _ => []
  | (k, w) :: r, a => if a = k then Map.del r a else (k, w) :: Map.del r a

/-- The value of a key, `d` where it is not listed. -/
def Map.getD {α : Type} (d : α) (m : Map α) (k : Nat) : α := (Map.find m k).getD d

/-- Sets the value of a key; a key whose value is the default is not listed. -/
def Map.setD {α : Type} [DecidableEq α] (d : α) (m : Map α) (k : Nat) (v : α) : Map α :=
  if v = d then Map.del m k else Map.put m k v

/-- Strictly rising keys. -/
def Map.rising {α : Type} : Map α → Bool
  | [] => true
  | [_] => true
  | (a, _) :: (b, w) :: r => a < b && Map.rising ((b, w) :: r)

/-- A collection of which a set of keys may hold at most `cap` entries: where it is full, one of them, picked by n, makes room. -/
def Map.makeRoom {α : Type} (m : Map α) (mine : Nat → Bool) (cap n : Nat) : Map α :=
  let ks := (m.filter (fun e => mine e.1)).map Prod.fst
  if ks.length < cap then m else Map.del m (ks.getD (n % ks.length) 0)

/-! ## Memories -/

/-- An unlisted byte reads 0 (log 4). -/
def Memory.get (m : Memory) (a : Nat) : Byte := Map.getD 0#8 m a

def Memory.set (m : Memory) (a : Nat) (b : Byte) : Memory := Map.setD 0#8 m a b

/-- The canonical form: strictly rising addresses and no entry that equals what an unlisted address reads as. -/
def Memory.wf (m : Memory) : Bool := Map.rising m && m.all (fun e => decide (e.2 ≠ 0#8))

/-- n bytes from address a. -/
def Memory.bytes (m : Memory) (a : Nat) : Nat → List Byte
  | 0 => []
  | n + 1 => m.get a :: Memory.bytes m (a + 1) n

def Memory.setBytes (m : Memory) (a : Nat) : List Byte → Memory
  | [] => m
  | b :: r => Memory.setBytes (m.set a b) (a + 1) r

/-- Clears n bytes from address a. -/
def Memory.clear (m : Memory) (a n : Nat) : Memory := m.filter (fun e => e.1 < a || a + n ≤ e.1)

/-- The value of bytes in little-endian order. -/
def leValue : List Byte → Nat
  | [] => 0
  | b :: r => b.toNat + 256 * leValue r

/-- The n low bytes of a value, low byte first. -/
def leBytes (v : Nat) : Nat → List Byte
  | 0 => []
  | n + 1 => BitVec.ofNat 8 v :: leBytes (v / 256) n

def Memory.word64 (m : Memory) (a : Nat) : Word64 := BitVec.ofNat 64 (leValue (m.bytes a 8))

def Memory.setWord64 (m : Memory) (a : Nat) (v : Word64) : Memory := m.setBytes a (leBytes v.toNat 8)

/-- Bit i of a mask. -/
def bit (m : Word32) (i : Nat) : Bool := m.getLsbD i

/-- The set bits of a mask, ascending. -/
def bitsOf (m : Word32) : List Nat := (List.range 32).filter (fun i => bit m i)

def popCount (m : Word32) : Nat := (bitsOf m).length

/-- The mask of one lane. -/
def laneBit (l : Nat) : Word32 := 1#32 <<< l

/-- The mask of the lanes for which p holds. -/
def maskOf (p : Nat → Bool) : Word32 :=
  (List.range 32).foldl (fun m l => if p l then m ||| laneBit l else m) 0

/-- The lowest index from i on, among n, at which p holds. -/
def firstFrom (p : Nat → Bool) (i : Nat) : Nat → Option Nat
  | 0 => none
  | n + 1 => if p i then some i else firstFrom p (i + 1) n

/-- Bits [lo+n-1:lo] of a natural number. -/
def field (v lo n : Nat) : Nat := v / 2 ^ lo % 2 ^ n

end Sys2Proof.Machine
end

