-- ==== Sys2Proof/Machine/Memory.lean ====
section
/-! DEFINITION. Translation at the home, leases, and reads and writes at the ordering points (03 R58-R60, 10 R184-R202). -/

namespace Sys2Proof.Machine

/-- 10 R185: the home of a page is the xor of the twelve 3-bit groups of VA[47:12]. -/
def homeOf (va : Word64) : Nat :=
  ((List.range 12).foldl (fun (h : BitVec 3) i => h ^^^ va.extractLsb' (12 + 3 * i) 3) 0).toNat

/-- 10 R184: bits [63:48] all equal bit 47. -/
def canonical (va : Word64) : Bool :=
  va.extractLsb' 47 17 = 0#17 || va.extractLsb' 47 17 = BitVec.allOnes 17

/-- 10 R187: device physical addresses of HBM. -/
def hbmSize : Nat := 192000000000
def inHbm (pa : Nat) : Bool := pa / 2 ^ 38 < 8 && pa % 2 ^ 38 < hbmSize

/-- A 48-bit address as a canonical one. -/
def sextVa (va : Word64) : Word64 := (va.extractLsb' 0 48).signExtend 64

/-- What kind of access a translation is for. -/
inductive Kind where
  | read | write | fetch
deriving DecidableEq, Repr

/-- 22 R404: the control-space window. -/
def inWindow (va : Word64) : Bool :=
  va.extractLsb' 28 36 = 0xFFFFFF000#36 && decide ((va.extractLsb' 24 4).toNat ≤ 9)

/-- The byte of a peer's memory, as `peerMem` numbers it. -/
def peerByte (dev : BitVec 128) (a : Nat) : Nat := dev.toNat * 2 ^ 64 + a

/-- A number for each byte of every place; reservations name lines by it. -/
def Place.key : Place → Nat
  | .hbm a => a
  | .peer d a => 2 ^ 64 + peerByte d a
  | .host a => 2 ^ 62 + a

/-! ## Page walks (10 R186) -/

def pteV (p : Word64) : Bool := p.getLsbD 0
def pteR (p : Word64) : Bool := p.getLsbD 1
def pteW (p : Word64) : Bool := p.getLsbD 2
def pteX (p : Word64) : Bool := p.getLsbD 3
def pteU (p : Word64) : Bool := p.getLsbD 4
def pteA (p : Word64) : Bool := p.getLsbD 6
def pteD (p : Word64) : Bool := p.getLsbD 7
def pteAttr (p : Word64) : BitVec 2 := p.extractLsb' 61 2
def pteLoc (p : Word64) : BitVec 3 := p.extractLsb' 58 3
def ptePeer (p : Word64) : BitVec 4 := p.extractLsb' 54 4
def ptePpn (p : Word64) : Nat := (p.extractLsb' 10 44).toNat

/-- The leaf and its level, from the table at physical address `a`; a pointer entry has none of R, W, X, A, D, U and no
reserved bit set, as ratified. -/
def walkFrom (mem : Memory) (va : Word64) : Nat → Nat → Option (Word64 × Nat)
  | 0, a =>
    let p := mem.word64 (a + 8 * (va.extractLsb' 12 9).toNat)
    if pteV p && (pteR p || pteX p) && !(pteW p && !pteR p) then some (p, 0) else none
  | lv + 1, a =>
    let p := mem.word64 (a + 8 * (va.extractLsb' (12 + 9 * (lv + 1)) 9).toNat)
    if !pteV p || (pteW p && !pteR p) then none
    else if pteR p || pteX p then some (p, lv + 1)
    else if pteU p || pteA p || pteD p || p.extractLsb' 54 10 ≠ 0#10 then none
    else walkFrom mem va lv (4096 * ptePpn p)

/-- The number of a page of an address space. -/
def pageKey (asid : BitVec 16) (va : Word64) : Nat := asid.toNat * 2 ^ 36 + (va.extractLsb' 12 36).toNat

/-- The leaf that the tables of an address space give for an address now. -/
def State.walk (s : State) (asid : BitVec 16) (va : Word64) : Option (Word64 × Nat) :=
  match Map.find s.roots asid.toNat with
  | none => none
  | some root => walkFrom s.hbm va 3 root.toNat

/-- The leaf that the home of a page has for it: a pinned translation first (03 R58), else the entry of its TLB, else the tables
(10 R187). -/
def State.leaf (s : State) (asid : BitVec 16) (va : Word64) : Option (Word64 × Nat) :=
  if !canonical va then none
  else
    match Map.find s.pins (pageKey asid va) with
    | some e => some e
    | none =>
      match Map.find s.tlb (pageKey asid va) with
      | some e => some e
      | none => s.walk asid va

/-- 10 R186, R187: the home accepts the leaf, whatever the access. -/
def leafUsable (va : Word64) (p : Word64) (lv : Nat) : Bool :=
  p.getLsbD 63 = false && pteAttr p ≠ 3#2 && pteA p &&
    (if pteLoc p = 0#3 then
       lv = 0 && ptePeer p = 0#4 && decide (ptePpn p * 4096 / 2 ^ 38 = homeOf va) && inHbm (ptePpn p * 4096)
     else if pteLoc p = 1#3 then ptePpn p % 2 ^ (9 * lv) = 0
     else pteLoc p = 2#3 && ptePeer p = 0#4)

/-- The permission bits of a leaf as ratified, for an access in a mode with SUM and MXR (10 R186; S-mode never fetches
from a user page). In M-mode the user bit does not bind (log 9). -/
def leafAllows (p : Word64) (k : Kind) (md : Mode) (sum mxr : Bool) : Bool :=
  (match k with
   | .read => pteR p || (mxr && pteX p)
   | .write => pteW p && pteD p
   | .fetch => pteX p) &&
  (match md with
   | .u => pteU p
   | .s => !pteU p || (sum && k ≠ .fetch)
   | .m => true)

/-- The home refills its TLB with the leaf of a page it has walked to (10 R187); a leaf it does not accept is not kept (log 34). -/
def State.refill (s : State) (asid : BitVec 16) (va : Word64) : State :=
  match s.leaf asid va with
  | none => s
  | some (p, lv) =>
    if (Map.find s.pins (pageKey asid va)).isSome || !leafUsable va p lv then s
    else { s with tlb := Map.put s.tlb (pageKey asid va) (p, lv) }

/-- The home's TLB no longer holds a page. -/
def State.evict (s : State) (asid : BitVec 16) (va : Word64) : State := { s with tlb := Map.del s.tlb (pageKey asid va) }

/-- 10 R188: the host driver's tables, selected by the root bound to the ASID; a leaf must be valid with U = 1, R = 1 and,
for a write, W = 1. -/
def hostWalk (s : State) (asid : BitVec 16) (va : Word64) (write : Bool) : Option Nat :=
  match Map.find s.hroots asid.toNat with
  | none => none
  | some root =>
    match walkFrom s.hostMem va 3 root.toNat with
    | none => none
    | some (p, lv) =>
      if pteU p && pteR p && (!write || pteW p) then
        some (4096 * (ptePpn p / 2 ^ (9 * lv) * 2 ^ (9 * lv)) + va.toNat % 2 ^ (12 + 9 * lv))
      else none

/-- What a walk at the home answers for an access. -/
inductive Xlat where
  | ok (pl : Place) (attr : BitVec 2)
  /-- no usable leaf, or the leaf forbids the access (R187) -/
  | fail
  /-- the peer or host behind the leaf refuses (R188, R408) -/
  | remoteFail
deriving DecidableEq, Repr

/-- 22 R408: whether the flow to a peer is open. -/
def State.peerOpen (s : State) (d : BitVec 4) : Bool :=
  let e := Map.getD 0#256 s.peers d.toNat
  e.getLsbD 128 && !e.getLsbD 129

/-- The fabric endpoint address of an entry of the peer table, which names the device (22 Table 22.4). -/
def State.peerDevice (s : State) (d : BitVec 4) : BitVec 128 := (Map.getD 0#256 s.peers d.toNat).extractLsb' 0 128

/-- A walk at the home; the control-space window is translated by none (22 R404). -/
def State.translate (s : State) (asid : BitVec 16) (va : Word64) (k : Kind) (md : Mode) (sum mxr : Bool) : Xlat :=
  match (if inWindow va then none else s.leaf asid va) with
  | none => .fail
  | some (p, lv) =>
    if leafUsable va p lv && leafAllows p k md sum mxr then
      let off := va.toNat % 2 ^ (12 + 9 * lv)
      if pteLoc p = 0#3 then .ok (.hbm (ptePpn p * 4096 + off)) (pteAttr p)
      else if pteLoc p = 1#3 then
        if s.peerOpen (ptePeer p) then .ok (.peer (s.peerDevice (ptePeer p)) (ptePpn p * 4096 + off)) (pteAttr p) else .remoteFail
      else
        match hostWalk s asid va (k = .write) with
        | some a => .ok (.host a) (pteAttr p)
        | none => .remoteFail
    else .fail

/-! ## Leases (03 R59, R60) -/

/-- The range holds the address: a range is a run of 48-bit addresses, each of which names its canonical address (log 33). -/
def Range.covers (r : Range) (va : Word64) : Bool :=
  let a := va.toNat % 2 ^ 48
  canonical va && decide (r.base.toNat ≤ a) && decide (a < r.base.toNat + r.size)

/-- 03 Table 3.3: the byte lies in an installed range of the ASID and, for a write, in one with W = 1; the control-space window lies in
none (22 R404). -/
def State.leased (s : State) (asid : BitVec 16) (va : Word64) (write : Bool) : Bool :=
  !inWindow va && s.ranges.any (fun r => r.asid = asid && r.covers va && (!write || r.w))

/-- What a checked access of a U-mode agent meets: performed at a place, or the unit ends with LEASE (R60, R187). -/
def State.checkU (s : State) (asid : BitVec 16) (va : Word64) (write : Bool) (mxr : Bool := false) : Option (Place × BitVec 2) :=
  if s.leased asid va write then
    match s.translate asid va (if write then .write else .read) .u false mxr with
    | .ok pl a => some (pl, a)
    | _ => none
  else none

/-! ## Reads and writes at a place (10 R193, R195) -/

def frameOf (pa : Nat) : Nat := pa / 4096

def State.readPlace (s : State) (pl : Place) (n : Nat) : List Byte :=
  match pl with
  | .hbm a => s.hbm.bytes a n
  | .peer d a => s.peerMem.bytes (peerByte d a) n
  | .host a => s.hostMem.bytes a n

/-- The reservations of a 64-byte line are lost when a write to it is performed (06 Table 6.11). -/
def State.dropResv (s : State) (pl : Place) : State :=
  { s with resvs := s.resvs.filter (fun r => r.1 ≠ pl.key / 64) }

/-- 10 R195: a write to a tracked frame sets its dirty bit. -/
def State.markDirty (s : State) (pa : Nat) : State :=
  if Map.getD false s.tracked (frameOf pa) then { s with dirty := Map.setD false s.dirty (frameOf pa) true } else s

/-- A line that another agent writes is written back first: no hart data cache holds it newer than the L2 (10 R191). -/
def State.cleanLine (s : State) (pa : Nat) : State :=
  { s with dcache := s.dcache.map (fun e => if e.2.1 = pa / 64 * 64 then (e.1, e.2.1, e.2.2.1, false) else e) }

def State.writePlace (s : State) (pl : Place) (d : List Byte) : State :=
  let s := s.dropResv pl
  match pl with
  | .hbm a => { (s.cleanLine a).markDirty a with
      hbm := s.hbm.setBytes a d, discarded := Map.setD false s.discarded (frameOf a) false }
  | .peer p a => { s with peerMem := s.peerMem.setBytes (peerByte p a) d }
  | .host a => { s with hostMem := s.hostMem.setBytes a d }

/-- 10 R206: a LATOM that writes nothing still counts as a write for discards and dirty tracking. -/
def State.touchPlace (s : State) (pl : Place) : State :=
  match pl with
  | .hbm a => { s.markDirty a with discarded := Map.setD false s.discarded (frameOf a) false }
  | _ => s

/-- 10 R193: marks a page discarded at its home; its bytes read zero until a later write. Through coherence no hart data cache
holds a line of it any more (R194). -/
def State.discardPlace (s : State) (pl : Place) : State :=
  match pl with
  | .hbm a => { s.markDirty a with
      hbm := s.hbm.clear (frameOf a * 4096) 4096, discarded := Map.setD false s.discarded (frameOf a) true
      dcache := s.dcache.filter (fun e => frameOf e.2.1 ≠ frameOf a) }
  | .peer p a => { s with peerMem := s.peerMem.clear (peerByte p (a / 4096 * 4096)) 4096 }
  | .host a => { s with hostMem := s.hostMem.clear (a / 4096 * 4096) 4096 }

/-- Bytes at a device physical address; outside the HBM zero (10 R187, 22 R406). -/
def State.physRead (s : State) (a n : Nat) : List Byte :=
  (List.range n).map (fun i => if inHbm (a + i) then s.hbm.get (a + i) else 0)

/-- Writes bytes at a device physical address; bytes outside the HBM are dropped. -/
def State.physWrite (s : State) (a : Nat) (d : List Byte) : State :=
  (d.zip (List.range d.length)).foldl (fun s q =>
    if inHbm (a + q.2) then s.writePlace (.hbm (a + q.2)) [q.1] else s) s

/-- A write by an engine of the device, which sets no dirty bit (10 R195); bytes outside the HBM are dropped. -/
def State.engineWrite (s : State) (a : Nat) (d : List Byte) : State :=
  (d.zip (List.range d.length)).foldl (fun s q =>
    if inHbm (a + q.2) then
      { s.dropResv (.hbm (a + q.2)) with hbm := s.hbm.set (a + q.2) q.1, discarded := Map.setD false s.discarded (frameOf (a + q.2)) false }
    else s) s

/-- Some of n device physical bytes lie outside the HBM: writes to them are dropped and logged. -/
def outside (a n : Nat) : Bool := (List.range n).any (fun i => !inHbm (a + i))

/-! ## Local and weight space (04 R74, 10 R200, R201) -/

/-- The scratchpad byte, keyed core · 32768 + offset, of a local address of a unit; none beyond the window. -/
def Unit.localByte (u : Unit) (a : Nat) : Option Nat :=
  if a < u.ssize then
    match u.cores with
    | [c] => some (c * 32768 + u.sbase + a)
    | cs => (cs[a / 32768]?).map (fun c => c * 32768 + a % 32768)
  else none

/-- The line of a scratchpad byte. -/
def lineOf (b : Nat) : Nat := b / 64

/-- 11 R215: a line is present when P = 0 and H = 0. -/
def State.linePresent (s : State) (ln : Nat) : Bool :=
  Map.getD 0 s.lineP ln = 0 && !Map.getD false s.lineH ln

/-- The die of a linear core number (04 R66). -/
def dieOf (core : Nat) : Nat := core / 20480
def flockOf (core : Nat) : Nat := core / 16

/-- The 18-bit coordinate of a linear core number (04 R66). -/
def coordOf (c : Nat) : BitVec 18 :=
  let f := c % 20480 / 16
  BitVec.ofNat 18 (c / 20480 * 2 ^ 15 + f % 40 * 2 ^ 9 + f / 40 * 2 ^ 4 + c % 16)

/-- The linear core number of a coordinate; none for a coordinate that names no core. -/
def coreOf (k : BitVec 18) : Option Nat :=
  let fx := (k.extractLsb' 9 6).toNat
  if fx < 40 then
    some ((k.extractLsb' 15 3).toNat * 20480 + ((k.extractLsb' 4 5).toNat * 40 + fx) * 16 + (k.extractLsb' 0 4).toNat)
  else none

/-- The weight-store byte, keyed die · 2^32 + byte, of a weight offset of a job on a die; none beyond its region. -/
def State.weightByte (s : State) (job : BitVec 16) (die off : Nat) : Option Nat :=
  match Map.find s.regions (job.toNat * 8 + die) with
  | some (b, n) => if off < n then some (die * 2 ^ 32 + (b + off) % 2 ^ 32) else none
  | none => none

/-- 22 R403, 06 R120: `time` counts at 100 MHz, one tick every 6 core cycles. -/
def State.time (s : State) : Word64 := BitVec.ofNat 64 (s.cycle / 6)

/-- 10 R201: the refresh group of a weight byte is inside its window, which begins when time mod 3,200 = 50 g and lasts
32 ticks. -/
def State.refreshing (s : State) (wb : Nat) : Bool :=
  let g := wb % 2 ^ 32 / 2 ^ 26
  (s.cycle / 6 + 3200 - 50 * g) % 3200 < 32

end Sys2Proof.Machine
end

