-- ==== Sys2Proof/Machine/Ops.lean ====
section
/-! DEFINITION. The named operations on the state: cores, slots, groups, splits, registers and masks; taking an exception
and returning from one; what the issue stage does around every instruction (05 R91, R102, 06 R122-R128, R137-R139,
16 R315-R321, 17 R341). -/

namespace Sys2Proof.Machine

/-! ## Access paths -/

def State.core (s : State) (c : Nat) : Core := (Map.find s.cores c).getD {}
def State.setCore (s : State) (c : Nat) (k : Core) : State := { s with cores := Map.put s.cores c k }
def Core.slot (k : Core) (n : Nat) : Slot := (Map.find k.slots n).getD {}
def Core.setSlot (k : Core) (n : Nat) (x : Slot) : Core := { k with slots := Map.put k.slots n x }
def State.slot (s : State) (c n : Nat) : Slot := (s.core c).slot n
def State.setSlot (s : State) (c n : Nat) (x : Slot) : State := s.setCore c ((s.core c).setSlot n x)
def State.group (s : State) (c n : Nat) : Option Group := (s.slot c n).group
def State.setGroup (s : State) (c n : Nat) (g : Group) : State :=
  s.setSlot c n { s.slot c n with group := some g }
def Group.split (g : Group) (k : Nat) : Split := (Map.find g.splits k).getD {}
def Group.uses (g : Group) (k : Nat) : Bool := (Map.find g.splits k).isSome
def Group.setSplit (g : Group) (k : Nat) (p : Split) : Group := { g with splits := Map.put g.splits k p }
def State.unit (s : State) (u : Nat) : Unit := (Map.find s.units u).getD {}
def State.setUnit (s : State) (u : Nat) (x : Unit) : State := { s with units := Map.put s.units u x }
def State.die (s : State) (d : Nat) : Die := (Map.find s.dies d).getD {}
def State.setDie (s : State) (d : Nat) (x : Die) : State := { s with dies := Map.put s.dies d x }
def State.job (s : State) (j : BitVec 16) : Job := (Map.find s.jobs j.toNat).getD {}

/-- The handler slot's number (06 R121). -/
def handlerSlot : Nat := 4

/-- The split that issues: core, slot, split id (06 R123), the formats of a pending prefix, and the instruction's word. -/
structure Ctx where
  c    : Nat
  sl   : Nat
  sp   : Nat
  word : Word32 := 0
  fmt  : Option (BitVec 18) := none
deriving DecidableEq, Repr

def Ctx.handler (x : Ctx) : Bool := x.sl = handlerSlot

def State.current (s : State) : Option Ctx :=
  match (s.core s.focus).issuing with
  | some (sl, sp) => some { c := s.focus, sl := sl, sp := sp }
  | none => none

def State.grp (s : State) (x : Ctx) : Group := (s.group x.c x.sl).getD {}
def State.setGrp (s : State) (x : Ctx) (g : Group) : State := s.setGroup x.c x.sl g
def State.spl (s : State) (x : Ctx) : Split := (s.grp x).split x.sp
def State.setSpl (s : State) (x : Ctx) (p : Split) : State := s.setGrp x ((s.grp x).setSplit x.sp p)

/-- satp.ASID of a group: the current ASID (06 R121, 17 R334). -/
def Group.asid (g : Group) : BitVec 16 := g.csr.satp.extractLsb' 44 16
def Group.setAsid (g : Group) (a : BitVec 16) : Group :=
  { g with csr := { g.csr with satp := g.csr.satp.extractLsb' 60 4 ++ a ++ g.csr.satp.extractLsb' 0 44 } }

/-! ## x and y registers (06 R109, R110) -/

def Group.x (g : Group) (k : Nat) (r : BitVec 5) : Word64 :=
  if r = 0 then 0 else Map.getD 0 g.y (32 * k + r.toNat)

def Group.setX (g : Group) (k : Nat) (r : BitVec 5) (v : Word64) : Group :=
  if r = 0 then g else { g with y := Map.setD 0 g.y (32 * k + r.toNat) v }

def State.x (s : State) (c : Ctx) (r : BitVec 5) : Word64 := (s.grp c).x c.sp r
def State.setX (s : State) (c : Ctx) (r : BitVec 5) (v : Word64) : State := s.setGrp c ((s.grp c).setX c.sp r v)

/-! ## Lanes and masks (06 R109, R111, 09 R175) -/

def laneCount : Nat := 32

/-- The half of an LW16 group that a split id belongs to (06 R139, 09 R174). -/
def halfOf (sp : Nat) : Nat := sp % 2

/-- The first lane of the view a split has of the lanes. -/
def Group.base (g : Group) (sp : Nat) : Nat := if g.lw16 then 16 * halfOf sp else 0

/-- L as the split sees it. -/
def Group.lanesSeen (g : Group) : Nat := if g.lw16 then 16 else 32

def Group.v32 (g : Group) (r : BitVec 6) (l : Nat) : Word32 := Map.getD 0 g.v (r.toNat * 32 + l)
def Group.setV (g : Group) (r : BitVec 6) (l : Nat) (w : Word32) : Group :=
  { g with v := Map.setD 0 g.v (r.toNat * 32 + l) w }

/-- Mask register k in hardware lane positions. -/
def Group.rawMask (g : Group) (sp : Nat) (k : BitVec 3) : Word32 :=
  if k = 0 then (g.split sp).m0 else Map.getD 0 g.m k.toNat

/-- Sets a mask in hardware lane positions; m0 stays within the lane set and the live lanes (R111). -/
def Group.setRawMask (g : Group) (sp : Nat) (k : BitVec 3) (v : Word32) : Group :=
  if k = 0 then
    let p := g.split sp
    g.setSplit sp { p with m0 := v &&& p.lanes &&& ~~~g.exited }
  else { g with m := Map.setD 0 g.m k.toNat v }

/-- A value as the split's view shows it (09 R175). -/
def Group.view (g : Group) (sp : Nat) (v : Word32) : Word32 :=
  if g.lw16 then (v >>> (16 * halfOf sp)) &&& 0xFFFF else v

/-- A view written back into a register: only the half's bits change. -/
def Group.unview (g : Group) (sp : Nat) (old v : Word32) : Word32 :=
  if g.lw16 then
    let h : Word32 := 0xFFFF <<< (16 * halfOf sp)
    (old &&& ~~~h) ||| ((v <<< (16 * halfOf sp)) &&& h)
  else v

def Group.mask (g : Group) (sp : Nat) (k : BitVec 3) : Word32 := g.view sp (g.rawMask sp k)
def Group.setMask (g : Group) (sp : Nat) (k : BitVec 3) (v : Word32) : Group :=
  g.setRawMask sp k (g.unview sp (g.rawMask sp k) v)

/-- The active lanes of a split, ascending (07 R140). -/
def Group.active (g : Group) (sp : Nat) : List Nat := bitsOf (g.split sp).m0

/-! ## Outstanding operations (06 R125) -/

def hasBit4 (w : BitVec 4) (sp : Nat) : Bool := w.getLsbD sp
def splitBit (sp : Nat) : BitVec 4 := 1#4 <<< sp

def Core.loadCount (k : Core) (sl sp : Nat) : Nat :=
  (k.ops.filter (fun o => o.load && o.slot = sl && hasBit4 o.who sp)).length
def Core.storeCount (k : Core) (sl sp : Nat) : Nat :=
  (k.ops.filter (fun o => o.store && o.slot = sl && hasBit4 o.who sp)).length
def QItem.counts (sl sp : Nat) : QItem → Bool
  | .entry e => e.slot = sl && hasBit4 e.who sp
  | .join _ => false
def Core.queue (k : Core) (q : Nat) : List QItem := Map.getD [] k.queues q
/-- Copies: requests of q0-q3, gather and collective (11 Table 11.1). -/
def Core.copyCount (k : Core) (sl sp : Nat) : Nat :=
  (([0, 1, 2, 3, 5, 6].map k.queue).flatten.filter (QItem.counts sl sp)).length
/-- Tile operations: fills, steps, conversions and sends (06 Table 6.13). -/
def Core.tileCount (k : Core) (sl sp : Nat) : Nat :=
  (k.tiles.filter (fun t => t.slot = sl && hasBit4 t.who sp)).length

def within (n : Nat) (lim : BitVec 3) : Bool := lim = 7 || decide (n ≤ lim.toNat)

/-- 06 R129: the wait limits are met. -/
def Core.met (k : Core) (sl sp : Nat) (tile copy store load : BitVec 3) : Bool :=
  within (k.loadCount sl sp) load && within (k.storeCount sl sp) store &&
    within (k.copyCount sl sp) copy && within (k.tileCount sl sp) tile

/-- No hart load of the split is still to be performed. -/
def Core.hartDone (k : Core) (sl sp : Nat) : Bool :=
  k.ops.all (fun o => !(o.slot = sl && hasBit4 o.agent sp && o.into.isSome))

/-- What a fence waits for: its wait limits, and where it is an acquire, the hart loads too (13 R263). -/
def Core.fenceMet (k : Core) (sl sp : Nat) (store load : BitVec 3) : Bool :=
  k.met sl sp 7 7 store load && (load = 7 || k.hartDone sl sp)

def Core.quiet (k : Core) (sl sp : Nat) (p : Split) : Bool :=
  k.loadCount sl sp = 0 && k.storeCount sl sp = 0 && k.hartDone sl sp && p.pend.isEmpty

/-- Appends an operation to the core's outstanding operations, in issue order. -/
def State.addOp (s : State) (c : Nat) (o : Op) : State :=
  { s.setCore c { s.core c with ops := (s.core c).ops ++ [{ o with id := s.nextId }] } with nextId := s.nextId + 1 }

/-! ## Standard CSR state: sstatus, pending interrupts (16 R323) -/

def statusBit (w : Word64) (i : Nat) : Bool := w.getLsbD i
def setBit (w : Word64) (i : Nat) (b : Bool) : Word64 :=
  if b then w ||| (1#64 <<< i) else w &&& ~~~(1#64 <<< i)

/-- 06 R121: hart id. -/
def hartId (c sl : Nat) : Nat := c * 8 + sl

/-- mip of a slot as it reads: the software bits, and STIP and MTIP by the timers (16 Table 16.2). -/
def State.mip (s : State) (c sl : Nat) : Word64 :=
  let w := s.slot c sl
  match w.group with
  | none => w.mip
  | some g =>
    let p := w.mip ||| g.csr.sip
    setBit (setBit p 5 (statusBit p 5 || decide (g.csr.stimecmp.toNat ≤ s.time.toNat)))
      7 (statusBit p 7 || decide (w.mtimecmp.toNat ≤ s.time.toNat))

/-- mie as it reads: the machine bits of the slot and the supervisor bits of the group. -/
def State.mieOf (s : State) (c sl : Nat) : Word64 :=
  let w := s.slot c sl
  match w.group with
  | none => w.mie
  | some g => w.mie ||| g.csr.sie

/-- The order interrupts are taken in: MEI, MSI, MTI, SEI, SSI, STI, then code 16 (16 R323). -/
def irqOrder : List Nat := [11, 3, 7, 9, 1, 5, 16]

/-- The interrupt a split would take, and the mode it goes to (16 R324; delegation as ratified). -/
def State.takeable (s : State) (c sl : Nat) (p : Split) : Option (Nat × Mode) :=
  let w := s.slot c sl
  match w.group with
  | none => none
  | some g =>
    let ready := s.mip c sl &&& s.mieOf c sl
    let mOn := p.mode ≠ .m || statusBit w.mstatus 3
    let sOn := p.mode = .u || (p.mode = .s && statusBit g.csr.sstatus 1)
    let pick (del : Bool) := irqOrder.find? (fun i => statusBit ready i && statusBit w.mideleg i = del)
    match (if mOn then pick false else none) with
    | some i => some (i, .m)
    | none => (if sOn then pick true else none).map (fun i => (i, .s))

/-! ## Traps (16 R315-R318) -/

def interruptBit : Word64 := 0x8000000000000000

/-- The address a trap goes to: BASE, or BASE + 4 · code for an interrupt in vectored mode (16 R316). -/
def trapVector (tvec : Word64) (code : Nat) (irq : Bool) : Word64 :=
  let base := tvec &&& ~~~3#64
  if irq && tvec.extractLsb' 0 2 = 1#2 then base + BitVec.ofNat 64 (4 * code) else base

/-- The mode an exception goes to. -/
def trapMode (w : Slot) (from_ : Mode) (code : Nat) : Mode :=
  if from_ = .m then .m else if statusBit w.medeleg code then .s else .m

/-- What trap entry does to the split itself: the pending prefix and the rest of the clause are recorded (06 R126, R128),
the mode and the pc change, no other register does. -/
def Split.enter (p : Split) (dest : Mode) (pc : Word64) (crem : BitVec 4) : Split :=
  let p := match p.fmt with
    | some f => { p with pp := true, gfmt := f, fmt := none }
    | none => p
  { p with
    pc := pc, mode := dest, crem := crem, cremEngc := if p.wake.isSome then p.cremEngc else p.engc, engc := 7, left := 0, stall := 0, wake := none,
    resume := false, armed := false, sfence := none,
    trapFrom := some (p.trapFrom.getD p.mode), traps := p.traps + 1
    held := match p.wake with
      | some (.counters t c st l) => (p.mode, .counters t c st l) :: p.held
      | some (.fence st l d) => (p.mode, .fence st l d) :: p.held
      | _ => p.held }

/-- A fence of the split has still to take effect. -/
def Split.fenceHeld (p : Split) : Bool := p.held.any (fun q => match q.2 with
  | .fence _ _ _ => true
  | _ => false)

/-- In an LW16 group `gfmt` is one register of the hardware group: what split k holds, every split holds (09 Table 9.2). -/
def Group.shareFmt (g : Group) (k : Nat) : Group :=
  if g.lw16 then { g with splits := g.splits.map (fun e => (e.1, { e.2 with gfmt := (g.split k).gfmt })) } else g

/-- mstatus and sstatus after entry to S-mode or M-mode, as ratified. -/
def enterS (st : Word64) (from_ : Mode) : Word64 :=
  setBit (setBit (setBit st 5 (statusBit st 1)) 1 false) 8 (from_ ≠ .u)
def modeCode : Mode → BitVec 2
  | .u => 0 | .s => 1 | .m => 3
def enterM (st : Word64) (from_ : Mode) : Word64 :=
  let st := setBit (setBit st 7 (statusBit st 3)) 3 false
  (st &&& ~~~0x1800#64) ||| ((modeCode from_).setWidth 64 <<< 11)

/-- The reservation of a split is lost (06 Table 6.11). -/
def State.loseResv (s : State) (c sl sp : Nat) : State :=
  { s with resvs := s.resvs.filter (fun r => !(r.2.1 = c && r.2.2.1 = sl && r.2.2.2 = sp)) }

/-- TAKING A TRAP: the saved registers of the target mode, its status, the split at the vector, its siblings frozen
(16 R315); the handler slot freezes nobody (R322), and stops there while its unit is halted for debug (19 R367). -/
def State.takeTrap (s : State) (c sl sp : Nat) (code : Nat) (irq : Bool) (tval epc : Word64) (crem : BitVec 4) : State :=
  let w := s.slot c sl
  match w.group with
  | none => s
  | some g =>
    let p := g.split sp
    let dest := if irq then ((s.takeable c sl p).elim .s Prod.snd) else trapMode w p.mode code
    let cause := BitVec.ofNat 64 code ||| (if irq then interruptBit else 0)
    let g1 := { g with
      trapped := if sl = handlerSlot then none else some sp
      halted := g.halted || (sl = handlerSlot && (s.unit g.unit).halted) }
    let w' := match dest with
      | .m => { w with
          mepc := epc &&& ~~~3#64, mcause := cause, mtval := tval, mstatus := enterM w.mstatus p.mode,
          group := some ((g1.setSplit sp (p.enter .m (trapVector w.mtvec code irq) crem)).shareFmt sp) }
      | _ => { w with
          group := some (({ g1 with csr := { g.csr with
            sepc := epc &&& ~~~3#64, scause := cause, stval := tval,
            sstatus := enterS g.csr.sstatus p.mode } }.setSplit sp (p.enter .s (trapVector g.csr.stvec code irq) crem)).shareFmt sp) }
    let s := (s.setSlot c sl w').loseResv c sl sp
    s.setCore c { s.core c with issuing := none, waiting := false }

/-! ## The error log (18 R355) -/

def elSize (base : Word64) : Nat := 2 ^ ((base.extractLsb' 0 4).toNat + 7)

/-- 18 Table 18.5; a violation whose cause the spec does not name has a free CAUSE (log 3). -/
def errRecord (time : Word64) (addr : Word64) (job : BitVec 16) (kind struct test : Nat) (coord : BitVec 18) (slot : Nat)
    (cause : Nat) : BitVec 256 :=
  BitVec.ofNat 256 (time.toNat + addr.toNat * 2 ^ 64 + job.toNat * 2 ^ 160 + kind * 2 ^ 176 + struct * 2 ^ 184
    + test * 2 ^ 192 + coord.toNat * 2 ^ 195 + slot * 2 ^ 213 + cause % 256 * 2 ^ 216)

def satInc (w : Word32) : Word32 := if w = BitVec.allOnes 32 then w else w + 1

/-- Writes a record into a die's ring, or counts it as dropped. -/
def State.logRecord (s : State) (die : Nat) (r : BitVec 256) : State :=
  let d := s.die die
  let n := elSize d.elbase
  if n ≤ (d.elprod - d.elcons).toNat then s.setDie die { d with elovf := satInc d.elovf }
  else
    let a := (d.elbase.extractLsb' 12 40).toNat * 4096 + d.elprod.toNat % n * 32
    (s.engineWrite a (leBytes r.toNat 32)).setDie die { d with elprod := d.elprod + 1 }

/-- A write by an engine of a die; what of it lies outside the HBM is dropped, and the drop is logged (18 R355). -/
def State.engineStore (s : State) (die a : Nat) (d : List Byte) : State :=
  let s := s.engineWrite a d
  if outside a d.length then s.logRecord die (errRecord s.time (BitVec.ofNat 64 a) 0 3 0 0 0x3FFFF 7 0) else s

/-- The record of a protection violation by a slot of a core. -/
def State.logViolation (s : State) (c sl : Nat) (job : BitVec 16) (cause : Option Nat) (addr : Word64) : State :=
  let cz := cause.getD (Config.freeWord s.freeCtr).toNat
  { s with freeCtr := s.freeCtr + 1 }.logRecord (dieOf c) (errRecord s.time addr job 4 0 0 (coordOf c) sl cz)

/-- The executive is notified (16 R318, 18 R354). -/
def State.notify (s : State) (n : Notice) : State := { s with notices := s.notices ++ [n] }

/-! ## Groups of a unit -/

/-- Core, slot and group of every participant of a unit that runs (13 R271: recruits and handler slots are none). -/
def State.participants (s : State) (u : Nat) : List (Nat × Nat × Group) :=
  (s.unit u).cores.flatMap (fun c => [0, 1, 2, 3].filterMap (fun sl =>
    match s.group c sl with
    | some g => if g.unit = u && g.recruit.isNone then some (c, sl, g) else none
    | none => none))

/-! ## Unit barriers (13 R271) -/

def Group.arrivedAt (g : Group) (bar : BitVec 4) : Bool :=
  g.splits.all (fun e => e.2.marks.getLsbD bar.toNat)

def Group.someMark (g : Group) (bar : BitVec 4) : Bool :=
  g.splits.any (fun e => e.2.marks.getLsbD bar.toNat)

def Group.clearMarks (g : Group) (bar : BitVec 4) : Group :=
  { g with splits := g.splits.map (fun e => (e.1, { e.2 with marks := e.2.marks &&& ~~~(1#16 <<< bar.toNat) })) }

def Unit.bar (u : Unit) (bar : BitVec 4) : UBar := (Map.find u.bars bar.toNat).getD {}

/-- If every participant has arrived the phase completes: one operation per barrier. -/
def State.barCheck (s : State) (u : Nat) (bar : BitVec 4) : State :=
  let ps := s.participants u
  let x := s.unit u
  if ps.any (fun q => q.2.2.someMark bar) && ps.all (fun q => q.2.2.arrivedAt bar) then
    let b := x.bar bar
    let s := s.setUnit u { x with bars := Map.put x.bars bar.toNat { phase := b.phase + 1 } }
    ps.foldl (fun s q => s.setGroup q.1 q.2.1 (q.2.2.clearMarks bar)) s
  else s

/-! The watchdogs (13 R272). -/

def watchdogLimit (d : Die) : Nat := max 65536 d.bwLimit.toNat

/-- A participant can run: it is not halted, pre-empted or frozen. -/
def Group.runnable (g : Group) : Bool := g.frozen.isNone && !g.halted

/-- The watchdog of a barrier counts now; those of a unit that is being saved pause (16 R327). -/
def State.barCounting (s : State) (u : Nat) (bar : BitVec 4) : Bool :=
  let ps := s.participants u
  (s.die (dieOf ((s.unit u).cores.headD 0))).bwEn &&
    (((s.unit u).bar bar).left || ps.any (fun q => q.2.2.someMark bar && q.2.2.arrivedAt bar)) &&
    !(s.unit u).saving && ps.all (fun q => q.2.2.arrivedAt bar || q.2.2.runnable)

/-- Cycles counted by a watchdog up to now. -/
def State.barElapsed (s : State) (b : UBar) : Nat := b.count + (if b.running then s.cycle - b.since else 0)

/-- A group finishes after it has arrived at the barriers of a set of marks. -/
def Unit.leaveArrived (u : Unit) (marks : BitVec 16) : Unit :=
  { u with bars := (List.range 16).foldl (fun m i =>
      if marks.getLsbD i then Map.put m i { u.bar (BitVec.ofNat 4 i) with left := true } else m) u.bars }

/-- Brings the watchdogs of a unit up to now, after a change of who has arrived or who can run. -/
def State.barSync (s : State) (u : Nat) : State :=
  (List.range 16).foldl (fun s i =>
    let bar := BitVec.ofNat 4 i
    let x := s.unit u
    let b := x.bar bar
    let b' : UBar := { b with count := s.barElapsed b, running := s.barCounting u bar, since := s.cycle }
    if b.running || b'.running then s.setUnit u { x with bars := Map.put x.bars i b' } else s) s

/-- The barriers of a unit after a group, or a split of one, has ended. -/
def State.barCheckAll (s : State) (u : Nat) : State :=
  ((List.range 16).foldl (fun s b => s.barCheck u (BitVec.ofNat 4 b)) s).barSync u

/-! ## Freezing (18 R354) and faults inside a gate frame (17 R341) -/

/-- A protection violation freezes the group at the instruction's boundary. -/
def State.freezeGroup (s : State) (c sl : Nat) (cause : Option Nat) (tval : Word64) : State :=
  match s.group c sl with
  | none => s
  | some g =>
    let s := (s.setGroup c sl { g with frozen := some (cause, tval) }).logViolation c sl (s.unit g.unit).job cause tval
    let s := s.notify { cause := cause, unit := g.unit, core := c, slot := sl, value := tval }
    let s := s.barSync g.unit
    match (s.core c).issuing with
    | some (a, _) => if a = sl then s.setCore c { s.core c with issuing := none, waiting := false } else s
    | none => s

def setLast {α : Type} (l : List α) (f : α → α) : List α :=
  match l with
  | [] => []
  | [a] => [f a]
  | a :: r => a :: setLast r f

/-- Delivery of an exception to the fault entry of the current frame. -/
def State.frameFault (s : State) (c sl sp : Nat) (code : Nat) (tval epc : Word64) : State :=
  match s.group c sl with
  | none => s
  | some g =>
    match g.frames.getLast? with
    | none => s
    | some f =>
      if f.faulted then s.freezeGroup c sl (some code) tval
      else
        let p := g.split sp
        let g := { g with frames := setLast g.frames (fun f => { f with faulted := true }) }
        let g := ((g.setX sp 10 (BitVec.ofNat 64 code)).setX sp 11 tval).setX sp 12 epc
        let g := g.setSplit sp { p with
          pp := false, crem := 0, fmt := none, left := 0, engc := 7, stall := 0, wake := none,
          resume := false, armed := false, sfence := none,
          pc := f.fault.setWidth 64 }
        let s := (s.setGroup c sl g).loseResv c sl sp
        s.setCore c { s.core c with issuing := none, waiting := false }

/-- A synchronous exception of a split: a trap, or inside a gate frame in U-mode the frame's fault entry, but for
breakpoints and environment calls (17 R341). -/
def State.raise (s : State) (c sl sp : Nat) (code : Nat) (tval epc : Word64) (crem : BitVec 4) : State :=
  match s.group c sl with
  | none => s
  | some g =>
    if (g.split sp).mode = .u && !g.frames.isEmpty && code ≠ 3 && code ≠ 8 then s.frameFault c sl sp code tval epc
    else s.takeTrap c sl sp code false tval epc crem

/-! ## Merging splits (06 R138) -/

/-- The x registers x1-x31 of two banks are equal. -/
def Group.sameBank (g : Group) (a b : Nat) : Bool :=
  (List.range 32).all (fun j => Map.getD 0 g.y (32 * a + j) = Map.getD 0 g.y (32 * b + j))

def Group.mergeable (g : Group) (a b : Nat) : Bool :=
  let p := g.split a
  let q := g.split b
  let free (p : Split) := p.mode = .u && p.trapFrom.isNone && p.wake.isNone && !p.pp && p.crem = 0 && p.fmt.isNone
  g.uses a && g.uses b && p.pc = q.pc && p.depth = q.depth && free p && free q
    && g.trapped.isNone && g.frozen.isNone && !g.halted && (!g.lw16 || halfOf a = halfOf b)

/-- Entry-by-entry union of two mask stacks. -/
def mergeStack (a b : Map Word32) : Map Word32 :=
  (List.range 16).foldl (fun m e => Map.setD 0 m e (Map.getD 0 a e ||| Map.getD 0 b e)) a

/-- Split b joins split a: a keeps its own x bank, b's outstanding results go on to b's. A clause that b is in the middle of is a's to
finish. -/
def Group.join (g : Group) (a b : Nat) : Group :=
  let p := g.split a
  let q := g.split b
  let g := { g with xdiv := g.xdiv || !g.sameBank a b, splits := Map.del g.splits b }
  g.setSplit a { p with
    m0 := p.m0 ||| q.m0, lanes := p.lanes ||| q.lanes, stack := mergeStack p.stack q.stack,
    marks := p.marks &&& q.marks, aging := 0, atLjalr := p.atLjalr && q.atLjalr, pend := p.pend ++ q.pend
    left := if q.left = 0 then p.left else q.left, engc := if q.left = 0 then p.engc else q.engc
    stall := if q.left = 0 then p.stall else q.stall, resume := p.resume || q.resume, rel := max p.rel q.rel }

/-- What b counted, a counts. -/
def Core.moveOps (k : Core) (sl a b : Nat) : Core :=
  let f (w : BitVec 4) := if hasBit4 w b then (w ||| splitBit a) &&& ~~~splitBit b else w
  { k with
    ops := k.ops.map (fun o => if o.slot = sl then { o with who := f o.who, agent := f o.agent } else o)
    tiles := k.tiles.map (fun o => if o.slot = sl then { o with who := f o.who } else o)
    queues := k.queues.map (fun q => (q.1, q.2.map (fun i => match i with
      | .entry e => if e.slot = sl then .entry { e with who := f e.who } else i
      | .join l => .join l))) }

/-- One merge of split b into split a of a group, if R138 allows it. -/
def State.tryMerge (s : State) (c sl a b : Nat) : State :=
  match s.group c sl with
  | none => s
  | some g =>
    if g.mergeable a b then
      let s := s.setGroup c sl (g.join a b)
      let k := (s.core c).moveOps sl a b
      s.setCore c { k with issuing := if k.issuing = some (sl, b) then some (sl, a) else k.issuing }
    else s

/-- The merge test over every pair of split ids, lowest first. -/
def State.mergeTest (s : State) (c sl : Nat) : State :=
  [(0, 1), (0, 2), (0, 3), (1, 2), (1, 3), (2, 3)].foldl (fun s ab => s.tryMerge c sl ab.1 ab.2) s

/-! ## What the issue stage does around an instruction -/

/-- What executing an instruction answers. -/
abbrev Result := Host.Outcome State Fault Refusal

/-- How an instruction's own effect ends. -/
inductive Res where
  /-- complete; the pc moves past the instruction -/
  | next (s : State)
  /-- complete; it is a prefix, and the slot stays with the split (05 R92) -/
  | nextFmt (s : State)
  /-- not counted: a clause header has been taken (06 R127) -/
  | stay (s : State)
  /-- a control transfer completes at this pc -/
  | jump (s : State) (pc : Word64)
  /-- an exception; nothing has changed -/
  | trap (code : Nat) (tval : Word64)
  /-- an exception; nothing but the counter of free values has changed -/
  | trapIn (s : State) (code : Nat) (tval : Word64)
  /-- the split parks at the instruction, which is issued again when it wakes -/
  | park (s : State) (w : Wake)
  /-- the instruction completes and the split parks at the next one -/
  | parkNext (s : State) (w : Wake)
  /-- the instruction waits at issue and keeps the slot -/
  | wait
  /-- the same, with a part of its effect already made -/
  | hold (s : State)
  /-- the instruction completes and no more of the split's clause is issued: it, or its group, is gone, frozen or ended -/
  | gone (s : State)
  /-- the instruction completes, and a protection violation of it freezes its group: cause and address -/
  | frozen (s : State) (cause : Option Nat) (addr : Word64)
  /-- the state after the instruction has completed, and after what follows its completion -/
  | after (s : State)
deriving DecidableEq, Repr

/-- What the issue stage checks and charges for an instruction. -/
structure Req where
  /-- x registers whose outstanding result it waits for -/
  xs      : List (BitVec 5) := []
  /-- lane registers it names -/
  vs      : List Nat := []
  /-- lane registers it uses beyond its fields, which only the number of registers of the group bounds -/
  more    : List Nat := []
  /-- a Molesy-3 instruction, which M-mode does not execute (06 Table 6.9) -/
  dev     : Bool := false
  /-- an encoding constraint of its entry is broken, or a mode it needs is not the split's -/
  bad     : Bool := false
  /-- its entry gives it cause 2 in the split's slot or group; the checks of R102 and the gate restrictions come first -/
  slot    : Bool := false
  ctl     : Bool := false
  /-- the engine class of R97; 0 none -/
  eng     : Nat := 0
  /-- its entry lists formats; the prefix's formats are among them -/
  takes   : Bool := false
  fmtOk   : Bool := true
  /-- the modifier word, and whether R93 and the entry accept it -/
  md      : Option Word32 := none
  mdOk    : Bool := true
  /-- registers of its register-indexed routes -/
  routes  : List Nat := []
  /-- a use that a gate frame forbids (17 Table 17.3): REASON and INDEX -/
  fence   : Option (Nat × Nat) := none
  /-- it does not wait for a batch request of its group (15 R302) -/
  sheep   : Bool := false
  /-- a hart access of memory -/
  mem     : Bool := false
  cycles  : Nat := 1
deriving DecidableEq, Repr

/-- Bytes of the instruction: a modifier word makes it 8. -/
def Req.len (r : Req) : Word64 := if r.md.isSome then 8 else 4

/-- The word of an FMT with these fields (05 Table 5.6). -/
def fmtWord (f : BitVec 18) : Word32 :=
  encFMT 0 (f.extractLsb' 15 3) (f.extractLsb' 10 5) (f.extractLsb' 5 5) 6 (f.extractLsb' 0 5) 0x0B

/-- Counted words of the clause from the instruction on: 1 for an implicit clause (06 R126). -/
def Split.remaining (p : Split) : BitVec 4 := if p.left = 0 then 1 else p.left

/-- Is the split in a counted clause with this many words left? -/
def Split.lastWord (p : Split) : Bool := p.left = 0 || p.left = 1

/-- 17 R344. -/
def gateVal (reason index : Nat) : Word64 := BitVec.ofNat 64 (index * 256 + reason)

/-- The native issue mode at an address (05 R104). -/
def State.native (s : State) (g : Group) (pc : Word64) : Bool :=
  !g.ilock && !Map.getD false s.ilkPages (g.asid.toNat * 2 ^ 36 + (pc.extractLsb' 12 36).toNat)

/-- The clause of a split ends: the slot is free, a stall hint opens its window in native mode, splits may merge. -/
def State.endClause (s : State) (x : Ctx) : State :=
  let p := s.spl x
  let s := s.setSpl x { p with
    left := 0, engc := 7, stall := 0, window := s.native (s.grp x) p.pc && p.stall ≠ 0 }
  (s.setCore x.c { s.core x.c with issuing := none, waiting := false }).mergeTest x.c x.sl

/-- An instruction has completed: pc, prefix, counts, and the clause's end (06 R120, R126, R128). A split that an xRET makes resume
keeps what it has already done of the instruction it returns to. -/
def State.finish (s : State) (x : Ctx) (pc : Word64) (cycles : Nat) (keepFmt : Bool) : State :=
  let g := s.grp x
  let p := g.split x.sp
  let p' := { p with
    pc := pc, fmt := if keepFmt then p.fmt else none, pp := if p.armed then false else p.pp, armed := false,
    left := p.left - (if p.left = 0 then 0 else 1), atLjalr := false, skipBrk := p.resume && p.skipBrk
    arrived := if p.trapFrom.isSome || p.resume then p.arrived else none
    joined := if p.trapFrom.isSome || p.resume then p.joined else none }
  let s := s.setGrp x ({ g with instret := g.instret + 1 }.setSplit x.sp p')
  let s := { s.setCore x.c { s.core x.c with waiting := false } with cycle := s.cycle + cycles }
  if p.left = 1 || (p.left = 0 && !keepFmt) then s.endClause x else s

/-- An instruction of the split is counted where its split parks behind it; a breakpoint at the next one is not skipped. -/
def State.counted (s : State) (x : Ctx) : State :=
  let g := s.grp x
  s.setGrp x ({ g with instret := g.instret + 1 }.setSplit x.sp { g.split x.sp with skipBrk := false })

/-- The split leaves the issue slot parked (06 R126). -/
def State.parkSplit (s : State) (x : Ctx) (pc : Word64) (crem : BitVec 4) (w : Wake) : State :=
  let p := s.spl x
  let p := match p.fmt with
    | some f => { p with pp := true, gfmt := f, fmt := none }
    | none => p
  let s := s.setSpl x { p with
    pc := pc, crem := crem, cremEngc := p.engc, left := 0, engc := 7, stall := 0, wake := some w, resume := true,
    armed := false }
  let s := s.setGrp x ((s.grp x).shareFmt x.sp)
  let s := s.loseResv x.c x.sl x.sp
  { s.setCore x.c { s.core x.c with issuing := none, waiting := false } with cycle := s.cycle + 1 }

/-- The word is illegal where it stands, whatever its entry says: its mode or its lane registers (05 R89, 06 Table 6.9). -/
def Req.outOfReach (r : Req) (x : Ctx) (g : Group) (p : Split) : Bool :=
  let top := if x.handler then 16 else g.vregs
  (r.dev && p.mode = .m) || (r.vs ++ r.more).any (fun v => decide (top ≤ v))

/-- The word itself is illegal for the split that issues it. -/
def Req.barred (r : Req) (x : Ctx) (g : Group) (p : Split) : Bool := r.outOfReach x g p || r.bad

/-- The word of the illegal-instruction check, if it fails: the instruction, or the modifier word (05 R102, 07 R150). A word resumed with
formats that it does not accept is the instruction, no prefix standing before it (06 R128, log 18). -/
def Req.illegal (r : Req) (x : Ctx) (g : Group) (p : Split) : Option Word32 :=
  if r.barred x g p then some x.word
  else if !r.mdOk then some (r.md.getD 0)
  else if p.armed && p.fmt.isNone && (!r.takes || !r.fmtOk) then some x.word
  else none

/-- The clause check of 05 R91. -/
def Req.malformed (r : Req) (p : Split) : Bool :=
  p.left ≠ 0 && ((r.ctl && p.left ≠ 1) || (r.eng ≠ 0 && p.engc ≠ 7 && p.engc.toNat ≠ r.eng))

/-- 17 R339: the restrictions of a gate frame. -/
def Req.fenced (r : Req) (g : Group) (p : Split) : Option (Nat × Word64 × Bool) :=
  if p.mode = .u && !g.frames.isEmpty then
    match (r.vs ++ r.routes).find? (fun v => decide (16 ≤ v)) with
    | some v => some (25, gateVal 11 v, false)
    | none => r.fence.map (fun q => (25, gateVal q.1 q.2, false))
  else none

/-- The checks after the illegal-instruction check: 05 R91, R93, the gate restrictions, and the slots of its entry. -/
def Req.checkRest (r : Req) (x : Ctx) (g : Group) (p : Split) : Option (Nat × Word64 × Bool) :=
  if r.malformed p then some (30, x.word.setWidth 64, false)
  else if r.routes.any (fun v => decide ((if x.handler then 16 else g.vregs) ≤ v)) then
    some (28, (r.md.getD 0).setWidth 64, false)
  else match r.fenced g p with
    | some q => some q
    | none => if r.slot then some (2, x.word.setWidth 64, false) else none

/-- The checks of the instruction itself, in the order of 05 R102. -/
def Req.checkOwn (r : Req) (x : Ctx) (g : Group) (p : Split) : Option (Nat × Word64 × Bool) :=
  match r.illegal x g p with
  | some w => some (2, w.setWidth 64, false)
  | none => r.checkRest x g p

/-- The first check that fails: cause, value, and whether it is charged to the prefix before the instruction, whose target
must be a legal word and take its formats (05 R92). A broken constraint of the target's own entry is charged to the target
(07 R150). -/
def Req.check (r : Req) (x : Ctx) (g : Group) (p : Split) : Option (Nat × Word64 × Bool) :=
  match p.fmt with
  | some f =>
    if r.outOfReach x g p || !r.takes || !r.fmtOk then some (2, (fmtWord f).setWidth 64, true) else r.checkOwn x g p
  | none => r.checkOwn x g p

/-- 05 R105: in interlocked mode an instruction waits for the outstanding lane loads of the registers it names. -/
def Core.loadsInto (k : Core) (sl : Nat) (vs : List Nat) : Bool :=
  k.ops.any (fun o => o.load && o.slot = sl && o.accs.any (fun a => !a.wrote) &&
    vs.any (fun v => v = o.vd.toNat || (o.accs.any (fun a => a.size = 8) && v = o.vd.toNat + 1)))

/-- The instruction waits at issue for a scoreboard; a device instruction or a hart access waits while a CBTAKE of its group is
unanswered, whose lane registers and mask are still to be written and which is an acquire (15 R303, R309, log 11), and while a fence
of its split has still to take effect (13 R263). -/
def Req.blocked (r : Req) (s : State) (x : Ctx) (g : Group) (p : Split) : Bool :=
  p.pend.any (fun q => q.bank = x.sp && r.xs.any (fun v => v = q.rd && v ≠ 0)) ||
    (!s.native g p.pc && (s.core x.c).loadsInto x.sl (r.vs ++ r.more ++ r.routes)) ||
    (((r.dev && !r.sheep) || r.mem) && s.flights.any (fun f => f.core = x.c && f.slot = x.sl && f.what.taking)) ||
    ((r.dev || r.mem) && p.fenceHeld)

/-- The prefix formats in force: those of a pending FMT, else of `gfmt` when the split resumed with PP = 1 (06 R128). -/
def Split.format (p : Split) : Option (BitVec 18) :=
  match p.fmt with
  | some f => some f
  | none => if p.armed then some p.gfmt else none

/-- ISSUING AN INSTRUCTION with first word `w`: the checks of R102, then its own effect, then the bookkeeping of its
clause. -/
def issue (w : Word32) (req : Ctx → State → Req) (body : Ctx → State → Res) (s : State) :
    Host.Outcome State Fault Refusal :=
  match s.current with
  | none => .fault .noIssuer
  | some x0 =>
    let g := s.grp x0
    let p := g.split x0.sp
    let x := { x0 with word := w, fmt := p.format }
    let r := req x s
    match r.check x g p with
    | some (code, tval, atFmt) =>
      .next (if atFmt then
        s.raise x.c x.sl x.sp code tval (p.pc - 4) (if p.left = 0 then 2 else p.left + 1)
      else s.raise x.c x.sl x.sp code tval p.pc p.remaining)
    | none =>
      if r.blocked s x g p then .next { s.setCore x.c { s.core x.c with waiting := true } with cycle := s.cycle + 1 }
      else
        match body x s with
        | .next t => .next (t.finish x (p.pc + r.len) r.cycles false)
        | .nextFmt t => .next (t.finish x (p.pc + r.len) r.cycles true)
        | .stay t => .next (t.setCore x.c { t.core x.c with waiting := false })
        | .jump t pc => .next (t.finish x pc r.cycles false)
        | .trap code tval => .next (s.raise x.c x.sl x.sp code tval p.pc p.remaining)
        | .trapIn t code tval => .next (t.raise x.c x.sl x.sp code tval p.pc p.remaining)
        | .park t w => .next (t.parkSplit x p.pc p.remaining w)
        | .parkNext t w => .next ((t.counted x).parkSplit x (p.pc + r.len) (p.remaining - 1) w)
        | .wait => .next { s.setCore x.c { s.core x.c with waiting := true } with cycle := s.cycle + 1 }
        | .hold t => .next { t.setCore x.c { t.core x.c with waiting := true } with cycle := t.cycle + 1 }
        | .gone t =>
          .next { t.setCore x.c { t.core x.c with issuing := none, waiting := false } with cycle := t.cycle + r.cycles }
        | .frozen t cause addr => .next ((t.finish x (p.pc + r.len) r.cycles false).freezeGroup x.c x.sl cause addr)
        | .after t => .next t

end Sys2Proof.Machine
end

