-- ==== Sys2Proof/Machine/Units.lean ====
section
/-! DEFINITION. Units: status words and how they combine, the end of a group, the end of a unit, unit barriers
(03 R61, R62, 04 R66, R75, 13 R271, 18 R347). -/

namespace Sys2Proof.Machine

/-! ## Status words -/

/-- 18 Table 18.1. -/
def ffCode (w : Word64) : Nat := (w.extractLsb' 32 8).toNat
def ffSlot (w : Word64) : Nat := (w.extractLsb' 43 3).toNat
def ffCoord (w : Word64) : BitVec 18 := w.extractLsb' 46 18
def errCnt (w : Word64) : Nat := (w.extractLsb' 0 16).toNat

def flagFenced : Word64 := 1#64 <<< 22
def flagDepunder : Word64 := 1#64 <<< 21
def flagMsgdrop : Word64 := 1#64 <<< 20
def flagCopyerr : Word64 := 1#64 <<< 19
def flagWdrop : Word64 := 1#64 <<< 18
def flagUncorr : Word64 := 1#64 <<< 17
def flagCancelled : Word64 := 1#64 <<< 16

/-- A status word that holds only a first fault. -/
def firstFault (code : Nat) (coord : BitVec 18) (slot : Nat) : Word64 :=
  BitVec.ofNat 64 (coord.toNat * 2 ^ 46 + slot * 2 ^ 43 + code * 2 ^ 32)

/-- The coordinate and slot of a first fault that arises on no core (18 R347). -/
def noCoord : BitVec 18 := 0x3FFFF

/-- The rank of a first fault: words without one come last, faults on no core before them (04 R75). -/
def ffRank (w : Word64) : Nat :=
  if ffCode w = 0 then 2 ^ 20
  else match coreOf (ffCoord w) with
    | some c => c
    | none => 2 ^ 19

/-- A word of the completion tree: the status word, its fault address, and the cycle in which its first fault arose. -/
structure Report where
  word : Word64
  addr : Word64
  time : Nat
deriving DecidableEq, Repr

/-- Two faults of one slot, or two that arise on no core: the lower code, for equal codes the lower address (04 R75). -/
def Report.lower (a b : Report) : Bool :=
  decide (ffCode a.word < ffCode b.word) || (ffCode a.word = ffCode b.word && decide (a.addr.toNat ≤ b.addr.toNat))

/-- Whether the first fault of a is kept over that of b (04 R75). -/
def Report.keeps (a b : Report) : Bool :=
  if ffRank a.word ≠ ffRank b.word then ffRank a.word < ffRank b.word
  else if 2 ^ 19 ≤ ffRank a.word then a.lower b
  else if ffSlot a.word ≠ ffSlot b.word then ffSlot a.word < ffSlot b.word
  else if a.time ≠ b.time then a.time < b.time
  else a.lower b

/-- 04 R75: combines two words of the completion tree. -/
def Report.combine (a b : Report) : Report :=
  let cnt := min (errCnt a.word + errCnt b.word) 0xFFFF
  let flags := (a.word ||| b.word) &&& 0x7F0000
  let ff := if a.keeps b then a else b
  { word := (ff.word &&& 0xFFFFF8FF00000000) ||| flags ||| BitVec.ofNat 64 cnt, addr := ff.addr, time := ff.time }

def TreeNode.report (x : TreeNode) : Report := ⟨x.status, x.faddr, x.ftime⟩
def Unit.report (x : Unit) : Report := ⟨x.status, x.faddr, x.ftime⟩
def Collector.report (x : Collector) : Report := ⟨x.status, x.faddr, x.ftime⟩
def DoneMsg.report (x : DoneMsg) : Report := ⟨x.status, x.faddr, x.ftime⟩
def Launch.report (x : Launch) : Report := ⟨x.status, x.faddr, x.ftime⟩

/-! ## The unit's branch of the completion tree (04 R76, R77) -/

/-- The node of a core takes in a word; a node that has reported, and the unit root, take it in at the root. -/
def Unit.absorb (x : Unit) (c : Nat) (r : Report) : Unit :=
  match Map.find x.nodes c with
  | some n =>
    let w := n.report.combine r
    { x with nodes := Map.put x.nodes c { n with status := w.word, faddr := w.addr, ftime := w.time } }
  | none =>
    let w := x.report.combine r
    { x with status := w.word, faddr := w.addr, ftime := w.time }

/-- The node of a core no longer waits for one of its groups or children; a node that waits for nothing reports to its parent, and
so on to the root. -/
def Unit.settle : Nat → Unit → Nat → Unit
  | 0, x, _ => x
  | f + 1, x, c =>
    match Map.find x.nodes c with
    | none => x
    | some n =>
      if 1 < n.pending then { x with nodes := Map.put x.nodes c { n with pending := n.pending - 1 } }
      else Unit.settle f (({ x with nodes := Map.del x.nodes c } : Unit).absorb n.parent n.report) n.parent

/-- A group on core c of the unit has finished. -/
def Unit.groupDone (x : Unit) (c : Nat) : Unit := Unit.settle (x.nodes.length + 1) x c

/-- What every node holds, in the root: no node below it waits for anything any more. -/
def Unit.collect (x : Unit) : Unit :=
  x.nodes.foldl (fun x e => x.absorb (x.cores.headD 0) e.2.report) { x with nodes := [] }

/-- A recruit's core is a child of the forking core's node (04 R77). -/
def Unit.addChild (x : Unit) (parent c : Nat) : Unit :=
  let nodes := match Map.find x.nodes parent with
    | some n => Map.put x.nodes parent { n with pending := n.pending + 1 }
    | none => x.nodes
  { x with nodes := Map.put nodes c { parent := parent, pending := 1 } }

/-- The core nodes of a unit with q groups on each core: that of unit core j ≥ 1 is a child of unit core (j - 1) / 2, and waits for
its groups and for the nodes of unit cores 2 j + 1 and 2 j + 2 (04 R76). A core with neither reports at once. -/
def treeNodes (cores : List Nat) (ngroups q : Nat) : Map TreeNode :=
  let n := cores.length
  (List.range n).foldl (fun m j =>
    let own := min ((j + 1) * q) ngroups - j * q
    let pending := own + (if 2 * j + 1 < n then 1 else 0) + (if 2 * j + 2 < n then 1 else 0)
    if j = 0 then m else Map.put m (cores.getD j 0) { parent := cores.getD ((j - 1) / 2) 0, pending := pending }) []

/-- A unit whose branch is laid; the nodes that wait for nothing have reported. -/
def Unit.layTree (x : Unit) (q : Nat) : Unit :=
  let y : Unit := { x with nodes := treeNodes x.cores x.ngroups q }
  (y.nodes.filter (fun e => e.2.pending = 0)).foldl (fun z e => z.groupDone e.1) y

/-- Adds to the status word of a unit, at the node of core c; a unit that has retired counts nothing any more (18 R350). -/
def State.addStatus (s : State) (u c : Nat) (w fa : Word64) : State :=
  match Map.find s.units u with
  | some x => s.setUnit u (x.absorb c ⟨w, fa, s.cycle⟩)
  | none => s

/-! ## Matrix resources (12 R222, R228, R230, R236, R238) -/

def Core.bank (k : Core) (b : Nat) : Bank := (Map.find k.banks b).getD {}
def Core.setBank (k : Core) (b : Nat) (x : Bank) : Core := { k with banks := Map.put k.banks b x }
def Core.mslot (k : Core) (n : Nat) : MSlot := (Map.find k.mslots n).getD {}
def Core.setMslot (k : Core) (n : Nat) (x : MSlot) : Core := { k with mslots := Map.put k.mslots n x }
def Core.rtile (k : Core) (n : Nat) : RTile := (Map.find k.rtiles n).getD {}
def Core.setRtile (k : Core) (n : Nat) (x : RTile) : Core := { k with rtiles := Map.put k.rtiles n x }

/-- The token is on the vector side of the group in a slot. -/
def Bank.heldBy (b : Bank) (sl : Nat) : Bool :=
  match b.token with
  | .vector g _ => g = sl
  | _ => false

def Bank.newFor (b : Bank) (sl : Nat) : Bool :=
  match b.token with
  | .vector g new => g = sl && new && b.state ≠ .eh
  | _ => false

/-- Slots an MLOOP of the step queue holds. -/
def Step.holds (t : Step) : List Nat :=
  match t.loop with
  | some l => [l.sa0, l.sa1, l.sb0, l.sb1]
  | none => []

def Core.loopHolds (k : Core) (mask : BitVec 8) : Bool := k.steps.any (fun t => t.holds.any (fun n => mask.getLsbD n))

/-- A released Bellwether goes to the parked BTAKE group with the lowest slot number, else it is free (12 R230). -/
def Core.grantBell (k : Core) : Core :=
  { k with bell := [0, 1, 2, 3].find? (fun sl =>
      match (k.slot sl).group with
      | some g => g.splits.any (fun e => e.2.wake = some .bell)
      | none => false) }

/-- What the splits in a mask counted, nobody counts any more. -/
def Core.forget (k : Core) (sl : Nat) (who : BitVec 4) : Core :=
  { k with
    ops := k.ops.map (fun o => if o.slot = sl then { o with who := o.who &&& ~~~who } else o)
    tiles := k.tiles.map (fun o => if o.slot = sl then { o with who := o.who &&& ~~~who } else o)
    queues := k.queues.map (fun q => (q.1, q.2.map (fun i => match i with
      | .entry e => if e.slot = sl then .entry { e with who := e.who &&& ~~~who } else i
      | .join l => .join l))) }

/-- The number of no slot: the group that issued an operation has finished. -/
def nobody : Nat := 5

/-- A group leaves a core: its slots are released, its tokens are nobody's, the Bellwether goes on, and operations it issued
no longer belong to it (12 R222, R228). -/
def Core.releaseMatrix (k : Core) (sl : Nat) : Core :=
  let k := k.forget sl 15#4
  let k : Core := { k with
    mslots := k.mslots.map (fun e => (e.1, if e.2.owner = some sl then { e.2 with owner := none } else e.2))
    banks := k.banks.map (fun e => (e.1, if e.2.heldBy sl then { e.2 with token := .nobody } else e.2))
    steps := k.steps.map (fun t => if t.slot = sl then { t with slot := nobody } else t)
    convs := k.convs.map (fun t => if t.slot = sl then { t with slot := nobody } else t) }
  if k.bell = some sl then k.grantBell else k

/-- What of a reduction tile is the unit's: the tile it has armed, and its dropped arrivals. -/
def RTile.partOf (t : RTile) (u : Nat) : RTile :=
  { (if t.unit = some u then t else {}) with loose := t.loose.filter (fun e => e.1 = u) }

/-- A reduction tile without a unit. -/
def RTile.without (t : RTile) (u : Nat) : RTile :=
  { (if t.unit = some u then {} else t) with loose := t.loose.filter (fun e => e.1 ≠ u) }

/-- Banks, tokens, reduction tiles and slots of a unit are freed (12 R222). -/
def Core.freeMatrix (k : Core) (u : Nat) : Core :=
  { k with
    mslots := k.mslots.map (fun e => (e.1, if e.2.unit = u then {} else e.2))
    banks := k.banks.map (fun e => (e.1, if e.2.unit = u then {} else e.2))
    rtiles := k.rtiles.map (fun e => (e.1, e.2.without u))
    steps := k.steps.filter (fun t => t.unit ≠ u)
    convs := k.convs.filter (fun t => (Map.find k.banks t.bank).any (fun b => b.unit ≠ u)) }

def State.releaseGroup (s : State) (c sl : Nat) : State :=
  { s.setCore c ((s.core c).releaseMatrix sl) with
    sends := s.sends.map (fun t => if t.core = c && t.slot = sl then { t with slot := nobody } else t) }

/-! ## The Sheepdog of a die (15 R299, R306, R307) -/

def Sheep.drained (h : Sheep) : Bool := h.owner.isSome && h.window.isEmpty && h.batches.isEmpty

/-- The drain interrupt is pending in the slot of a hart (15 R306). -/
def State.raiseDrain (s : State) (h : Nat) : State :=
  match s.group (h / 8) (h % 8) with
  | some g => s.setGroup (h / 8) (h % 8) { g with csr := { g.csr with sip := g.csr.sip ||| 0x10000 } }
  | none => s

/-- An operation leaves the Sheepdog of a die as `h`: a drain counts and raises the armed slots' interrupts. -/
def State.setSheep (s : State) (d : Nat) (h : Sheep) : State :=
  let x := s.die d
  if h.drained && !x.sheep.drained then
    h.armed.foldl State.raiseDrain (s.setDie d { x with sheep := { h with sweeps := h.sweeps + 1, armed := [] } })
  else s.setDie d { x with sheep := h }

/-- The Sheepdog of a unit that retires or is cancelled: it belongs to nobody and holds nothing (15 R299). -/
def State.freeSheep (s : State) (u : Nat) : State :=
  { s with dies := s.dies.map (fun e =>
    if e.2.sheep.owner = some u then (e.1, { e.2 with sheep := { sweeps := e.2.sheep.sweeps } }) else e) }

/-- The number of no hart under which a batch is held until its release arrives. -/
def pastHart (id : Nat) : Nat := 2 ^ 24 + id

/-- The group of a slot that finishes releases its batch as by CBDONE: the release is on its way to the Sheepdog (15 R307). -/
def State.releaseBatch (s : State) (c sl : Nat) (g : Group) : State :=
  let d := dieOf c
  let h := (s.die d).sheep
  let hart := hartId c sl
  let s := if h.armed.contains hart then s.setSheep d { h with armed := h.armed.filter (fun a => a ≠ hart) } else s
  if h.batches.any (fun b => b.holder = hart) then
    let h := (s.die d).sheep
    let s := s.setDie d { s.die d with sheep := { h with
      batches := h.batches.map (fun b => if b.holder = hart then { b with holder := pastHart s.nextId } else b) } }
    { s with
      flights := s.flights ++ [{
        id := s.nextId, core := c, slot := sl, split := 0, unit := g.unit, job := (s.unit g.unit).job, asid := g.asid, mode := .u
        rd := 0, what := .release (pastHart s.nextId), since := s.time }]
      nextId := s.nextId + 1 }
  else s

/-! ## Ends -/

/-- A group finishes: its slot holds no group, its unit counts it (03 R62, 06 R136). -/
def State.finishGroup (s : State) (c sl : Nat) : State :=
  match s.group c sl with
  | none => s
  | some g =>
    let s := ((s.releaseBatch c sl g).setSlot c sl { s.slot c sl with group := none }).releaseGroup c sl
    let s := s.loseResv c sl 0 |>.loseResv c sl 1 |>.loseResv c sl 2 |>.loseResv c sl 3
    let x := (s.unit g.unit).groupDone c
    if g.recruit.isSome then (s.setUnit g.unit x).setCore c { s.core c with reserved := none }
    else
      (s.setUnit g.unit { x with counter := x.counter - 1, finished := x.finished ++ [g.index] }).barCheckAll g.unit

/-- What the end of a unit leaves of a queue: its fetched requests, but of a frozen queue those behind the violating entry, which stands
until a cancel (03 Table 3.4, 18 Table 18.4). `dead`: the violating entry has gone by. -/
def dropEntries (u : Nat) (cancel : Bool) : Bool → List QItem → List QItem
  | _, [] => []
  | dead, .join l :: r => .join l :: dropEntries u cancel dead r
  | dead, .entry e :: r =>
    let rest := dropEntries u cancel (dead || (e.unit = u && e.dead.isSome)) r
    if e.unit ≠ u then .entry e :: rest
    else if e.dead.isSome then (if cancel then rest else .entry e :: rest)
    else if dead || !e.fetched then rest else .entry e :: rest

/-- What the end of a unit leaves of a core: its groups and its activation are gone, its unfetched requests are dropped; operations
already issued go on (03 R61, Table 3.4). Without a cancel its frozen groups and queues stay as they are (18 R354). -/
def Core.dropUnit (k : Core) (u : Nat) (cancel : Bool) : Core :=
  let mine (w : Slot) : Bool := match w.group with
    | some g => g.unit = u && (cancel || g.frozen.isNone)
    | none => false
  let issuing := match k.issuing with
    | some (sl, sp) => if mine (k.slot sl) then none else some (sl, sp)
    | none => none
  let gone := [0, 1, 2, 3].filter (fun sl => mine (k.slot sl))
  let k : Core := { k with
    issuing := issuing
    waiting := if issuing.isNone then false else k.waiting
    slots := k.slots.map (fun e =>
      if mine e.2 then (e.1, { e.2 with group := none, activation := none }) else e)
    queues := k.queues.map (fun q => (q.1, dropEntries u cancel false q.2)) }
  gone.foldl (fun k sl => k.releaseMatrix sl) k

/-- A steal that fails: the thief's answer and its core's count (14 R282). -/
def State.failSteal (s : State) (id reason : Nat) : State :=
  match s.flights.find? (fun f => f.id = id) with
  | none => s
  | some f =>
    let k := s.core f.core
    let s := s.setCore f.core { k with failSteal := satInc k.failSteal }
    { s with
      flights := s.flights.map (fun g => if g.id = id then { g with answer := some [0, BitVec.ofNat 64 reason] } else g)
      cores := s.cores.map (fun e => if e.2.stealBox = some id then (e.1, { e.2 with stealBox := none }) else e) }

/-- The steal requests of a unit that ends fail (14 R282). -/
def State.dropSteals (s : State) (u : Nat) : State :=
  let s := s.flights.foldl (fun s f => match f.what with
    | .steal _ _ => if f.unit = u && f.answer.isNone then s.failSteal f.id 4 else s
    | _ => s) s
  { s with flights := s.flights.filter (fun f => !(f.unit = u && f.what.parks)) }

/-- A step of a unit in progress on a die ends without counting (19 R369). -/
def State.endStepOf (s : State) (u : Nat) : State :=
  { s with dies := s.dies.map (fun (e : Nat × Die) => (e.1, { e.2 with stepping := e.2.stepping.filter (fun q => q.1 ≠ u) })) }

/-- A save of the unit is in progress: by a pre-emption port, or by a forced STOP (16 R330, 20 R374). -/
def State.beingSaved (s : State) (u : Nat) : Bool :=
  s.dies.any (fun e => e.2.psaving = some u) ||
    ((s.unit u).saving && (s.unit u).job = s.mig.job && s.mig.phase = 3 && s.mig.forced && !s.mig.stuck)

/-- THE UNIT ENDS: by a lease end, a watchdog or a cancel (03 R61, R62); one that is being saved ends as an image (16 R330). -/
def State.endUnit (s : State) (u c : Nat) (w fa : Word64) (cancel : Bool) : State :=
  let s := s.addStatus u c w fa
  if s.beingSaved u then s.setUnit u { s.unit u with doomed := true }
  else
    let s : State := (s.endStepOf u).setUnit u { (s.unit u).collect with ended := true, counter := 0, halted := false, saving := false }
    let s : State := { s with
      cores := s.cores.map (fun e => (e.1, e.2.dropUnit u cancel))
      sends := s.sends.map (fun t => if t.unit = u then { t with slot := nobody } else t) }
    s.dropSteals u

/-- 03 R61: the access at va ends the unit with LEASE; the faulting master is a slot of a core. The unit's image, if it is being saved,
and the executive's notification carry cause 27 (16 R318). -/
def State.leaseEnd (s : State) (u c sl : Nat) (va : Word64) : State :=
  let t := s.endUnit u c (firstFault 5 (coordOf c) sl) va false
  let t := match Map.find t.units u with
    | some x => t.setUnit u { x with lease := some (x.lease.getD (c, sl, va)) }
    | none => t
  t.notify { cause := some 27, unit := u, core := c, slot := sl, value := va }

end Sys2Proof.Machine
end

