-- ==== Sys2Proof/Machine/Errors.lean ====
section
/-! DEFINITION. Errors that are not corrected, targeted self-tests and fencing (18 R349-R355, log 16). -/

namespace Sys2Proof.Machine

/-! ## Parts (18 Table 18.3) -/

/-- The IO die of a home: IOD0 serves homes 0 to 3, IOD1 homes 4 to 7 (10 R188). -/
def iodOfHome (va : Word64) : Nat := 8 + homeOf va / 4

/-- The core of a part: a core's own number, or one of its banks, accumulator banks or operand slots. -/
def partCore (kind part : Nat) : Nat :=
  if kind = 4 then part / 32 else if kind = 8 then part / 32 else if kind = 9 then part / 8 else part

/-- The part has been fenced. -/
def State.partFenced (s : State) (die kind part : Nat) : Bool :=
  if kind = 1 then (s.die die).badParts.contains (1, part)
  else if kind = 3 then (s.die die).badGroups.getLsbD (part % 64)
  else if kind = 8 then (s.core (partCore 8 part)).deadBanks.getLsbD (part % 32)
  else if kind = 9 then (s.core (partCore 9 part)).deadSlots.getLsbD (part % 8)
  else if kind = 2 ∨ kind = 10 ∨ kind = 11 then (s.die die).badParts.contains (kind, part)
  else decide (4 ≤ kind) && decide (kind ≤ 7) && (s.core (partCore kind part)).fenced

/-- Its test is deferred: to the write gate's opening, or until its core holds nothing. -/
def testDeferred (kind : Nat) : Bool := decide (3 ≤ kind) && decide (kind ≤ 9)

/-- The flock at the other end of a mesh link: a link is named 2 · flock for the one towards the next column, 2 · flock + 1 towards the
next row. -/
def linkEnds (part : Nat) : List Nat :=
  let f := part / 2
  let x := f % 1280 % 40
  let y := f % 1280 / 40
  f :: (if part % 2 = 0 then (if x < 39 then [f + 1] else []) else if y < 31 then [f + 40] else [])

def State.fenceFlock (s : State) (f : Nat) : State :=
  (List.range 16).foldl (fun s i => s.setCore (16 * f + i) { s.core (16 * f + i) with fenced := true }) s

/-- A level whose unit has used a part that awaits its test. -/
def Launch.suspect (x : Launch) (p : Nat × Nat × Nat) (w : Word64) : Launch :=
  { x with status := if x.suspects.contains p then x.status ||| w else x.status, suspects := x.suspects.filter (fun q => q ≠ p) }
def Run.suspect (x : Run) (p : Nat × Nat × Nat) (w : Word64) : Run :=
  { x with
    status := if x.suspects.contains p then x.status ||| w else x.status
    pstatus := if x.suspects.contains p then x.pstatus ||| w else x.pstatus, suspects := x.suspects.filter (fun q => q ≠ p) }
def Job.suspect (x : Job) (p : Nat × Nat × Nat) (w : Word64) : Job :=
  { x with status := if x.suspects.contains p then x.status ||| w else x.status, suspects := x.suspects.filter (fun q => q ≠ p) }

/-- The test of a part is over: where it failed, the words of the levels that used it get FENCED (18 R351). -/
def State.tested (s : State) (die kind part : Nat) (pass : Bool) : State :=
  let w : Word64 := if pass then 0 else flagFenced
  let p := (die, kind, part)
  { s with
    launches := s.launches.map (fun e => (e.1, e.2.suspect p w))
    runs := s.runs.map (fun e => (e.1, e.2.suspect p w))
    jobs := s.jobs.map (fun e => (e.1, e.2.suspect p w)) }

/-- Remembers that a part has failed its test. -/
def State.markBad (s : State) (die kind part : Nat) : State :=
  let d := s.die die
  s.setDie die { d with badParts := if d.badParts.contains (kind, part) then d.badParts else d.badParts ++ [(kind, part)] }

/-- A part that failed its test is fenced: a frame is retired once no lease covers it; an L2 way is masked (log 26); a port is its
standard's. -/
def State.fencePart (s : State) (die kind part : Nat) : State :=
  let c := partCore kind part
  let k := s.core c
  let d := s.die die
  if kind = 1 ∨ kind = 2 ∨ kind = 11 then s.markBad die kind part
  else if kind = 3 then s.setDie die { d with badGroups := d.badGroups ||| (1#64 <<< part % 64) }
  else if kind = 8 then s.setCore c { k with deadBanks := k.deadBanks ||| (1#32 <<< part % 32) }
  else if kind = 9 then s.setCore c { k with deadSlots := k.deadSlots ||| (1#8 <<< part % 8) }
  else if kind = 10 then (linkEnds part).foldl State.fenceFlock (s.markBad die kind part)
  else if 4 ≤ kind ∧ kind ≤ 7 then s.setCore c { k with fenced := true }
  else s

/-- A test that has to wait becomes due; the core takes no placement until then. -/
def State.queueTest (s : State) (die kind part : Nat) : State :=
  let d := s.die die
  let s := s.setDie die { d with testDue := if d.testDue.contains (kind, part) then d.testDue else d.testDue ++ [(kind, part)] }
  if kind = 3 then s else s.setCore (partCore kind part) { s.core (partCore kind part) with testDue := true }

/-! ## An error (18 R349-R353, R355) -/

/-- Who consumes it: core, slot, unit. -/
abbrev Consumer := Option (Nat × Nat × Nat)

/-- THE COUNTING of an error: `rec` is the KIND of its record, 1 corrected, 2 read zeroed, 3 write dropped, 5 retries exhausted, the
last with `drop` where a write was lost. A corrected error whose test passes is only counted in CORR. An error of a fenced part is logged,
and no test is run (R353). A unit that is gone is counted nowhere. -/
def State.countError (s : State) (die kind part : Nat) (addr : Word64) (rec_ : Nat) (drop pass : Bool) (who : Consumer) : State :=
  let known := s.partFenced die kind part
  let test := if known then 0 else if testDeferred kind then 3 else if pass then 1 else 2
  let fail := test = 2
  let job := (who.bind (fun w => (Map.find s.units w.2.2).map (fun x => x.job))).getD 0
  let coord := match who with
    | some w => coordOf w.1
    | none => if 4 ≤ kind ∧ kind ≤ 9 then coordOf (partCore kind part) else noCoord
  let record := rec_ ≠ 1 || fail || known
  let flag : Word64 := (if drop then flagWdrop else flagUncorr) ||| (if fail || known then flagFenced else 0)
  let s := if rec_ = 1 then s.setDie die { s.die die with elcorr := satInc (s.die die).elcorr }
    else match who with
      | some w => s.addStatus w.2.2 w.1 (flag + 1) 0
      | none => s
  let s := if record then
      s.logRecord die (errRecord s.time addr job rec_ kind test coord ((who.map (fun w => w.2.1)).getD 7) 0) else s
  if test = 3 then s.queueTest die kind part else if fail then (s.fencePart die kind part).tested die kind part false else s

/-- The line reads zero from now on (18 R349). -/
def State.zeroLine (s : State) (pa : Nat) : State := { s with hbm := s.hbm.clear (pa / 64 * 64) 64 }

/-- WHERE AN ERROR IS, by STRUCT: a device physical address; a weight byte; a scratchpad byte; core · 2^20 with slot · 2^17 and a uniform
register, or 2^16 and a lane word; a core; a bank's or an operand slot's word or byte; a link; a port. -/
def errDie (kind at_ : Nat) : Nat :=
  if kind = 1 ∨ kind = 2 then at_ / 2 ^ 38 else if kind = 3 then at_ / 2 ^ 32 else if kind = 4 then dieOf (at_ / 32768)
  else if kind = 5 ∨ kind = 6 ∨ kind = 7 then dieOf (at_ / 2 ^ 20) else if kind = 8 then dieOf (at_ / 2 ^ 13)
  else if kind = 9 then dieOf (at_ / 2 ^ 13) else if kind = 10 then at_ / 2560 else 8 + at_ / 16
def errPart (kind at_ : Nat) : Nat :=
  if kind = 1 then at_ / 4096 else if kind = 2 then at_ / 64 else if kind = 3 then at_ % 2 ^ 32 / 2 ^ 26
  else if kind = 4 then at_ / 32768 * 32 + at_ / 4 % 32 else if kind = 5 ∨ kind = 6 ∨ kind = 7 then at_ / 2 ^ 20
  else if kind = 8 then at_ / 2 ^ 8 else if kind = 9 then at_ / 2 ^ 10 else at_

/-- A word pair of a register file reads zero. -/
def Group.zeroReg (g : Group) (n : Nat) : Group :=
  if n < 2 ^ 16 then { g with y := Map.del g.y n } else { g with v := Map.del (Map.del g.v (n % 2 ^ 16 / 2 * 2)) (n % 2 ^ 16 / 2 * 2 + 1) }

/-- A line of a hart data cache fails: a clean one is fetched again, of one that is newer than the L2 the protected unit is lost. `at_` is
core · 2^20 + 8 · the line's place among the core's + the doubleword. -/
def State.failHartLine (s : State) (at_ : Nat) : State :=
  match (s.dcache.filter (fun e => e.1 / 2 ^ 74 = at_ / 2 ^ 20))[at_ % 2 ^ 20 / 8]? with
  | some (key, pa, _, dirty) =>
    { s with
      dcache := Map.del s.dcache key
      hbm := if dirty then s.hbm.clear (pa + at_ % 8 * 8) 8 else s.hbm }
  | none => s

/-- The line that `failHartLine` names is newer than the L2. -/
def State.hartLineDirty (s : State) (at_ : Nat) : Bool :=
  ((s.dcache.filter (fun e => e.1 / 2 ^ 74 = at_ / 2 ^ 20))[at_ % 2 ^ 20 / 8]?).any (fun e => e.2.2.2)

/-- The protected unit that failed reads zero; a clean copy, STRUCT 0, is fetched again: the line of a flock's L1 or of its instruction
cache with this key (R349). -/
def State.zeroUnit (s : State) (kind at_ : Nat) : State :=
  if kind = 1 ∨ kind = 2 then s.zeroLine at_
  else if kind = 3 then { s with weight := s.weight.clear (at_ / 8 * 8) 8 }
  else if kind = 4 then { s with scratch := s.scratch.clear (at_ / 8 * 8) 8 }
  else if kind = 5 then
    let c := at_ / 2 ^ 20
    let sl := at_ / 2 ^ 17 % 8
    match s.group c sl with
    | some g => s.setGroup c sl (g.zeroReg (at_ % 2 ^ 17))
    | none => s
  else if kind = 0 then { s with l1 := Map.del s.l1 at_, icache := Map.del s.icache at_ }
  else if kind = 7 then s.failHartLine at_
  else if kind = 8 then
    let k := s.core (at_ / 2 ^ 13)
    let b := k.bank (at_ / 2 ^ 8 % 32)
    s.setCore (at_ / 2 ^ 13) (k.setBank (at_ / 2 ^ 8 % 32)
      { b with words := Map.del (Map.del b.words (at_ % 2 ^ 8 / 2 * 2)) (at_ % 2 ^ 8 / 2 * 2 + 1) })
  else if kind = 9 then
    let k := s.core (at_ / 2 ^ 13)
    let m := k.mslot (at_ / 2 ^ 10 % 8)
    s.setCore (at_ / 2 ^ 13) (k.setMslot (at_ / 2 ^ 10 % 8) { m with bytes := m.bytes.clear (at_ % 2 ^ 10 / 8 * 8) 8 })
  else s

/-- The IO die and the port of a peer or host access: a CXL port is number 128 (10 R188, 22 R406, R408). -/
def portOf (pl : Place) (va : Word64) : Nat × Nat :=
  match pl with
  | .peer _ _ => (8, 0)
  | _ => (iodOfHome va, 128)

/-- The error that stands in the way of the split's next data access, or of its next fetch, and that an access of a place meets. -/
def State.flawAt (s : State) (x : Ctx) (pl : Place) (fetch : Bool) : Option Flaw :=
  match s.flaw with
  | some f =>
    let there := match pl with
      | .hbm _ => f.struct = 1 || f.struct = 2 || f.struct = 10
      | _ => f.struct = 10 || f.struct = 11
    if f.core = x.c && f.slot = x.sl && f.fetch = fetch && there then some f else none
  | none => none

/-- The access that meets the error is counted, logged and tested; a line of HBM that it read is zero from now on (18 R349-R351). -/
def State.meetFlaw (s : State) (x : Ctx) (va : Word64) (pl : Place) (drop : Bool) (f : Flaw) : State :=
  let s : State := { s with flaw := none }
  let who : Consumer := some (x.c, x.sl, (s.grp x).unit)
  if f.struct = 10 then s.countError (dieOf x.c) 10 (flockOf x.c * 2) va 5 drop f.pass who
  else
    match pl with
    | .hbm pa =>
      (if drop then s else s.zeroLine pa).countError (pa / 2 ^ 38) f.struct (errPart f.struct pa) (BitVec.ofNat 64 pa)
        (if drop then 3 else 2) drop f.pass who
    | pl => s.countError (portOf pl va).1 11 (portOf pl va).2 va 5 drop f.pass who

/-! ## Parts that a unit uses (18 R351, R353) -/

/-- The refresh groups of the job's weight region on a die. -/
def State.weightGroups (s : State) (job : BitVec 16) (die : Nat) : List Nat :=
  match Map.find s.regions (job.toNat * 8 + die) with
  | some (b, n) => (List.range (n / 2 ^ 26)).map (fun i => (b / 2 ^ 26 + i) % 64)
  | none => []

/-- The cores of a unit and of its recruits. -/
def State.coresUsed (s : State) (u : Nat) (x : Unit) : List Nat :=
  x.cores ++ (s.cores.filter (fun e => e.2.reserved = some u)).map Prod.fst

/-- A part that the unit uses has been fenced: a core, a bank or slot it owns, a refresh group of its job's region, a frame that a page
of its launch's leases is pinned to. -/
def State.usedFenced (s : State) (u : Nat) (x : Unit) : Bool :=
  let die := dieOf (x.cores.headD 0)
  (s.coresUsed u x).any (fun c =>
    let k := s.core c
    k.fenced || k.banks.any (fun b => b.2.unit = u && k.deadBanks.getLsbD b.1) ||
      k.mslots.any (fun m => m.2.unit = u && k.deadSlots.getLsbD m.1)) ||
  (s.weightGroups x.job die).any (fun g => (s.die die).badGroups.getLsbD g) ||
  s.pins.any (fun e => pteLoc e.2.1 = 0#3 && s.partFenced (ptePpn e.2.1 / 2 ^ 26) 1 (ptePpn e.2.1) &&
    s.ranges.any (fun r => r.launch = x.launch && e.1 / 2 ^ 36 = r.asid.toNat && decide (r.base.toNat < e.1 % 2 ^ 36 * 4096 + 4096) &&
      decide (e.1 % 2 ^ 36 * 4096 < r.base.toNat + r.size)))

/-- Parts with a due test that the unit has used. -/
def State.suspectsOf (s : State) (u : Nat) (x : Unit) : List (Nat × Nat × Nat) :=
  let die := dieOf (x.cores.headD 0)
  ((s.die die).testDue.filter (fun q =>
    if q.1 = 3 then (s.weightGroups x.job die).contains q.2 else (s.coresUsed u x).contains (partCore q.1 q.2))).map (fun q => (die, q.1, q.2))

/-- The levels above a unit remember the parts it has used whose tests are due. -/
def State.suspectLevels (s : State) (u : Nat) (x : Unit) : State :=
  match s.suspectsOf u x, Map.find s.launches x.launch with
  | [], _ => s
  | _, none => s
  | ps, some l =>
    let add (qs : List (Nat × Nat × Nat)) : List (Nat × Nat × Nat) := qs ++ ps.filter (fun p => !qs.contains p)
    { s with
      launches := s.launches.map (fun e => if e.1 = x.launch then (e.1, { e.2 with suspects := add e.2.suspects }) else e)
      runs := s.runs.map (fun e => if l.run = some e.1 then (e.1, { e.2 with suspects := add e.2.suspects }) else e)
      jobs := s.jobs.map (fun e => if e.1 = x.job.toNat then (e.1, { e.2 with suspects := add e.2.suspects }) else e) }

end Sys2Proof.Machine
end

