-- ==== Sys2Proof/Machine/Fetch.lean ====
section
/-! DEFINITION. Fetching instruction words (05 R79, R83, R88) and the arbitration of the issue slot (06 R122-R126, R139,
16 R324). -/

namespace Sys2Proof.Machine

/-! ## Fetch -/

/-- 05 R79: the code heap window. -/
def heapBase : Nat := 0x7F0000000000
def inHeap (pc : Word64) : Bool := decide (heapBase ≤ pc.toNat) && decide (pc.toNat < heapBase + 2 ^ 28)
def heapOff (pc : Word64) : Nat := pc.toNat - heapBase

inductive Fetched where
  | word (w : Word32)
  | redirect (pc : Word64)
  | fault (code : Nat)
deriving DecidableEq, Repr

def fwdKind (e : BitVec 128) : BitVec 2 := e.extractLsb' 126 2
def fwdLen (e : BitVec 128) : Nat := (e.extractLsb' 98 26).toNat * 4
def fwdAsid (e : BitVec 128) : BitVec 16 := e.extractLsb' 64 16
def fwdNew (e : BitVec 128) : Nat := (e.extractLsb' 34 26).toNat * 4
def fwdOld (e : BitVec 128) : Nat := (e.extractLsb' 2 26).toNat * 4

def fwdPoint (asid : BitVec 16) (h : Nat) (e : BitVec 128) : Bool :=
  fwdKind e = 2#2 && fwdAsid e = asid && fwdOld e = h
def fwdMove (asid : BitVec 16) (h : Nat) (e : BitVec 128) : Bool :=
  fwdKind e = 1#2 && fwdAsid e = asid && decide (fwdOld e ≤ h) && decide (h < fwdOld e + fwdLen e)

/-- 05 R83: a POINT entry first, else the lowest-indexed MOVE entry that contains the offset. -/
def Die.forward (d : Die) (asid : BitVec 16) (h : Nat) : Option Nat :=
  let es := d.fwd.map Prod.snd
  match es.find? (fwdPoint asid h) with
  | some e => some (fwdNew e)
  | none => (es.find? (fwdMove asid h)).map (fun e => fwdNew e + (h - fwdOld e))

/-- The heap offset holds loaded text of an address space (05 R83). -/
def State.textAt (s : State) (asid : BitVec 16) (h : Nat) : Bool :=
  s.extents.any (fun e => e.asid = asid && decide (e.off ≤ h) && decide (h < e.off + e.text))

/-- The key of a line in a flock's tagged cache. -/
def tagKey (flock : Nat) (asid : BitVec 16) (va : Word64) : Nat :=
  (flock * 2 ^ 16 + asid.toNat) * 2 ^ 58 + va.toNat / 64

/-- The word at an address for a split of core c: the flock's instruction cache, else the forwarding table, else memory. -/
def State.fetch (s : State) (c : Nat) (g : Group) (md : Mode) (pc : Word64) : Fetched :=
  if md = .u && !inHeap pc then .fault 1
  else
    match Map.find s.icache (tagKey (flockOf c) g.asid pc) with
    | some line => .word (BitVec.ofNat 32 (leValue ((line.drop (pc.toNat % 64)).take 4)))
    | none =>
      match (if inHeap pc then (s.die (dieOf c)).forward g.asid (heapOff pc) else none) with
      | some h => .redirect (BitVec.ofNat 64 (heapBase + h))
      | none =>
        if inHeap pc && !s.textAt g.asid (heapOff pc) then .fault 1
        else
        match s.translate g.asid pc .fetch md false false with
        | .ok pl _ => .word (BitVec.ofNat 32 (leValue (s.readPlace pl 4)))
        | _ => .fault (if md = .u then 1 else 12)

/-- An acquire at UNIT scope or wider drops the lines of an ASID from a flock's L1 (10 R191). -/
def State.dropL1 (s : State) (c : Nat) (asid : BitVec 16) : State :=
  let lo := (flockOf c * 2 ^ 16 + asid.toNat) * 2 ^ 58
  { s with l1 := s.l1.filter (fun e => e.1 < lo || lo + 2 ^ 58 ≤ e.1) }

/-- The lines of 64 bytes that a flock's L1 (64 KiB) and its instruction cache (32 KiB) hold (00 Table 0.2). -/
def l1Lines : Nat := 1024
def icacheLines : Nat := 512

/-- The key of a tagged line is one of a flock's. -/
def inFlock (flock key : Nat) : Bool := key / 2 ^ 74 = flock

/-- A line enters a flock's L1; of a full one, which line makes room is open (DESIGN CHOICE, log 34). -/
def State.fillL1 (s : State) (flock key line : Nat) (d : List Byte) : State :=
  { s with
    l1 := Map.put ((Map.del s.l1 key).makeRoom (inFlock flock) l1Lines (Config.freeWord s.freeCtr).toNat) key (line, d)
    freeCtr := if ((Map.del s.l1 key).filter (fun e => inFlock flock e.1)).length < l1Lines then s.freeCtr else s.freeCtr + 1 }

/-- A line enters a flock's instruction cache. -/
def State.fillIcache (s : State) (flock key : Nat) (d : List Byte) : State :=
  { s with
    icache := Map.put (s.icache.makeRoom (inFlock flock) icacheLines (Config.freeWord s.freeCtr).toNat) key d
    freeCtr := if (s.icache.filter (fun e => inFlock flock e.1)).length < icacheLines then s.freeCtr else s.freeCtr + 1 }

/-- The fields of a CLH word, if it is one (05 Table 5.5). -/
def clhWaits (w : Word32) : Option (BitVec 3 × BitVec 3 × BitVec 3 × BitVec 3) :=
  if fOp w = 0x0B#7 && fF3 w = 7#3 && fB11 w = 0#1 && fCount w ≠ 0#4 then
    some (fCond w, fM24 w, fC21 w, fC18 w)
  else none

/-! ## Eligibility (06 R122) -/

/-- 11 Table 11.3: PHASE of the barrier object at a scratchpad byte. -/
def State.objPhase (s : State) (byte : Nat) : BitVec 16 := BitVec.ofNat 16 (leValue (s.scratch.bytes (byte + 6) 2))

def Core.entries (k : Core) (q : Nat) : Nat :=
  (k.queue q).countP (fun i => match i with | .entry _ => true | .join _ => false)

def State.wakeReady (s : State) (x : Ctx) (g : Group) : Wake → Bool
  | .counters t c st l => (s.core x.c).met x.sl x.sp t c st l
  | .fence st l _ => (s.core x.c).fenceMet x.sl x.sp st l
  | .quiet => (s.core x.c).quiet x.sl x.sp (g.split x.sp)
  | .quietOf c sl =>
    match s.group c sl with
    | some h => h.splits.all (fun e => (s.core c).quiet sl e.1 e.2)
    | none => true
  | .lines ls => ls.all s.linePresent
  | .copyRoom q n ls =>
    decide ((s.core x.c).entries q + n ≤ 64) && ls.all (fun l => decide (Map.getD 0 s.lineP l + ls.count l ≤ 7))
  | .objPhase b p => s.objPhase b ≠ p
  | .barPhase b p => ((s.unit g.unit).bar b).phase ≠ p
  | .interrupt => s.mip x.c x.sl ≠ 0
  | .event => (g.split x.sp).joinCont.isSome
  | .answer n => s.flights.any (fun f => f.id = n && f.arrived)
  | .sheepIdle => s.flights.all (fun f => !(f.core = x.c && f.slot = x.sl && f.what.batching))
  | .stepRoom => decide ((s.core x.c).steps.length < 4)
  | .loopFree m => !(s.core x.c).loopHolds m
  | .bell => (s.core x.c).bell = some x.sl
  | .token b => (s.core x.c).bank b |>.heldBy x.sl
  | .anyToken => (List.range 32).any (fun b => ((s.core x.c).bank b).newFor x.sl)
  | .pendZero t => ((s.core x.c).rtile t).pend = 0

/-- Split ids free for LJALR: of the split's own half in an LW16 group (06 R135). -/
def Group.freeIds (g : Group) (sp : Nat) : List Nat :=
  [0, 1, 2, 3].filter (fun k => !g.uses k && (!g.lw16 || halfOf k = halfOf sp))

/-- The group lets its splits issue: it is not frozen or halted, and its unit is not being saved. -/
def State.groupRuns (s : State) (c sl : Nat) (g : Group) : Bool :=
  g.frozen.isNone && !g.halted && !(s.unit g.unit).saving &&
    (sl ≠ handlerSlot || (s.slot c sl).activation.isSome)

def State.eligible (s : State) (x : Ctx) (g : Group) (p : Split) : Bool :=
  s.groupRuns x.c x.sl g && (g.trapped.isNone || g.trapped = some x.sp) && p.wake.isNone &&
    !(p.window && s.native g p.pc) && (!p.atLjalr || !(g.freeIds x.sp).isEmpty) &&
    ((p.resume && p.crem ≠ 0) ||
      match s.fetch x.c g p.mode p.pc with
      | .word w =>
        match clhWaits w with
        | some (t, cp, st, l) => (s.core x.c).met x.sl x.sp t cp st l
        | none => true
      | _ => true)

/-- Parked splits whose condition holds again unpark, of a group in a trap only the split that is in it (16 R315), and a fence's acquire
takes effect (13 R269); then the merge test (06 R138). -/
def State.unparkGroup (s : State) (c sl : Nat) : State :=
  match s.group c sl with
  | none => s
  | some g =>
    let ready (k : Nat) (p : Split) : Bool := (g.trapped.isNone || g.trapped = some k) && match p.wake with
      | some w => s.wakeReady { c := c, sl := sl, sp := k } g w
      | none => false
    let drops (p : Split) : Bool := match p.wake with
      | some (.fence _ _ d) => d
      | _ => false
    if s.groupRuns c sl g && g.splits.any (fun e => ready e.1 e.2) then
      let t := (s.setGroup c sl { g with
        splits := g.splits.map (fun e => if ready e.1 e.2 then (e.1, { e.2 with wake := none }) else e) }).mergeTest c sl
      if g.splits.any (fun e => ready e.1 e.2 && drops e.2) then t.dropL1 c g.asid else t
    else s

/-- A fence that an interrupt took its split out of takes effect when its wait is over, before the handler's accesses, which come after
it in program order (13 R253, R263, R269). -/
def State.settleSplit (s : State) (x : Ctx) : State :=
  let g := s.grp x
  let p := g.split x.sp
  let due (q : Mode × Wake) : Bool := match q.2 with
    | .fence _ _ _ => s.wakeReady x g q.2
    | _ => false
  let drops (q : Mode × Wake) : Bool := match q.2 with
    | .fence _ _ d => d
    | _ => false
  if p.held.any due then
    let t := s.setSpl x { p with held := p.held.filter (fun q => !due q) }
    if p.held.any (fun q => due q && drops q) then t.dropL1 x.c g.asid else t
  else s

def State.settleFences (s : State) (c sl : Nat) : State :=
  match s.group c sl with
  | none => s
  | some g => g.splits.foldl (fun s e => s.settleSplit { c := c, sl := sl, sp := e.1 }) s

/-! ## Arbitration (06 R123) -/

/-- A candidate: slot, split, effective priority, pc. -/
abbrev Cand := Nat × Nat × Nat × Word64

def State.priority (s : State) (c sl : Nat) (g : Group) (p : Split) : Nat :=
  if sl = handlerSlot then
    match (s.slot c sl).activation with
    | some ch => ((Map.find (s.core c).channels ch.toNat).getD {}).prio.toNat
    | none => 0
  else min 7 (g.prio.toNat + (if 64 ≤ p.aging then 1 else 0))

def State.candidates (s : State) (c : Nat) : List Cand :=
  [0, 1, 2, 3, 4].flatMap (fun sl =>
    match s.group c sl with
    | none => []
    | some g => [0, 1, 2, 3].filterMap (fun sp =>
      let p := g.split sp
      if g.uses sp && s.eligible { c := c, sl := sl, sp := sp } g p then some (sl, sp, s.priority c sl g p, p.pc) else none))

/-- The slots in the order of the rotation. -/
def rotation : Option Nat → List Nat
  | none => [0, 1, 2, 3, 4]
  | some k => [(k + 1) % 5, (k + 2) % 5, (k + 3) % 5, (k + 4) % 5, k % 5]

def lowestPc : List Cand → Option Cand
  | [] => none
  | a :: r =>
    match lowestPc r with
    | none => some a
    | some b => if b.2.2.2.toNat < a.2.2.2.toNat then some b else some a

def winner (cs : List Cand) (last : Option Nat) : Option Cand :=
  let top := cs.foldl (fun m a => max m a.2.2.1) 0
  let best := cs.filter (fun a => a.2.2.1 = top)
  match (rotation last).find? (fun sl => best.any (fun a => a.1 = sl)) with
  | none => none
  | some sl => lowestPc (best.filter (fun a => a.1 = sl))

/-- The eligible splits that did not win age. -/
def State.age (s : State) (c : Nat) (cs : List Cand) (w : Cand) : State :=
  cs.foldl (fun s a =>
    let x : Ctx := { c := c, sl := a.1, sp := a.2.1 }
    let p := s.spl x
    s.setSpl x { p with aging := if a.1 = w.1 ∧ a.2.1 = w.2.1 then 0 else p.aging + 1 }) s

/-- The winner takes the slot and opens its clause, or the rest of an interrupted one (06 R126). -/
def State.giveSlot (s : State) (x : Ctx) : State :=
  let p := s.spl x
  let s := s.setSpl x { p with
    left := if p.resume then p.crem else 0, engc := if p.resume && p.crem ≠ 0 then p.cremEngc else 7,
    crem := if p.resume then 0 else p.crem, armed := p.resume && p.pp, resume := false, stall := 0, window := false }
  s.setCore x.c { s.core x.c with issuing := some (x.sl, x.sp), lastSlot := some x.sl, waiting := false }

/-- A parked split that takes a pending interrupt when no split of its group is eligible (16 R324). -/
def State.parkedIrq (s : State) (c : Nat) : Option (Nat × Nat × Split × Nat) :=
  [0, 1, 2, 3].findSome? (fun sl =>
    match s.group c sl with
    | none => none
    | some g =>
      if s.groupRuns c sl g && !g.splits.any (fun e => s.eligible { c := c, sl := sl, sp := e.1 } g e.2) then
        (g.splits.find? (fun e => e.2.wake.isSome && (g.trapped.isNone || g.trapped = some e.1))).bind (fun e =>
          (s.takeable c sl e.2).map (fun i => (sl, e.1, e.2, i.1)))
      else none)

/-- ONE ARBITRATION of a core whose slot is free. -/
def State.arbitrate (s : State) (c : Nat) : State :=
  let s := [0, 1, 2, 3, 4].foldl (fun s sl => s.settleFences c sl) s
  if (s.core c).issuing.isSome then s
  else
    let s := [0, 1, 2, 3, 4].foldl (fun s sl => s.unparkGroup c sl) s
    match s.parkedIrq c with
    | some (sl, sp, p, i) => s.takeTrap c sl sp i true 0 p.pc p.crem
    | none =>
      let cs := s.candidates c
      match winner cs (s.core c).lastSlot with
      | none => s
      | some w =>
        let s := s.age c cs w
        let x : Ctx := { c := c, sl := w.1, sp := w.2.1 }
        let p := s.spl x
        match (if w.1 = handlerSlot || (p.resume && p.crem ≠ 0) then none else s.takeable c w.1 p) with
        | some (i, _) => s.takeTrap c w.1 w.2.1 i true 0 p.pc 0
        | none => s.giveSlot x

end Sys2Proof.Machine
end

