-- ==== Sys2Proof/Machine/Float.lean ====
section
/-! DEFINITION. Numbers: exact values, the float formats, the one rounding (02 R31-R42), and the approximating functions
(07 R157). A finite value is (-1)^neg · m · 2^e with m a natural number, so every operation before the rounding is exact. -/

namespace Sys2Proof.Machine

inductive FNum where
  | nan
  | inf (neg : Bool)
  | fin (neg : Bool) (m : Nat) (e : Int)
deriving DecidableEq, Repr

inductive Rnd where
  | rne | rtz | rdn | rup | rmm
deriving DecidableEq, Repr

/-- 02 Table 2.3. -/
def rndOf (c : BitVec 3) : Rnd :=
  if c = 1#3 then .rtz else if c = 2#3 then .rdn else if c = 3#3 then .rup else if c = 4#3 then .rmm else .rne

/-- 02 Table 2.2. -/
structure FloatFmt where
  ebits : Nat
  fbits : Nat
  bias  : Nat
  hasInf : Bool
  canon : Nat
deriving DecidableEq, Repr

def fp32 : FloatFmt := ⟨8, 23, 127, true, 0x7FC00000⟩
def fp16 : FloatFmt := ⟨5, 10, 15, true, 0x7E00⟩
def bf16 : FloatFmt := ⟨8, 7, 127, true, 0x7FC0⟩
def e4m3 : FloatFmt := ⟨4, 3, 7, false, 0x7F⟩
def e5m2 : FloatFmt := ⟨5, 2, 15, true, 0x7E⟩

/-- The float format of a format code. -/
def floatOf (c : BitVec 5) : FloatFmt :=
  if c = 1#5 then fp16 else if c = 2#5 then bf16 else if c = 3#5 then e4m3 else if c = 4#5 then e5m2 else fp32

def FloatFmt.width (f : FloatFmt) : Nat := 1 + f.ebits + f.fbits
def FloatFmt.signBit (f : FloatFmt) : Nat := 2 ^ (f.ebits + f.fbits)
/-- The exponent of the last place of a subnormal. -/
def FloatFmt.qmin (f : FloatFmt) : Int := 1 - (f.bias : Int) - f.fbits
/-- The magnitude bits of infinity, or of the encoding above the largest finite value. -/
def FloatFmt.infBits (f : FloatFmt) : Nat := if f.hasInf then (2 ^ f.ebits - 1) * 2 ^ f.fbits else f.canon
def FloatFmt.maxBits (f : FloatFmt) : Nat := f.infBits - 1

/-- The value of an encoding. -/
def FloatFmt.value (f : FloatFmt) (bits : Nat) : FNum :=
  let neg := decide (bits / f.signBit % 2 = 1)
  let mag := bits % f.signBit
  if f.infBits < mag then .nan
  else if mag = f.infBits then (if f.hasInf then .inf neg else .nan)
  else if mag < 2 ^ f.fbits then .fin neg mag f.qmin
  else .fin neg (mag % 2 ^ f.fbits + 2 ^ f.fbits) (f.qmin + (mag / 2 ^ f.fbits : Nat) - 1)

def FNum.neg : FNum → FNum
  | .nan => .nan
  | .inf s => .inf !s
  | .fin s m e => .fin (!s) m e

def FNum.isNan : FNum → Bool
  | .nan => true
  | _ => false

/-- The signed numerator of a finite value. -/
def signed (neg : Bool) (m : Nat) : Int := if neg then -(m : Int) else m

/-- An integer times a power of two; zero is +0. -/
def FNum.ofInt (v e : Int) : FNum := .fin (decide (v < 0)) v.natAbs e

/-- The exact sum; an exact zero of opposite signs is +0, but -0 under RDN (02 R35). -/
def FNum.add (rm : Rnd) (a b : FNum) : FNum :=
  match a, b with
  | .nan, _ => .nan
  | _, .nan => .nan
  | .inf s, .inf t => if s = t then .inf s else .nan
  | .inf s, _ => .inf s
  | _, .inf t => .inf t
  | .fin s m e, .fin t n f =>
    if m = 0 && n = 0 then .fin (if s = t then s else rm = .rdn) 0 0
    else
      let g := min e f
      let v := signed s m * 2 ^ (e - g).toNat + signed t n * 2 ^ (f - g).toNat
      if v = 0 then .fin (rm = .rdn) 0 0 else .ofInt v g

def FNum.sub (rm : Rnd) (a b : FNum) : FNum := FNum.add rm a b.neg

def FNum.mul (a b : FNum) : FNum :=
  match a, b with
  | .nan, _ => .nan
  | _, .nan => .nan
  | .inf s, .inf t => .inf (s != t)
  | .inf s, .fin t n _ => if n = 0 then .nan else .inf (s != t)
  | .fin s m _, .inf t => if m = 0 then .nan else .inf (s != t)
  | .fin s m e, .fin t n f => .fin (s != t) (m * n) (e + f)

/-- a < b of values that are no NaN; the zeros are equal. -/
def FNum.lt (a b : FNum) : Bool :=
  match a, b with
  | .nan, _ => false
  | _, .nan => false
  | .inf s, .inf t => s && !t
  | .inf s, _ => s
  | _, .inf t => !t
  | .fin s m e, .fin t n f =>
    let g := min e f
    decide (signed s m * 2 ^ (e - g).toNat < signed t n * 2 ^ (f - g).toNat)

def FNum.eq (a b : FNum) : Bool := !a.isNan && !b.isNan && !a.lt b && !b.lt a

def FNum.sign : FNum → Bool
  | .nan => false
  | .inf s => s
  | .fin s _ _ => s

/-- 07 Table 7.10: the lesser, -0 below +0; one NaN gives the other operand. -/
def FNum.minimum (a b : FNum) : FNum :=
  if a.isNan then b else if b.isNan then a
  else if a.lt b then a else if b.lt a then b else if a.sign then a else b

def FNum.maximum (a b : FNum) : FNum :=
  if a.isNan then b else if b.isNan then a
  else if a.lt b then b else if b.lt a then a else if a.sign then b else a

/-- r · 2^s. -/
def FNum.scale (a : FNum) (s : Int) : FNum :=
  match a with
  | .fin n m e => .fin n m (e + s)
  | a => a

/-! ## Rounding (02 R34-R36) -/

/-- The number of bits of a natural number. -/
def bitLen (m : Nat) : Nat := if m = 0 then 0 else Nat.log2 m + 1

/-- m · 2^(-k) rounded to an integer, the sign given. -/
def roundShift (rm : Rnd) (neg : Bool) (m k : Nat) : Nat :=
  let q := m / 2 ^ k
  let r := m % 2 ^ k
  let up := match rm with
    | .rne => decide (2 ^ k < 2 * r) || (decide (2 * r = 2 ^ k) && q % 2 = 1)
    | .rtz => false
    | .rdn => neg && r ≠ 0
    | .rup => !neg && r ≠ 0
    | .rmm => decide (2 ^ k ≤ 2 * r)
  if k ≠ 0 && up then q + 1 else q

/-- Whether an overflow goes to infinity rather than to the largest finite value (Table 2.4). -/
def overflowsToInf (rm : Rnd) (neg : Bool) : Bool :=
  match rm with
  | .rne | .rmm => true
  | .rtz => false
  | .rdn => neg
  | .rup => !neg

/-- Bits of ± max, and of the infinity of a sign: E4M3, which has none, gives its NaN. -/
def FloatFmt.maxOf (f : FloatFmt) (neg : Bool) : Nat := (if neg then f.signBit else 0) + f.maxBits
def FloatFmt.infOf (f : FloatFmt) (neg : Bool) : Nat :=
  if f.hasInf then (if neg then f.signBit else 0) + f.infBits else f.canon

/-- THE ONE ROUNDING of a value to the bits of a format. -/
def FloatFmt.round (f : FloatFmt) (rm : Rnd) (sat : Bool) (v : FNum) : Nat :=
  match v with
  | .nan => f.canon
  | .inf neg => if sat then f.maxOf neg else f.infOf neg
  | .fin neg m e =>
    let s := if neg then f.signBit else 0
    let q := max f.qmin (e + (bitLen m : Int) - 1 - f.fbits)
    let n := if q ≤ e then m * 2 ^ (e - q).toNat else roundShift rm neg m (q - e).toNat
    let mag := if m = 0 then 0 else (q - f.qmin).toNat * 2 ^ f.fbits + n
    if f.maxBits < mag then (if sat || !overflowsToInf rm neg then f.maxOf neg else f.infOf neg)
    else s + mag

/-- A value rounded to an integer; an infinity is a number beyond every format. -/
def FNum.roundInt (rm : Rnd) (v : FNum) : Int :=
  match v with
  | .nan => 0
  | .inf neg => signed neg (2 ^ 300)
  | .fin neg m e =>
    if 0 ≤ e then signed neg (m * 2 ^ e.toNat) else signed neg (roundShift rm neg m (-e).toNat)

/-! ## The approximating functions (07 R157, Table 7.11) -/

/-- Floor of the square root, bit by bit from bit n down. -/
def isqrtFrom (v : Nat) : Nat → Nat → Nat
  | 0, r => r
  | n + 1, r =>
    let t := r + 2 ^ n
    isqrtFrom v n (if t * t ≤ v then t else r)

/-- The 24 leading bits of m · 2^e, rounded down, and their exponent. -/
def top24 (m : Nat) (e : Int) : Nat × Int :=
  let k := bitLen m - 24
  (m / 2 ^ k, e + k)

/-- One of the two neighbours of an inexact result: `q` units of 2^e below it, q + 1 above. -/
def neighbour (neg up : Bool) (q : Nat) (e : Int) : FNum := .fin neg (if up then q + 1 else q) e

def isPow2 (m : Nat) : Bool := m ≠ 0 && m = 2 ^ (bitLen m - 1)

def rcp (x : BitVec 32) : FNum :=
  match fp32.value x.toNat with
  | .nan => .nan
  | .inf s => .fin s 0 0
  | .fin s m e =>
    if m = 0 then .inf s
    else if isPow2 m then .fin s 1 (-(e + bitLen m - 1))
    else
      let k := bitLen m + 23
      neighbour s (Config.rcpRoundsUp x) (2 ^ k / m) (-e - k)

def rsq (x : BitVec 32) : FNum :=
  match fp32.value x.toNat with
  | .nan => .nan
  | .inf s => if s then .nan else .fin false 0 0
  | .fin s m e =>
    if m = 0 then .inf s
    else if s then .nan
    else
      let odd := e % 2 ≠ 0
      let m := if odd then 2 * m else m
      let e := if odd then e - 1 else e
      if isPow2 m && (bitLen m - 1) % 2 = 0 then .fin false 1 (-(e + (bitLen m - 1 : Nat)) / 2)
      else
        let k := 24 + bitLen m
        let t := top24 (isqrtFrom (4 ^ k / m) 48 0) (-e / 2 - k)
        neighbour false (Config.rsqRoundsUp x) t.1 t.2

/-! Reference values of exp2, log2, sin and cos in fixed point with 96 fraction bits; their own error is below 2^-60. -/

def fixOne : Int := 2 ^ 96
def fixMul (a b : Int) : Int := a * b / 2 ^ 96

/-- ln 2 and 2π in fixed point. -/
def fixLn2 : Int := 0xB17217F7D1CF79ABC9E3B398
def fixTwoPi : Int := 0x6487ED5110B4611A62633145C

/-- Σ z^k / k! over n terms from the term t = z^k / k!. -/
def expTerms (z : Int) : Nat → Nat → Int → Int
  | 0, _, _ => 0
  | n + 1, k, t => t + expTerms z n (k + 1) (fixMul t z / ((k : Int) + 1))

/-- Σ (-1)^i t_i, each term the one before it times z² / ((k+1)(k+2)). -/
def altTerms (z2 : Int) : Nat → Nat → Int → Int
  | 0, _, _ => 0
  | n + 1, k, t => t - altTerms z2 n (k + 2) (fixMul t z2 / (((k : Int) + 1) * (k + 2)))

/-- Binary digits of log2 of a fixed-point number in [1, 2). -/
def logDigits : Nat → Int → Int
  | 0, _ => 0
  | n + 1, y =>
    let y2 := fixMul y y
    if 2 * fixOne ≤ y2 then 2 ^ n + logDigits n (y2 / 2) else logDigits n y2

/-- m · 2^e in fixed point, rounded down. -/
def toFix (neg : Bool) (m : Nat) (e : Int) : Int :=
  let k := e + 96
  if 0 ≤ k then signed neg (m * 2 ^ k.toNat) else signed neg m / 2 ^ (-k).toNat

/-- A value within 2 ulp: the reference rounded down to 24 bits, moved by -1, 0, 1 or 2 of its own units, also below a power of two, which is
a fixed function of x (log 6). -/
def near2 (neg : Bool) (pick : BitVec 32) (m : Nat) (e : Int) : FNum :=
  let t := top24 m e
  .fin neg (t.1 + pick.toNat % 4 - 1) t.2

/-- A value within 2^-22 of the exact result, whose fixed-point reference is off by less than 2^40 units of 2^-96: a fixed function of x
where it lies within the bound, else the reference (log 6). -/
def nearAbs (pick : BitVec 32) (r : Int) : FNum :=
  let own : FNum := .ofInt r (-96)
  match fp32.value pick.toNat with
  | .fin s m e =>
    if e < 32 && decide ((toFix s m e - r).natAbs ≤ 2 ^ 74 - 2 ^ 40) then .fin s m e
    else fp32.value (fp32.round .rne false own)
  | _ => fp32.value (fp32.round .rne false own)

def exp2 (x : BitVec 32) : FNum :=
  match fp32.value x.toNat with
  | .nan => .nan
  | .inf s => if s then .fin false 0 0 else .inf false
  | .fin s m e =>
    if m = 0 then .fin false 1 0
    else if (FNum.fin false 128 0).lt (.fin s m e) || (FNum.fin false 128 0).eq (.fin s m e) then .inf false
    else if (FNum.fin s m e).lt (.fin true 150 0) || (FNum.fin s m e).eq (.fin true 150 0) then .fin false 0 0
    else
      let z := toFix s m e
      let n := z / fixOne
      let f := z % fixOne
      if f = 0 && (0 ≤ e || m % 2 ^ (-e).toNat = 0) then .fin false 1 n
      else near2 false (Config.exp2Approx x) (expTerms (fixMul f fixLn2) 40 0 fixOne).toNat (n - 96)

def log2 (x : BitVec 32) : FNum :=
  match fp32.value x.toNat with
  | .nan => .nan
  | .inf s => if s then .nan else .inf false
  | .fin s m e =>
    if m = 0 then .inf true
    else if s then .nan
    else
      let n : Int := e + bitLen m - 1
      if isPow2 m then .ofInt n 0
      else
        let y : Int := (m * 2 ^ (97 - bitLen m) : Nat)
        let r := n * fixOne + logDigits 80 y * 2 ^ 16
        if -1 ≤ n && n < 1 then nearAbs (Config.log2Approx x) r
        else near2 (decide (r < 0)) (Config.log2Approx x) r.natAbs (-96)

/-- The fraction of x, x - floor x, in 1/2^k of a turn exactly: numerator and k. -/
def turns (s : Bool) (m : Nat) (e : Int) : Int × Nat :=
  if 0 ≤ e then (0, 0) else (signed s m % 2 ^ (-e).toNat, (-e).toNat)

/-- The fraction equals j quarters. -/
def isQuarter (t : Int × Nat) (j : Nat) : Bool := 4 * t.1 = (j : Int) * 2 ^ t.2

def turnsFix (t : Int × Nat) : Int := if t.2 ≤ 96 then t.1 * 2 ^ (96 - t.2) else t.1 / 2 ^ (t.2 - 96)

def sin (x : BitVec 32) : FNum :=
  match fp32.value x.toNat with
  | .nan => .nan
  | .inf _ => .nan
  | .fin s m e =>
    let t := turns s m e
    if m = 0 then .fin s 0 0
    else if isQuarter t 0 || isQuarter t 2 then .fin false 0 0
    else if isQuarter t 1 then .fin false 1 0
    else if isQuarter t 3 then .fin true 1 0
    else
      let z := fixMul (turnsFix t) fixTwoPi
      nearAbs (Config.sinApprox x) (altTerms (fixMul z z) 40 1 z)

def cos (x : BitVec 32) : FNum :=
  match fp32.value x.toNat with
  | .nan => .nan
  | .inf _ => .nan
  | .fin s m e =>
    let t := turns s m e
    if isQuarter t 0 then .fin false 1 0
    else if isQuarter t 2 then .fin true 1 0
    else if isQuarter t 1 || isQuarter t 3 then .fin false 0 0
    else
      let z := fixMul (turnsFix t) fixTwoPi
      nearAbs (Config.cosApprox x) (altTerms (fixMul z z) 40 0 fixOne)

end Sys2Proof.Machine
end

