-- ==== Sys2Proof/Machine/Shape.lean ====
section
/-! DEFINITION. What the spec fixes about an encoding whatever the state: the format codes, the formats an instruction takes
from a prefix, the parts of a modifier word an instruction accepts (02 R28, R34, 05 R92, R93, 07 Tables 7.1, 7.3, 7.5,
08 Table 8.1). -/

namespace Sys2Proof.Machine

/-! ## Format codes (02 R28, Table 2.1) -/

def fmtListed (c : BitVec 5) : Bool :=
  c.toNat < 6 || c = 8#5 || c = 9#5 || c = 10#5 || c = 12#5 || c = 13#5 || c = 14#5

def fmtIsInt (c : BitVec 5) : Bool := c = 8#5 || c = 9#5 || c = 10#5 || c = 12#5 || c = 13#5 || c = 14#5
/-- A float format other than K4. -/
def fmtIsFloat (c : BitVec 5) : Bool := c.toNat < 5

/-- Element width of a listed format. -/
def fmtWidth (c : BitVec 5) : Nat :=
  if c = 0#5 then 32 else if c = 1#5 || c = 2#5 then 16 else if c = 3#5 || c = 4#5 then 8 else if c = 5#5 then 4
  else 8 * 2 ^ (c.extractLsb' 0 2).toNat

def fmtSigned (c : BitVec 5) : Bool := !c.getLsbD 2

/-- Rounding codes that exist (02 Table 2.3). -/
def rndListed (r : BitVec 3) : Bool := r.toNat < 5

/-- The fields of a prefix as `gfmt` holds them (06 Table 6.5). -/
def fmtA (f : BitVec 18) : BitVec 5 := f.extractLsb' 0 5
def fmtB (f : BitVec 18) : BitVec 5 := f.extractLsb' 5 5
def fmtD (f : BitVec 18) : BitVec 5 := f.extractLsb' 10 5
def fmtRnd (f : BitVec 18) : BitVec 3 := f.extractLsb' 15 3

def fmtFieldsOk (f : BitVec 18) : Bool :=
  fmtListed (fmtA f) && fmtListed (fmtB f) && fmtListed (fmtD f) && rndListed (fmtRnd f)

/-- Which prefix formats an instruction takes. -/
inductive Takes where
  | none
  /-- one integer format in the three fields -/
  | ints
  /-- INT32 -/
  | int32
  /-- INT32 or UINT32 -/
  | words
  /-- one float format -/
  | floats
  /-- FP32 -/
  | fp32
  /-- LFCVT: FMTA and FMTD each a float or an integer format -/
  | cvt
  /-- MMA and MLOOP: an accepted pair in FMTA and FMTB, FP32 in FMTD (12 R225) -/
  | matrix
deriving DecidableEq, Repr

def fmtSame (f : BitVec 18) : Bool := fmtA f = fmtB f && fmtA f = fmtD f

/-- 12 R225. -/
def fmtPair (a b : BitVec 5) : Bool :=
  (a = b && (a = 1#5 || a = 2#5 || a = 5#5 || a = 3#5 || a = 4#5 || a = 8#5 || a = 12#5)) ||
  ((a = 3#5 || a = 4#5) && (b = 3#5 || b = 4#5)) || ((a = 8#5 || a = 12#5) && (b = 8#5 || b = 12#5))

/-- 07 Table 7.5, 08 Table 8.1. -/
def Takes.accepts (t : Takes) (f : BitVec 18) : Bool :=
  fmtFieldsOk f &&
  match t with
  | .none => false
  | .ints => fmtSame f && fmtIsInt (fmtA f)
  | .int32 => fmtSame f && fmtA f = 10#5
  | .words => fmtSame f && (fmtA f = 10#5 || fmtA f = 14#5)
  | .floats => fmtSame f && fmtIsFloat (fmtA f)
  | .fp32 => fmtSame f && fmtA f = 0#5
  | .cvt => (fmtIsFloat (fmtA f) || fmtIsInt (fmtA f)) && (fmtIsFloat (fmtD f) || fmtIsInt (fmtD f))
  | .matrix => fmtPair (fmtA f) (fmtB f) && fmtD f = 0#5

/-! ## Modifier words (05 R93) -/

def routeA (m : BitVec 32) : BitVec 8 := m.extractLsb' 0 8
def routeB (m : BitVec 32) : BitVec 8 := m.extractLsb' 8 8
def routeC (m : BitVec 32) : BitVec 8 := m.extractLsb' 16 8
def routeKind (b : BitVec 8) : BitVec 3 := b.extractLsb' 5 3
def routeParam (b : BitVec 8) : BitVec 5 := b.extractLsb' 0 5
/-- SIGN, CLAMP, SAT and SCALE together. -/
def resultFields (m : BitVec 32) : BitVec 7 := m.extractLsb' 24 7

/-- Latency class of a route byte (07 Table 7.1). -/
def routeClass (b : BitVec 8) : Nat :=
  if routeKind b = 0#3 then 0 else if routeKind b = 5#3 then 2 else 1

/-- What an instruction has that a modifier word may act on. -/
structure Shape where
  /-- the number of routable sources: A, then B, then C -/
  srcs  : Nat
  /-- it accepts SCALE, SAT, CLAMP and SIGN -/
  res   : Bool
  takes : Takes
deriving DecidableEq, Repr

def Shape.modOk (sh : Shape) (m : BitVec 32) : Bool :=
  !m.getLsbD 31 && (routeKind (routeA m)).toNat < 6 && (routeKind (routeB m)).toNat < 6 && (routeKind (routeC m)).toNat < 6
    && (1 ≤ sh.srcs || routeA m = 0#8) && (2 ≤ sh.srcs || routeB m = 0#8) && (3 ≤ sh.srcs || routeC m = 0#8)
    && (sh.res || resultFields m = 0#7)

def Shape.mdOk (sh : Shape) (md : Option (BitVec 32)) : Bool :=
  match md with
  | none => true
  | some m => sh.modOk m

/-- Registers of the register-indexed routes. -/
def modRoutes (m : BitVec 32) : List Nat :=
  [routeA m, routeB m, routeC m].filterMap (fun b =>
    if routeKind b = 5#3 then some (routeParam b).toNat else none)

/-- Latency class of an instruction: the highest of its route bytes (07 R145). -/
def modClass (md : Option (BitVec 32)) : Nat :=
  match md with
  | none => 0
  | some m => max (routeClass (routeA m)) (max (routeClass (routeB m)) (routeClass (routeC m)))

/-! ## What a modifier word and a prefix may say (07 Tables 7.3, 7.5) -/

def shArith2 : Shape := { srcs := 2, res := true, takes := .ints }
def shArith1 : Shape := { srcs := 1, res := true, takes := .ints }
def shLogic2 : Shape := { srcs := 2, res := false, takes := .ints }
def shLogic1 : Shape := { srcs := 1, res := false, takes := .ints }
def shBits2 : Shape := { srcs := 2, res := false, takes := .int32 }
def shBits1 : Shape := { srcs := 1, res := false, takes := .int32 }
def shNoRoute : Shape := { srcs := 0, res := false, takes := .ints }
def shIdx : Shape := { srcs := 0, res := false, takes := .int32 }
def shFloat2 : Shape := { srcs := 2, res := true, takes := .floats }
def shFloat1 : Shape := { srcs := 1, res := true, takes := .floats }
def shFloat3 : Shape := { srcs := 3, res := true, takes := .floats }
def shApprox : Shape := { srcs := 1, res := true, takes := .fp32 }
def shFcmp : Shape := { srcs := 2, res := false, takes := .fp32 }
def shCvt : Shape := { srcs := 1, res := true, takes := .cvt }
def shMatch : Shape := { srcs := 1, res := false, takes := .none }
def shSum : Shape := { srcs := 1, res := true, takes := .words }
def shExt : Shape := { srcs := 1, res := false, takes := .words }
def shFsum : Shape := { srcs := 1, res := false, takes := .fp32 }
def shWhile : Shape := { srcs := 2, res := false, takes := .none }
def shBare : Shape := { srcs := 0, res := false, takes := .none }

end Sys2Proof.Machine
end

