-- ==== Sys2Proof/Machine/Operands.lean ====
section
/-! DEFINITION. The operand forms of lane instructions: routes, elements, result modifiers, and how a lane instruction writes
lanes and masks (02 R29-R36, 07 R140-R150, R158, 08 R161-R163, 09 R175-R178). -/

namespace Sys2Proof.Machine

/-! ## Routes (07 R142-R144) -/

/-- The source lane of a route byte for a reading lane, as hardware lanes. -/
def Group.srcLane (g : Group) (sp : Nat) (b : BitVec 8) (l : Nat) : Nat :=
  let n := g.lanesSeen
  let b0 := g.base sp
  let r := l - b0
  let k := (routeParam b).toNat
  let src :=
    if routeKind b = 1#3 then (r + n - k % n) % n
    else if routeKind b = 2#3 then (r + k) % n
    else if routeKind b = 3#3 then k % n
    else if routeKind b = 4#3 then r ^^^ (k % n)
    else if routeKind b = 5#3 then (g.v32 ((routeParam b).setWidth 6) l).toNat % n
    else r
  b0 + src

/-- What a routed source supplies to a reading lane: an exited lane supplies zero. -/
def Group.route (g : Group) (sp : Nat) (r : BitVec 6) (b : BitVec 8) (l : Nat) : Word32 :=
  if b = 0#8 then g.v32 r l
  else
    let j := g.srcLane sp b l
    if bit g.exited j then 0 else g.v32 r j

def mdA (md : Option Word32) : BitVec 8 := routeA (md.getD 0)
def mdB (md : Option Word32) : BitVec 8 := routeB (md.getD 0)
def mdC (md : Option Word32) : BitVec 8 := routeC (md.getD 0)

/-! ## Elements (02 R29, 07 R149) -/

def elem (w : Nat) (x : Word32) (i : Nat) : Nat := x.toNat / 2 ^ (w * i) % 2 ^ w

/-- The elements e 0, e 1, … packed into a lane register. -/
def packElems (w : Nat) (e : Nat → Nat) : Word32 :=
  BitVec.ofNat 32 ((List.range (32 / w)).foldl (fun v i => v + e i % 2 ^ w * 2 ^ (w * i)) 0)

/-- x with element i replaced. -/
def setElem (w : Nat) (x : Word32) (i v : Nat) : Word32 :=
  packElems w (fun j => if j = i then v else elem w x j)

/-- An element read as signed or unsigned. -/
def readInt (w : Nat) (sgn : Bool) (v : Nat) : Int :=
  if sgn && decide (2 ^ (w - 1) ≤ v) then (v : Int) - 2 ^ w else v

/-- The w low bits of an integer. -/
def lowBits (w : Nat) (v : Int) : Nat := (v % 2 ^ w).toNat

/-- The element format in force: the prefix's, else the default. -/
def Ctx.fa (x : Ctx) (dflt : BitVec 5) : BitVec 5 := (x.fmt.map fmtA).getD dflt
def Ctx.fd (x : Ctx) (dflt : BitVec 5) : BitVec 5 := (x.fmt.map fmtD).getD dflt
def Ctx.rnd (x : Ctx) : Rnd := (x.fmt.map (fun f => rndOf (fmtRnd f))).getD .rne

def fcINT32 : BitVec 5 := 10
def fcFP32 : BitVec 5 := 0

/-! ## Result modifiers (07 R147, R148) -/

def mdScale (m : Word32) : Int := (m.extractLsb' 24 3).toInt
def mdSat (m : Word32) : Bool := m.getLsbD 27
def mdClamp (m : Word32) : Bool := m.getLsbD 28
def mdSign (m : Word32) : BitVec 2 := m.extractLsb' 29 2

def applySign (sg : BitVec 2) (v : Int) : Int :=
  if sg = 1#2 then -v else if sg = 2#2 then v.natAbs else if sg = 3#2 then -v.natAbs else v

def intLo (w : Nat) (sgn : Bool) : Int := if sgn then -2 ^ (w - 1) else 0
def intHi (w : Nat) (sgn : Bool) : Int := if sgn then 2 ^ (w - 1) - 1 else 2 ^ w - 1
def clampInt (lo hi v : Int) : Int := min (max v lo) hi

def finishInt (md : Option Word32) (w : Nat) (sgn : Bool) (v : Int) : Nat :=
  let m := md.getD 0
  let s := mdScale m
  let v := if 0 ≤ s then v * 2 ^ s.toNat else v / 2 ^ (-s).toNat
  let v := applySign (mdSign m) v
  let v := if mdSat m then clampInt (intLo w sgn) (intHi w sgn) v else readInt w sgn (lowBits w v)
  let v := if mdClamp m && decide (v < 0) then 0 else v
  lowBits w v

/-- The sign operation on the bits of a float; a NaN is left unchanged. -/
def signOp (f : FloatFmt) (sg : BitVec 2) (y : Nat) : Nat :=
  if (f.value y).isNan then y
  else
    let mag := y % f.signBit
    if sg = 1#2 then (if y / f.signBit % 2 = 1 then mag else mag + f.signBit)
    else if sg = 2#2 then mag
    else if sg = 3#2 then mag + f.signBit
    else y

def satFp (f : FloatFmt) (y : Nat) : Nat :=
  match f.value y with
  | .nan => 0
  | .inf s => f.maxOf s
  | .fin _ _ _ => y

def oneOf (f : FloatFmt) : Nat := f.round .rne false (.fin false 1 0)

def clampFp (f : FloatFmt) (y : Nat) : Nat :=
  let v := f.value y
  let one : FNum := .fin false 1 0
  if v.isNan || !(FNum.fin false 0 0).lt v then 0 else if one.lt v then oneOf f else y

def finishFp (md : Option Word32) (f : FloatFmt) (rm : Rnd) (r : FNum) : Nat :=
  let m := md.getD 0
  let y := f.round rm (mdSat m) (r.scale (mdScale m))
  let y := signOp f (mdSign m) y
  let y := if mdSat m then satFp f y else y
  if mdClamp m then clampFp f y else y

/-! ## Issue of a lane instruction (06 R124, 07 R145, R150) -/

/-- Issue occupancy of a lane instruction. -/
def laneCycles (g : Group) (md : Option Word32) : Nat := (if g.lw16 then 4 else 8) + modClass md

def laneReq (sh : Shape) (md : Option Word32) (vs : List (BitVec 6)) (x : Ctx) (s : State) : Req :=
  { vs := vs.map BitVec.toNat
    dev := true
    takes := sh.takes ≠ .none
    fmtOk := (x.fmt.map sh.takes.accepts).getD true
    md := md
    mdOk := sh.mdOk md
    routes := modRoutes (md.getD 0)
    cycles := laneCycles (s.grp x) md }

/-- Writes a lane register in every active lane, each value from the registers before the instruction (R140, R141). -/
def Group.writeLanes (g : Group) (sp : Nat) (vd : BitVec 6) (f : Nat → Word32) : Group :=
  (g.active sp).foldl (fun h l => h.setV vd l (f l)) g

/-- Writes the bits of a mask for the active lanes (07 R153). -/
def Group.writeMaskLanes (g : Group) (sp : Nat) (k : BitVec 3) (p : Nat → Bool) : Group :=
  let m0 := (g.split sp).m0
  let res := maskOf (fun l => bit m0 l && p l)
  g.setRawMask sp k ((g.rawMask sp k &&& ~~~m0) ||| res)

/-- A lane instruction that writes one lane register. -/
def laneOp (w : Word32) (sh : Shape) (md : Option Word32) (vs : List (BitVec 6)) (vd : BitVec 6)
    (f : Ctx → Group → Nat → Word32) (s : State) : Result :=
  issue w (laneReq sh md (vd :: vs))
    (fun x s =>
      let g := s.grp x
      .next (s.setGrp x (g.writeLanes x.sp vd (f x g)))) s

/-- The same with a uniform source, read once. -/
def laneOpX (w : Word32) (sh : Shape) (md : Option Word32) (vs : List (BitVec 6)) (vd : BitVec 6) (xs : BitVec 5)
    (f : Ctx → Group → Word32 → Nat → Word32) (s : State) : Result :=
  issue w (fun x s => { laneReq sh md (vd :: vs) x s with xs := [xs] })
    (fun x s =>
      let g := s.grp x
      let u := (g.x x.sp xs).setWidth 32
      .next (s.setGrp x (g.writeLanes x.sp vd (f x g u)))) s

/-- A lane instruction that writes a mask for the active lanes. -/
def laneCmp (w : Word32) (sh : Shape) (md : Option Word32) (vs : List (BitVec 6)) (xs : List (BitVec 5)) (k : BitVec 3)
    (p : Ctx → Group → Nat → Bool) (s : State) : Result :=
  issue w (fun x s => { laneReq sh md vs x s with xs := xs })
    (fun x s =>
      let g := s.grp x
      .next (s.setGrp x (g.writeMaskLanes x.sp k (p x g)))) s

/-! ## Element-wise integer operations (07 Tables 7.6, 7.8) -/

/-- f on every element of two lane values, in the integer format of the prefix. -/
def intElems (x : Ctx) (f : Nat → Bool → Nat → Nat → Nat) (a b : Word32) : Word32 :=
  let fc := x.fa fcINT32
  let w := fmtWidth fc
  packElems w (fun i => f w (fmtSigned fc) (elem w a i) (elem w b i))

/-- An operation on integers that passes through finish_int. -/
def arith (md : Option Word32) (f : Int → Int → Int) (w : Nat) (sgn : Bool) (a b : Nat) : Nat :=
  finishInt md w sgn (f (readInt w sgn a) (readInt w sgn b))

def elMulHigh (sgn : Bool) (w : Nat) (_ : Bool) (a b : Nat) : Nat :=
  lowBits w (readInt w sgn a * readInt w sgn b / 2 ^ w)
def pickMin (sgn : Bool) (w : Nat) (_ : Bool) (a b : Nat) : Nat := if readInt w sgn b < readInt w sgn a then b else a
def pickMax (sgn : Bool) (w : Nat) (_ : Bool) (a b : Nat) : Nat := if readInt w sgn a < readInt w sgn b then b else a
def elAnd (_ : Nat) (_ : Bool) (a b : Nat) : Nat := a &&& b
def elOr (_ : Nat) (_ : Bool) (a b : Nat) : Nat := a ||| b
def elXor (_ : Nat) (_ : Bool) (a b : Nat) : Nat := a ^^^ b
def elAndn (w : Nat) (_ : Bool) (a b : Nat) : Nat := a &&& (2 ^ w - 1 - b)
def elSll (w : Nat) (_ : Bool) (a b : Nat) : Nat := a * 2 ^ (b % w) % 2 ^ w
def elSrl (w : Nat) (_ : Bool) (a b : Nat) : Nat := a / 2 ^ (b % w)
def elSra (w : Nat) (_ : Bool) (a b : Nat) : Nat := lowBits w (readInt w true a / 2 ^ (b % w))
def elRight (_ : Nat) (_ : Bool) (_ b : Nat) : Nat := b

/-- Leading zero bits of an element of width w. -/
def elClz (w : Nat) (a : Nat) : Nat := w - bitLen a
def elCtz (w : Nat) (a : Nat) : Nat := (firstFrom (fun i => a.testBit i) 0 w).getD w
def elPopc (w : Nat) (a : Nat) : Nat := ((List.range w).filter (fun i => a.testBit i)).length

/-! ## Element-wise float operations (07 R156, R160) -/

/-- An operation on exact values, through finish_fp, on every element. -/
def floatElems (x : Ctx) (md : Option Word32) (f : Rnd → FNum → FNum → FNum) (a b : Word32) : Word32 :=
  let t := floatOf (x.fa fcFP32)
  packElems t.width (fun i =>
    finishFp md t x.rnd (f x.rnd (t.value (elem t.width a i)) (t.value (elem t.width b i))))

def floatElems3 (x : Ctx) (md : Option Word32) (f : Rnd → FNum → FNum → FNum → FNum) (a b c : Word32) : Word32 :=
  let t := floatOf (x.fa fcFP32)
  packElems t.width (fun i =>
    finishFp md t x.rnd
      (f x.rnd (t.value (elem t.width a i)) (t.value (elem t.width b i)) (t.value (elem t.width c i))))

/-- An approximating function: FP32, and the finish rounds to nearest even (07 R157). -/
def approx (md : Option Word32) (f : Word32 → FNum) (a : Word32) : Word32 :=
  BitVec.ofNat 32 (finishFp md fp32 .rne (f a))

/-! ## LFCVT (07 R158) -/

/-- The value of an element in a float or an integer format. -/
def valueIn (fc : BitVec 5) (v : Nat) : FNum :=
  if fmtIsInt fc then .ofInt (readInt (fmtWidth fc) (fmtSigned fc) v) 0 else (floatOf fc).value v

def convert (md : Option Word32) (fa fd : BitVec 5) (rm : Rnd) (v : Nat) : Nat :=
  let r := valueIn fa v
  if fmtIsInt fd then
    let m := md.getD 0
    let w := fmtWidth fd
    let sgn := fmtSigned fd
    let v := if r.isNan then 0 else (r.scale (mdScale m)).roundInt rm
    let v := clampInt (intLo w sgn) (intHi w sgn) (applySign (mdSign m) v)
    lowBits w (if mdClamp m && decide (v < 0) then 0 else v)
  else finishFp md (floatOf fd) rm r

/-- ESEL breaks no constraint of the entry. -/
def eselOk (wa wd esel : Nat) : Bool :=
  let m := 32 / max wa wd
  esel % m = 0 &&
    (if wa = wd then esel = 0
     else if wa < wd then decide (esel + m ≤ 32 / wa)
     else decide (esel + m ≤ 32 / wd))

def convertLane (md : Option Word32) (fa fd : BitVec 5) (rm : Rnd) (esel : Nat) (a d : Word32) : Word32 :=
  let wa := fmtWidth fa
  let wd := fmtWidth fd
  let m := 32 / max wa wd
  (List.range m).foldl (fun d i =>
    if wa ≤ wd then setElem wd d i (convert md fa fd rm (elem wa a (esel + i)))
    else setElem wd d (esel + i) (convert md fa fd rm (elem wa a i))) d

/-! ## Combining the active lanes (08 R163-R169) -/

/-- The lane-mask value of a set of hardware lanes, as the split sees it. -/
def Group.laneMask (g : Group) (sp : Nat) (p : Nat → Bool) : Word32 := g.view sp (maskOf p)

/-- One step of a float sum: R156 with FP32 and no modifier. -/
def addFp32 (rm : Rnd) (a b : Word32) : Word32 :=
  BitVec.ofNat 32 (finishFp none fp32 rm (FNum.add rm (fp32.value a.toNat) (fp32.value b.toNat)))

/-- A value taken unchanged, but a NaN becomes the canonical NaN (02 R33). -/
def canonFp32 (a : Word32) : Word32 := if (fp32.value a.toNat).isNan then 0x7FC00000 else a

/-- The ascending float prefix sums of a list. -/
def scanFp32 (rm : Rnd) : List Word32 → List Word32
  | [] => []
  | a :: r => (r.foldl (fun acc b => (addFp32 rm acc.1 b, acc.2 ++ [addFp32 rm acc.1 b])) (a, [canonFp32 a])).2

/-- The value paired with a lane in a list. -/
def lookupLane (ps : List (Nat × Word32)) (l : Nat) : Word32 := ((ps.find? (fun p => p.1 = l)).map Prod.snd).getD 0

end Sys2Proof.Machine
end

