-- ==== Sys2Proof/Machine/MemOps.lean ====
section
/-! DEFINITION. Outstanding memory accesses of a core: where an access goes, the order in which accesses may be performed, and
what performing one does (06 R125, 10 R184-R207, 13 R256-R264). The store queue of a group is the order of its operations
(log 5). -/

namespace Sys2Proof.Machine

/-! ## Where an access goes -/

inductive Target where
  | place (pl : Place) (attr : BitVec 2)
  | scratch (byte : Nat)
  | weight (byte : Nat)
  | lease
  /-- a protection violation, with the cause of its notification where the spec names one -/
  | violation (cause : Option Nat)
deriving DecidableEq, Repr

def AccWhat.writes : AccWhat → Bool
  | .read => false
  | _ => true

/-- The place of a virtual address, whatever its permissions. -/
def State.anyPlace (s : State) (asid : BitVec 16) (va : Word64) : Option Place :=
  match s.translate asid va .read .m false false with
  | .ok pl _ => some pl
  | _ => none

/-- The key of a line in a core's hart data cache. -/
def dcacheKey (c : Nat) (asid : BitVec 16) (va : Word64) : Nat := (c * 2 ^ 16 + asid.toNat) * 2 ^ 58 + va.toNat / 64

/-- The HBM address that a hart access finds in the data cache of its core (10 R191), in a line whose leaf allows the access. -/
def State.cachedAt (s : State) (c : Nat) (asid : BitVec 16) (va : Word64) (k : Kind) (md : Mode) (sum mxr : Bool) : Option Nat :=
  match Map.find s.dcache (dcacheKey c asid va) with
  | some l => if leafAllows l.2.1 k md sum mxr then some (l.1 + va.toNat % 64) else none
  | none => none

/-- Where a checked access of a U-mode hart goes: to a line of its data cache, which needs no walk, or to its home (10 R191, R192). -/
def State.hartU (s : State) (c : Nat) (asid : BitVec 16) (va : Word64) (k : Kind) (mxr : Bool) : Option (Place × BitVec 2) :=
  match s.cachedAt c asid va k .u false mxr with
  | some a => if s.leased asid va (k = .write) then some (.hbm a, 0) else none
  | none => s.checkU asid va (k = .write) mxr

/-- The hart data cache takes a line of a page whose ATTR lets it, by the leaf that the home has for it; a line that a store writes is
newer than the L2 from then on (10 R191, R192). -/
def State.hartHold (s : State) (c : Nat) (asid : BitVec 16) (va : Word64) (pl : Place) (dirty : Bool) : State :=
  match pl with
  | .hbm a =>
    let key := dcacheKey c asid va
    match Map.find s.dcache key, s.leaf asid va with
    | some l, _ => { s with dcache := Map.put s.dcache key (l.1, l.2.1, l.2.2 || dirty) }
    | none, some e =>
      if pteAttr e.1 = 0 then { s with dcache := Map.put s.dcache key (a - va.toNat % 64, e.1, dirty) } else s
    | none, none => s
  | _ => s

def State.target (s : State) (c : Nat) (o : Op) (a : Acc) : Target :=
  if a.space = 0 then
    match a.place with
    | some (pl, attr) => .place pl attr
    | none =>
      match (if o.hart then s.hartU c o.asid a.addr (if a.what.writes then .write else .read) o.mxr
             else s.checkU o.asid a.addr a.what.writes o.mxr) with
      | some (pl, attr) => .place pl attr
      | none => .lease
  else if a.space = 1 then
    match (s.unit o.unit).localByte a.addr.toNat, (s.unit o.unit).localByte (a.addr.toNat + a.size - 1) with
    | some b, some _ => .scratch b
    | _, _ => .violation none
  else if a.what.writes then .violation (some 32)
  else
    let j := (s.unit o.unit).job
    match s.weightByte j (dieOf c) a.addr.toNat, s.weightByte j (dieOf c) (a.addr.toNat + a.size - 1) with
    | some b, some _ => .weight b
    | _, _ => .violation none

/-- An access that is a protection violation, with the cause of its notification (03 Table 3.3). -/
def State.offLimits (s : State) (c : Nat) (o : Op) (a : Acc) : Option (Option Nat) :=
  match s.target c o a with
  | .violation cause => some cause
  | _ => none

/-- Where the numbers of scratchpad bytes begin, above those of every place. -/
def localBase : Nat := 2 ^ 200

/-- One numbering of the bytes of every memory, to see overlaps: two names of one byte have one number. -/
def State.accKey (s : State) (o : Op) (a : Acc) : Option Nat :=
  if a.space = 0 then
    match a.place with
    | some (pl, _) => some pl.key
    | none => (s.anyPlace o.asid a.addr).map Place.key
  else if a.space = 1 then ((s.unit o.unit).localByte a.addr.toNat).map (localBase + ·)
  else none

def overlaps (a : Option Nat) (n : Nat) (b : Option Nat) (m : Nat) : Bool :=
  match a, b with
  | some x, some y => decide (x < y + m) && decide (y < x + n)
  | _, _ => false

/-! ## Order -/

/-- The operations of a group issued before an operation. -/
def Core.before (k : Core) (o : Op) : List Op := (k.ops.takeWhile (fun p => p.id ≠ o.id)).filter (fun p => p.slot = o.slot)

def sharesSplit (a b : BitVec 4) : Bool := a &&& b ≠ 0

def AccWhat.isWrite : AccWhat → Bool
  | .write _ => true
  | _ => false

/-- The scratchpad of core c holds the byte with this key. -/
def ownKey (c : Nat) (key : Option Nat) : Bool := key.any (fun k => localBase + c * 32768 ≤ k && k < localBase + (c + 1) * 32768)

/-- The bytes of a place of a core's local space, of the HBM, or of neither, by their ordering point: the core's own scratchpad,
which its groups see in one order (13 R262); a bank of another core's; the home of an HBM page; no point that orders two writes
for a peer or host page (13 Table 13.2, R261). -/
def pointOf (c key : Nat) : Option Nat :=
  if localBase ≤ key then
    let b := key - localBase
    some (if b / 32768 = c then 8 else 9 + b / 32768 * 32 + b / 4 % 32)
  else if key < 2 ^ 62 then some (key / 2 ^ 38) else none

/-- The ordering points of the n bytes at a key: an access of 8 or 16 bytes has words in several banks (10 R198). -/
def pointsOf (c : Nat) (key : Option Nat) (n : Nat) : List Nat :=
  match key with
  | none => []
  | some k => (List.range ((n + 3) / 4)).filterMap (fun i => pointOf c (k + 4 * i))

def sharePoint (c : Nat) (a : Option Nat) (n : Nat) (b : Option Nat) (m : Nat) : Bool :=
  (pointsOf c a n).any (fun p => (pointsOf c b m).contains p)

/-- An earlier access of its own split keeps a read waiting: an acquire; a read, read-modify-write or discard of the same bytes; in
the core's own scratchpad any read (13 R258, R262, R263). Stores are seen by `State.queuedStore`. -/
def State.holdsBack (s : State) (c : Nat) (p : Op) (who : BitVec 4) (key : Option Nat) (n : Nat) : Bool :=
  sharesSplit p.agent who && p.accs.any (fun a => !a.done && (p.acq ||
    (!a.what.isWrite && (overlaps (s.accKey p a) a.size key n || (ownKey c key && ownKey c (s.accKey p a))))))

/-- The youngest store of the split's own to the bytes of a read that is still in the store queue: its key and its bytes. -/
def State.queuedStore (s : State) (ps : List Op) (who : BitVec 4) (key : Option Nat) (n : Nat) : Option (Nat × List Byte) :=
  (ps.flatMap (fun p => if sharesSplit p.agent who then p.accs.filterMap (fun a =>
    match a.what, a.done, s.accKey p a with
    | .write d, false, some j => if overlaps (some j) a.size key n then some (j, d) else none
    | _, _, _ => none) else [])).getLast?

/-- The bytes of a read that a queued store of its own split holds whole. -/
def wholeOf (q : Nat × List Byte) (key n : Nat) : Option (List Byte) :=
  if q.1 ≤ key && key + n ≤ q.1 + q.2.length then some ((q.2.drop (key - q.1)).take n) else none

/-- What a read of the core's own scratchpad takes from the store queue, all its bytes from one store (13 R256, R262). -/
def State.forwarded (s : State) (c : Nat) (ps : List Op) (who : BitVec 4) (key : Option Nat) (n : Nat) : Option (List Byte) :=
  match key, s.queuedStore ps who key n with
  | some k, some q => if ownKey c key then wholeOf q k n else none
  | _, _ => none

/-- A read waits: for an earlier access of its split, or until a store of its split is performed that it cannot be forwarded from. -/
def State.readBlocked (s : State) (c : Nat) (ps : List Op) (who : BitVec 4) (key : Option Nat) (n : Nat) : Bool :=
  ps.any (fun p => s.holdsBack c p who key n) ||
    ((s.queuedStore ps who key n).isSome && (s.forwarded c ps who key n).isNone)

/-- A load of the split from its core's own scratchpad, or of these bytes, has not been performed: a read of n bytes of a scratchpad waits
for it (13 R258, R262). -/
def State.ownReads (s : State) (x : Ctx) (byte n : Nat) : Bool :=
  (s.core x.c).ops.any (fun p => p.slot = x.sl && s.holdsBack x.c p (splitBit x.sp) (some (localBase + byte)) n)

/-- The bytes of an undone store over the bytes read at a key. -/
def overlayOne (bytes : List Byte) (key : Nat) (at_ : Nat) (d : List Byte) : List Byte :=
  (List.range bytes.length).map (fun i =>
    if at_ ≤ key + i && key + i < at_ + d.length then d.getD (key + i - at_) 0 else bytes.getD i 0)

/-- An earlier operation keeps a write of n bytes at a key waiting: one of its own splits, if a release stands between them, if
it reads (13 R260), or if it writes at the same ordering point or to the same bytes (13 R258, R261); any of the group, if both
are writes to the core's own scratchpad, whose order is the store queue's (13 R262). -/
def State.orders (s : State) (c : Nat) (p o : Op) (key : Option Nat) (n : Nat) : Bool :=
  p.accs.any (fun a => !a.done &&
    ((sharesSplit p.agent o.agent && (decide (p.id < o.behind) || !a.what.isWrite ||
        overlaps (s.accKey p a) a.size key n || sharePoint c (s.accKey p a) a.size key n)) ||
      (a.what.writes && ownKey c key && ownKey c (s.accKey p a))))

/-- A DEPDEC that a split of the operation issued before it has not returned its value (13 R260, R264). -/
def State.owesDep (s : State) (c : Nat) (o : Op) : Bool :=
  match s.group c o.slot with
  | none => false
  | some g => g.splits.any (fun e => hasBit4 o.agent e.1 && e.2.pend.any (fun q => decide (q.id < o.id) &&
      s.flights.any (fun f => f.id = q.id && match f.what with
        | .depdec _ _ => true
        | _ => false)))

/-- A write or read-modify-write of an operation may be performed, after `ps`: nothing earlier keeps it waiting, and the
operation's own lower lanes are done (13 R260-R263). -/
def State.mayWrite (s : State) (c : Nat) (ps : List Op) (o : Op) (idx : Nat) : Bool :=
  match o.accs[idx]? with
  | none => false
  | some a => ps.all (fun p => !s.orders c p o (s.accKey o a) a.size) && (o.accs.take idx).all (fun b => b.done) && !s.owesDep c o

/-! ## Reads -/

def State.readScratch (s : State) (b n : Nat) : List Byte := s.scratch.bytes b n
def State.readWeight (s : State) (b n : Nat) : List Byte := s.weight.bytes b n

/-- The flock L1 line of a virtual address. -/
def State.l1Line (s : State) (c : Nat) (asid : BitVec 16) (va : Word64) : Option (List Byte) :=
  (Map.find s.l1 (tagKey (flockOf c) asid va)).map Prod.snd

/-- The line of memory that a place lies in. -/
def Place.line (pl : Place) : Nat := pl.key / 64

/-- What a flock's L1 holds of a line of memory under other names than a key goes: no later read under one of them may be older than what
is read or written under this one (13 R258, R259, log 34). -/
def State.dropAliases (s : State) (c key : Nat) (pl : Place) : State :=
  { s with l1 := s.l1.filter (fun e => !(inFlock (flockOf c) e.1 && e.1 ≠ key && e.2.1 = pl.line)) }

/-- A weak read: a line present in the flock L1 is served; else the home answers, and `fill` says whether the line is
allocated, where attribute and hint let it (10 R191, R192, 13 R257, R259). With `fill` false a present line has been evicted. -/
def State.weakRead (s : State) (c : Nat) (o : Op) (a : Acc) (pl : Place) (fill : Bool) : State × List Byte :=
  let key := tagKey (flockOf c) o.asid a.addr
  let off := a.addr.toNat % 64
  match s.l1Line c o.asid a.addr, fill with
  | some line, true => (s, (line.drop off).take a.size)
  | _, _ =>
    let s := ({ s with l1 := Map.del s.l1 key }).dropAliases c key pl
    let home : Place := match pl with
      | .hbm p => .hbm (p - off)
      | .peer d p => .peer d (p - off)
      | .host p => .host (p - off)
    let s := if fill && o.hint ≠ 2 then s.fillL1 (flockOf c) key pl.line (s.readPlace home 64) else s
    (s, s.readPlace pl a.size)

/-! ## Read-modify-writes (10 R206) -/

/-- The value a lane atomic writes; none where a comparison fails. -/
def latomNew (op : BitVec 3) (old b c : Word32) : Option Word32 :=
  if op = 0 then some b
  else if op = 1 then some (old + b)
  else if op = 2 then some (old &&& b)
  else if op = 3 then some (old ||| b)
  else if op = 4 then some (old ^^^ b)
  else if op = 5 then some (if old.slt b then old else b)
  else if op = 6 then some (if old.slt b then b else old)
  else if old = b then some c else none

/-- Writes bytes to where an access goes; a lane store updates a present line of its flock's L1, an atomic drops it; a hart store makes
the line of its core's data cache newer than the L2. -/
def State.writeTo (s : State) (c : Nat) (o : Op) (a : Acc) (t : Target) (d : List Byte) (update : Bool) : State :=
  match t with
  | .place pl _ =>
    let s := s.writePlace pl d
    if o.hart then s.hartHold c o.asid a.addr pl true
    else
      let key := tagKey (flockOf c) o.asid a.addr
      let s := s.dropAliases c key pl
      match s.l1Line c o.asid a.addr with
      | none => s
      | some line =>
        if update then { s with l1 := Map.put s.l1 key (pl.line, overlayOne line (a.addr.toNat / 64 * 64) a.addr.toNat d) }
        else { s with l1 := Map.del s.l1 key }
  | .scratch b => { s with scratch := s.scratch.setBytes b d }
  | _ => s

def State.readFrom (s : State) (t : Target) (n : Nat) : List Byte :=
  match t with
  | .place pl _ => s.readPlace pl n
  | .scratch b => s.readScratch b n
  | .weight b => s.readWeight b n
  | _ => []

/-! ## Performing one access -/

def setAcc (l : List Acc) (i : Nat) (a : Acc) : List Acc := l.set i a

/-- The operation with access i replaced. -/
def State.putAcc (s : State) (c : Nat) (o : Op) (i : Nat) (a : Acc) : State :=
  let k := s.core c
  s.setCore c { k with ops := k.ops.map (fun p => if p.id = o.id then { p with accs := setAcc p.accs i a } else p) }

def leWord (d : List Byte) : Word64 := BitVec.ofNat 64 (leValue d)

/-- An access that may not be performed: its unit ends or its group freezes, and the access is gone. -/
def State.denied (s : State) (c : Nat) (o : Op) (i : Nat) (a : Acc) (t : Target) : State :=
  let s := s.putAcc c o i { a with done := true, wrote := true }
  match t with
  | .lease => if (s.unit o.unit).ended then s else s.leaseEnd o.unit c o.slot a.addr
  | .violation cause => s.freezeGroup c o.slot cause a.addr
  | _ => s

/-- Performs access i of an operation, if its order lets it; a weight read waits for its refresh window to end. -/
def State.perform (s : State) (c : Nat) (o : Op) (i : Nat) (fill : Bool) : State :=
  match o.accs[i]? with
  | none => s
  | some a =>
    if a.done then s
    else
      let k := s.core c
      let t := s.target c o a
      let key := s.accKey o a
      match t with
      | .lease => s.denied c o i a t
      | .violation _ => s.denied c o i a t
      | _ =>
        match a.what with
        | .read =>
          let ps := k.before o
          if s.readBlocked c ps o.agent key a.size then s
          else
            let r : Option (State × List Byte) := match s.forwarded c ps o.agent key a.size, t with
              | some d, _ => some (s, d)
              | none, .place pl attr =>
                some (if o.hart then (s.hartHold c o.asid a.addr pl false, s.readPlace pl a.size)
                  else if attr = 0 then s.weakRead c o a pl fill else (s, s.readPlace pl a.size))
              | none, .weight b => if s.refreshing b then none else some (s, s.readWeight b a.size)
              | none, t => some (s, s.readFrom t a.size)
            match r with
            | none => s
            | some (s, d) => s.putAcc c o i { a with done := true, val := some (leWord d) }
        | .write d =>
          if s.mayWrite c (k.before o) o i then (s.writeTo c o a t d true).putAcc c o i { a with done := true } else s
        | .atom op b cmp =>
          if s.mayWrite c (k.before o) o i then
            let old : Word32 := BitVec.ofNat 32 (leValue (s.readFrom t 4))
            let s := match latomNew op old b cmp with
              | some v => s.writeTo c o a t (leBytes v.toNat 4) false
              | none => match t with
                | .place pl _ => s.touchPlace pl
                | _ => s
            let s := if o.acq then s.dropL1 c o.asid else s
            s.putAcc c o i { a with done := true, val := some (old.setWidth 64) }
          else s
        | .discard =>
          if s.mayWrite c (k.before o) o i then
            match t with
            | .place pl _ =>
              let lo := tagKey (flockOf c) o.asid a.addr
              let s := { s.discardPlace pl with l1 := s.l1.filter (fun e =>
                (e.1 < lo || lo + 64 ≤ e.1) && !(inFlock (flockOf c) e.1 && e.2.1 / 64 = pl.line / 64)) }
              s.putAcc c o i { a with done := true }
            | _ => s
          else s

/-- Drops an operation that nothing counts any more. -/
def State.reapOp (s : State) (c id : Nat) : State :=
  let k := s.core c
  s.setCore c { k with ops := k.ops.filter (fun o => !(o.id = id && !o.load && !o.store && o.into.isNone)) }

def Core.op (k : Core) (id : Nat) : Option Op := k.ops.find? (fun o => o.id = id)

def State.putOp (s : State) (c : Nat) (o : Op) : State :=
  let k := s.core c
  s.setCore c { k with ops := k.ops.map (fun p => if p.id = o.id then o else p) }

/-- Writes a returned value into its lane: of a pair, the elements that `part` names (05 R105). -/
def State.landPart (s : State) (c : Nat) (o : Op) (a : Acc) (part : BitVec 2) : State :=
  match s.group c o.slot, a.val with
  | some g, some v =>
    if o.who = 0 then s else
    let g := if part.getLsbD 0 then g.setV o.vd a.lane (v.setWidth 32) else g
    let g := if a.size = 8 && part.getLsbD 1 then g.setV (o.vd + 1) a.lane ((v >>> 32).setWidth 32) else g
    s.setGroup c o.slot g
  | _, _ => s

/-- Writes what has not been written of a returned value. -/
def State.landLane (s : State) (c : Nat) (o : Op) (a : Acc) : State := s.landPart c o a (~~~a.part)

/-- The access after the elements that `part` names have been written. -/
def Acc.landed (a : Acc) (part : BitVec 2) : Acc :=
  let p := a.part ||| part
  { a with part := p, wrote := if a.size = 8 then p = 3 else true }

/-- The low n bytes of a doubleword, sign-extended or zero-extended. -/
def extendTo (n : Nat) (sx : Bool) (v : Word64) : Word64 :=
  if n = 1 then (if sx then (v.setWidth 8).signExtend 64 else (v.setWidth 8).setWidth 64)
  else if n = 2 then (if sx then (v.setWidth 16).signExtend 64 else (v.setWidth 16).setWidth 64)
  else if n = 4 then (if sx then (v.setWidth 32).signExtend 64 else (v.setWidth 32).setWidth 64)
  else v

/-- The split that waits for a result, and what it waits for. -/
def Group.findPend (g : Group) (ok : Pend → Bool) : Option (Nat × Split × Pend) :=
  g.splits.findSome? (fun e => (e.2.pend.find? ok).map (fun q => (e.1, e.2, q)))

/-- A result is written to the register that waits for it, and the register is free. -/
def State.landResult (s : State) (c sl : Nat) (g : Group) (w : Nat × Split × Pend) (v : Word64) : State :=
  s.setGroup c sl ((g.setSplit w.1 { w.2.1 with pend := w.2.1.pend.erase w.2.2 }).setX w.2.2.bank w.2.2.rd v)

/-- A result returns. -/
def State.landPend (s : State) (c sl id : Nat) (v : Word64) : State :=
  match s.group c sl with
  | none => s
  | some g =>
    match g.findPend (fun q => q.id = id) with
    | none => s
    | some w => s.landResult c sl g w v

/-- A hart load that has been performed writes its register (log 5). -/
def State.landHart (s : State) (c : Nat) (o : Op) : State :=
  match o.into, o.accs with
  | some (n, sx), [a] =>
    if a.done then
      let t := s.landPend c o.slot o.id (extendTo n sx (a.val.getD 0))
      (t.putOp c { o with into := none }).reapOp c o.id
    else s
  | _, _ => s

/-! ## Issue of an operation -/

def sumBit (g : Group) : Bool := statusBit g.csr.sstatus 18
def mxrBit (g : Group) : Bool := statusBit g.csr.sstatus 19

/-- The counters leave room for one more operation (06 R125). -/
def State.roomFor (s : State) (x : Ctx) (load store : Bool) : Bool :=
  let k := s.core x.c
  (!load || decide (k.loadCount x.sl x.sp < 255)) && (!store || decide (k.storeCount x.sl x.sp < 255))

def State.opOf (s : State) (x : Ctx) : Op :=
  let g := s.grp x
  { id := 0, slot := x.sl, who := splitBit x.sp, mode := (g.split x.sp).mode, asid := g.asid, unit := g.unit
    behind := (g.split x.sp).rel, mxr := mxrBit g }

/-- Enters an operation into the core's list; one without accesses is complete at once. -/
def State.enter (s : State) (x : Ctx) (o : Op) : State := if o.accs.isEmpty then s else s.addOp x.c o

end Sys2Proof.Machine
end

