-- ==== Sys2Proof/Machine/Flags.lean ====
section
/-! DEFINITION. The status and control registers by number: what a read gives and what a write changes (06 R112-R121,
16 R316, R320, R323, R326, 17 Table 17.1). The hart has no arithmetic flags (02 R32); its flags are those of `gstat`. -/

namespace Sys2Proof.Machine

/-- Writable S bits of the status register: SIE, SPIE, SPP, SUM, MXR; and the M bits. UXL and SXL read 2. -/
def sMask : Word64 := 0x00000000000C0122
def mMask : Word64 := 0x0000000000721888
def uxl : Word64 := 0x0000000200000000
def sxl : Word64 := 0x0000000800000000
/-- Interrupt bits: supervisor 1, 5, 9, 16; machine 3, 7, 11. -/
def sIrqs : Word64 := 0x10222
def mIrqs : Word64 := 0x888
/-- Causes that can be delegated: those of 16 Table 16.1 but environment calls from M. -/
def delegable : Word64 := 0x00000001FF00B3FF

def merge64 (old v mask : Word64) : Word64 := (old &&& ~~~mask) ||| (v &&& mask)

/-- The SPLITS bitmap of a group (06 Table 6.4). -/
def Group.splitsMap (g : Group) : BitVec 4 :=
  [0, 1, 2, 3].foldl (fun m k => if g.uses k then m ||| splitBit k else m) 0

def b2w (b : Bool) (i : Nat) : Word64 := if b then 1#64 <<< i else 0

/-- 06 Table 6.4. -/
def State.gstat (s : State) (x : Ctx) : Word64 :=
  let g := s.grp x
  let p := g.split x.sp
  b2w p.pp 31 ||| (p.crem.setWidth 64 <<< 24) ||| BitVec.ofNat 64 (x.sp * 2 ^ 20) ||| (g.splitsMap.setWidth 64 <<< 16) |||
    b2w g.aur 3 ||| b2w g.xdiv 2 ||| b2w g.lw16 1 ||| b2w (!s.native g p.pc) 0

/-- 06 Table 6.7: the inspected item. -/
def Group.inspect (g : Group) : Word64 :=
  let k := (g.gsel.extractLsb' 2 2).toNat
  let p := g.split k
  let d : BitVec 48 :=
    if !g.uses k then 0
    else match (g.gsel.extractLsb' 0 2).toNat with
      | 0 => p.pc.setWidth 48
      | 1 => p.m0.setWidth 48
      | 2 => (p.depth.setWidth 48) ||| (p.crem.setWidth 48 <<< 5) ||| (if p.pp then 1#48 <<< 9 else 0) |||
          (if p.wake.isSome then 1#48 <<< 10 else 0) ||| (if p.trapFrom.isSome then 1#48 <<< 11 else 0) |||
          (if p.atLjalr && (g.freeIds k).isEmpty then 1#48 <<< 12 else 0)
      | _ => p.lanes.setWidth 48
  (g.gsel.setWidth 64 <<< 60) ||| (g.splitsMap.setWidth 64 <<< 56) ||| d.setWidth 64

/-- 06 Table 6.8, 10 R201: cycles until the next window of the group selected in `wsref`. -/
def State.refreshCyc (s : State) (g : Nat) : Nat :=
  let t := s.cycle / 6
  if (t + 3200 - 50 * g) % 3200 < 32 then 0 else 6 * ((50 * g + 3200 - t % 3200) % 3200)

def Group.ggate (g : Group) : Word64 :=
  (g.dom.setWidth 64 <<< 52) ||| (g.tbase.setWidth 64 <<< 12) ||| BitVec.ofNat 64 (g.frames.length % 8 * 256) |||
    g.tlast.setWidth 64

/-- The counters a mode may read (06 Table 6.11): bit i of `mcounteren`, and in U-mode of `scounteren`. -/
def State.counterOk (s : State) (x : Ctx) (i : Nat) : Bool :=
  let md := (s.spl x).mode
  md = .m || ((s.slot x.c x.sl).mcounteren.getLsbD i && (md = .s || (s.grp x).csr.scounteren.getLsbD i))

/-- The trace register `gtrace` selects (19 R358). -/
def Core.traceReg (k : Core) : Word64 :=
  match k.tsel.toNat with
  | 0 => k.tctl
  | 1 => k.tunit
  | 2 => k.tentry
  | 3 => k.tbrk
  | 4 => k.tstat
  | _ => 0

/-- A write to `gtrace`: REG, and with WR = 1 the fields of the register (19 R358, R359). -/
def Core.traceWrite (k : Core) (v : Word64) : Core :=
  let k := { k with tsel := v.extractLsb' 61 3 }
  if !statusBit v 60 then k
  else match k.tsel.toNat with
    | 0 => { k with tctl := v &&& 0x0FFFFF8000000000 }
    | 1 => { k with tunit := v &&& 0xFFFFFFFF }
    | 2 => { k with tentry := v &&& 0xFFFFFFFFFFFF }
    | 3 => { k with tbrk := v &&& 0xFFFFFFFFFFFF }
    | 4 => { k with tstat := v &&& 0xFFFFFFFFFFFF }
    | _ => k

/-- A read of a CSR; none for a number that does not exist or a counter the mode may not read. -/
def State.csrRead (s : State) (x : Ctx) (n : Nat) : Option Word64 :=
  let g := s.grp x
  let p := g.split x.sp
  let w := s.slot x.c x.sl
  let c := g.csr
  match n with
  | 0x100 => some (c.sstatus ||| uxl)
  | 0x104 => some (s.mieOf x.c x.sl &&& w.mideleg)
  | 0x105 => some c.stvec
  | 0x106 => some (c.scounteren.setWidth 64)
  | 0x10A => some c.senvcfg
  | 0x140 => some c.sscratch
  | 0x141 => some c.sepc
  | 0x142 => some c.scause
  | 0x143 => some c.stval
  | 0x144 => some (s.mip x.c x.sl &&& w.mideleg)
  | 0x14D => some c.stimecmp
  | 0x180 => if p.mode = .s && statusBit w.mstatus 20 then none else some c.satp
  | 0x300 => some (w.mstatus ||| c.sstatus ||| uxl ||| sxl)
  | 0x301 => some 0x8000000000141101
  | 0x302 => some w.medeleg
  | 0x303 => some w.mideleg
  | 0x304 => some (s.mieOf x.c x.sl)
  | 0x305 => some w.mtvec
  | 0x306 => some (w.mcounteren.setWidth 64)
  | 0x30A => some w.menvcfg
  | 0x340 => some w.mscratch
  | 0x341 => some w.mepc
  | 0x342 => some w.mcause
  | 0x343 => some w.mtval
  | 0x344 => some (s.mip x.c x.sl)
  | 0xB00 => some (BitVec.ofNat 64 s.cycle + w.mcycleOff)
  | 0xB02 => some g.instret
  | 0xC00 => if s.counterOk x 0 then some (BitVec.ofNat 64 s.cycle + w.mcycleOff) else none
  | 0xC01 => if s.counterOk x 1 then some s.time else none
  | 0xC02 => if s.counterOk x 2 then some g.instret else none
  | 0xF11 => some 0
  | 0xF12 => some 0x4D33
  | 0xF13 => some 0x31
  | 0xF14 => some (BitVec.ofNat 64 (hartId x.c x.sl))
  | 0xCC0 => some (BitVec.ofNat 64 g.lanesSeen)
  | 0xCC1 => some 0x0020088040201010
  | 0x800 => some (BitVec.ofNat 64 (s.refreshCyc g.wsgrp.toNat * 2 ^ 32) ||| g.wsgrp.setWidth 64)
  | 0x801 => some (s.gstat x)
  | 0x802 => some ((p.idx.setWidth 64 <<< 8) ||| p.depth.setWidth 64)
  | 0x803 => some ((g.view x.sp (Map.getD 0 p.stack p.idx.toNat)).setWidth 64)
  | 0x5C0 => some (p.gfmt.setWidth 64)
  | 0x5C1 => some g.inspect
  | 0x5C2 => some (((s.core x.c).tsel.setWidth 64 <<< 61) ||| (s.core x.c).traceReg)
  | 0x5C3 => some g.ggate
  | _ => if 0xC03 ≤ n ∧ n ≤ 0xC1F ∧ s.counterOk x (n - 0xC00) = true then some 0 else none

/-- A write of the bits of `mask` with those of `v`. Read-only fields keep their values. -/
def State.csrWrite (s : State) (x : Ctx) (n : Nat) (v mask : Word64) : State :=
  let g := s.grp x
  let p := g.split x.sp
  let w := s.slot x.c x.sl
  let c := g.csr
  let old := (s.csrRead x n).getD 0
  let nv := merge64 old v mask
  let grp (g : Group) := s.setGrp x g
  let csr (c : SCsr) := s.setGrp x { g with csr := c }
  let slot (w : Slot) := s.setSlot x.c x.sl w
  let spl (p : Split) := s.setSpl x p
  let sup := p.mode ≠ .u
  /- the software interrupt bit and the drain bit are the writable ones (15 R306) -/
  let sip (en : Word64) : Word64 := merge64 c.sip v (mask &&& en &&& 0x10002)
  match n with
  | 0x100 => csr { c with sstatus := nv &&& sMask }
  | 0x104 => csr { c with sie := merge64 c.sie nv (w.mideleg &&& sIrqs) }
  | 0x105 => csr { c with stvec := nv &&& ~~~2#64 }
  | 0x106 => csr { c with scounteren := nv.setWidth 32 }
  | 0x10A => csr { c with senvcfg := nv &&& 1 }
  | 0x140 => csr { c with sscratch := nv }
  | 0x141 => csr { c with sepc := nv &&& ~~~3#64 }
  | 0x142 => csr { c with scause := nv }
  | 0x143 => csr { c with stval := nv }
  | 0x144 => csr { c with sip := sip w.mideleg }
  | 0x14D => csr { c with stimecmp := nv, sip := c.sip &&& ~~~0x20#64 }
  | 0x180 => if nv.extractLsb' 60 4 = 0#4 || nv.extractLsb' 60 4 = 9#4 then csr { c with satp := nv } else s
  | 0x300 =>
    let mpp := nv.extractLsb' 11 2
    let st := nv &&& mMask
    let st := if mpp = 2#2 then merge64 st w.mstatus 0x1800 else st
    s.setSlot x.c x.sl { w with mstatus := st, group := some { g with csr := { c with sstatus := nv &&& sMask } } }
  | 0x302 => slot { w with medeleg := nv &&& delegable }
  | 0x303 => slot { w with mideleg := nv &&& sIrqs }
  | 0x304 =>
    s.setSlot x.c x.sl { w with mie := nv &&& mIrqs, group := some { g with csr := { c with sie := nv &&& sIrqs } } }
  | 0x305 => slot { w with mtvec := nv &&& ~~~2#64 }
  | 0x306 => slot { w with mcounteren := nv.setWidth 32 }
  | 0x30A => slot { w with menvcfg := nv &&& 0x8000000000000001 }
  | 0x340 => slot { w with mscratch := nv }
  | 0x341 => slot { w with mepc := nv &&& ~~~3#64 }
  | 0x342 => slot { w with mcause := nv }
  | 0x343 => slot { w with mtval := nv }
  | 0x344 => csr { c with sip := sip sIrqs }
  | 0xB00 => slot { w with mcycleOff := nv - BitVec.ofNat 64 s.cycle }
  /- as ratified the write comes after the count of the writing instruction itself -/
  | 0xB02 => grp { g with instret := nv - 1 }
  | 0x800 => grp { g with wsgrp := nv.setWidth 6 }
  | 0x801 =>
    let g := { g with
      aur := g.aur && !(statusBit mask 3 && statusBit v 3), xdiv := g.xdiv && !(statusBit mask 2 && statusBit v 2) }
    let p := if sup then { p with pp := statusBit nv 31, crem := nv.extractLsb' 24 4 } else p
    grp (g.setSplit x.sp p)
  | 0x802 =>
    let d := nv.extractLsb' 0 5
    spl { p with idx := nv.extractLsb' 8 4, depth := if d.toNat ≤ 16 then d else p.depth }
  | 0x803 =>
    let e := Map.getD 0 p.stack p.idx.toNat
    spl { p with stack := Map.setD 0 p.stack p.idx.toNat (g.unview x.sp e (nv.setWidth 32)) }
  | 0x5C0 => s.setGrp x ((g.setSplit x.sp { p with gfmt := nv.setWidth 18 }).shareFmt x.sp)
  | 0x5C1 => grp { g with gsel := nv.extractLsb' 60 4 }
  | 0x5C2 => s.setCore x.c ((s.core x.c).traceWrite nv)
  | 0x5C3 => grp { g with dom := nv.extractLsb' 52 12, tbase := nv.extractLsb' 12 40, tlast := nv.setWidth 8 }
  | _ => s

/-- Zicsr: the lowest mode is bits [9:8] of the number, and bits [11:10] = 3 make it read-only (06 R112). -/
def csrAllowed (md : Mode) (n : BitVec 12) (write : Bool) : Bool :=
  decide ((n.extractLsb' 8 2).toNat ≤ (modeCode md).toNat) && !(write && n.extractLsb' 10 2 = 3#2)

end Sys2Proof.Machine
end

