-- ==== Sys2Proof/Machine/HartInt.lean ====
section
/-! DEFINITION. The register-only instructions of the hart: RV64I arithmetic, M, Zba, Zbb, Zicond, LUI, AUIPC, the branches
and jumps (06 R119, R120, 05 R87). -/

namespace Sys2Proof.Machine

/-! ## Operations on values -/

def lo32 (a : Word64) : Word32 := a.setWidth 32
def zext32 (a : Word64) : Word64 := (lo32 a).setWidth 64

/-- Applies an operation to the low words and sign-extends its result (the W forms). -/
def onWords (f : Word32 → Word32 → Word32) (a b : Word64) : Word64 := (f (lo32 a) (lo32 b)).signExtend 64

def shl64 (a b : Word64) : Word64 := a <<< (b.toNat % 64)
def shr64 (a b : Word64) : Word64 := a >>> (b.toNat % 64)
def sra64 (a b : Word64) : Word64 := a.sshiftRight (b.toNat % 64)
def shl32 (a b : Word32) : Word32 := a <<< (b.toNat % 32)
def shr32 (a b : Word32) : Word32 := a >>> (b.toNat % 32)
def sra32 (a b : Word32) : Word32 := a.sshiftRight (b.toNat % 32)
def rol64 (a b : Word64) : Word64 := a.rotateLeft (b.toNat % 64)
def ror64 (a b : Word64) : Word64 := a.rotateRight (b.toNat % 64)
def rol32 (a b : Word32) : Word32 := a.rotateLeft (b.toNat % 32)
def ror32 (a b : Word32) : Word32 := a.rotateRight (b.toNat % 32)
def slt64 (a b : Word64) : Word64 := if a.slt b then 1 else 0
def sltu64 (a b : Word64) : Word64 := if a.ult b then 1 else 0
def minS (a b : Word64) : Word64 := if b.slt a then b else a
def maxS (a b : Word64) : Word64 := if a.slt b then b else a
def minU (a b : Word64) : Word64 := if b.ult a then b else a
def maxU (a b : Word64) : Word64 := if a.ult b then b else a
def shAdd (n : Nat) (a b : Word64) : Word64 := (a <<< n) + b
def shAddUw (n : Nat) (a b : Word64) : Word64 := (zext32 a <<< n) + b

/-- The high 64 bits of the product, each operand read signed or unsigned. -/
def mulHigh (sa sb : Bool) (a b : Word64) : Word64 :=
  let i (s : Bool) (v : Word64) : Int := if s then v.toInt else v.toNat
  BitVec.ofInt 64 (i sa a * i sb b / 2 ^ 64)

/-- Division as ratified: by zero all ones, the overflow case the dividend. -/
def divS {w : Nat} (a b : BitVec w) : BitVec w := if b = 0 then BitVec.allOnes w else a.sdiv b
def divU {w : Nat} (a b : BitVec w) : BitVec w := if b = 0 then BitVec.allOnes w else a / b
def remS {w : Nat} (a b : BitVec w) : BitVec w := if b = 0 then a else a.srem b
def remU {w : Nat} (a b : BitVec w) : BitVec w := if b = 0 then a else a % b

/-- Leading zeros, trailing zeros and ones of the w low bits of a number. -/
def clzN (w v : Nat) : Word64 := BitVec.ofNat 64 (if v = 0 then w else w - 1 - Nat.log2 v)
def ctzN (w v : Nat) : Word64 := BitVec.ofNat 64 ((firstFrom v.testBit 0 w).getD w)
def cpopN (w v : Nat) : Word64 := BitVec.ofNat 64 ((List.range w).countP v.testBit)
def clz64 (a : Word64) : Word64 := clzN 64 a.toNat
def ctz64 (a : Word64) : Word64 := ctzN 64 a.toNat
def cpop64 (a : Word64) : Word64 := cpopN 64 a.toNat

/-- Each byte becomes all ones if any of its bits is one. -/
def orcB (a : Word64) : Word64 :=
  BitVec.ofNat 64 (leValue ((leBytes a.toNat 8).map (fun b => if b = 0 then 0 else 0xFF#8)))

def rev8 (a : Word64) : Word64 := BitVec.ofNat 64 (leValue (leBytes a.toNat 8).reverse)

def sextImm (i : BitVec 12) : Word64 := i.signExtend 64

/-! ## Shapes -/

/-- x[rd] := f x[rs1] x[rs2]. -/
def alu (w : Word32) (rd rs1 rs2 : BitVec 5) (f : Word64 → Word64 → Word64) (s : State) : Result :=
  issue w (fun _ _ => { xs := [rd, rs1, rs2] }) (fun x s => .next (s.setX x rd (f (s.x x rs1) (s.x x rs2)))) s

/-- x[rd] := f x[rs1]. -/
def alu1 (w : Word32) (rd rs1 : BitVec 5) (f : Word64 → Word64) (s : State) : Result :=
  issue w (fun _ _ => { xs := [rd, rs1] }) (fun x s => .next (s.setX x rd (f (s.x x rs1)))) s

/-- The result of x[rd] comes later: the register is scoreboarded until then (06 Table 6.11). -/
def State.addPend (s : State) (x : Ctx) (rd : BitVec 5) (v : Option Word64) : State :=
  if rd = 0 then s else
    let p := s.spl x
    s.setSpl x { p with pend := p.pend ++ [{ rd := rd, val := v, bank := x.sp }] }

/-- A DIV or REM family instruction: the result is written 66 cycles after issue, by DIV_REM_RESULT_RETURN. -/
def divide (w : Word32) (rd rs1 rs2 : BitVec 5) (f : Word64 → Word64 → Word64) (s : State) : Result :=
  issue w (fun _ _ => { xs := [rd, rs1, rs2] })
    (fun x s => .next (s.addPend x rd (some (f (s.x x rs1) (s.x x rs2))))) s

/-- A control transfer to a target; a misaligned one raises cause 0 and changes nothing (05 R87). -/
def jumpTo (s : State) (t : Word64) : Res :=
  if t.extractLsb' 0 2 = 0#2 then .jump s t else .trap 0 t

/-- The branch displacement from imm[12:1]. -/
def branchOff (off : BitVec 12) : Word64 := (off ++ 0#1).signExtend 64

def branch (w : Word32) (rs1 rs2 : BitVec 5) (off : BitVec 12) (f : Word64 → Word64 → Bool) (s : State) : Result :=
  issue w (fun _ _ => { xs := [rs1, rs2], ctl := true })
    (fun x s =>
      if f (s.x x rs1) (s.x x rs2) then jumpTo s ((s.spl x).pc + branchOff off) else .next s) s

/-! ## Meanings -/

/-- R119: Load upper immediate. -/
def execLui (rd : BitVec 5) (imm : BitVec 20) (s : State) : Result :=
  issue (encU imm rd 0x37#7) (fun _ _ => { xs := [rd] }) (fun x s => .next (s.setX x rd ((imm ++ 0#12).signExtend 64))) s

/-- R119: Add upper immediate to PC. -/
def execAuipc (rd : BitVec 5) (imm : BitVec 20) (s : State) : Result :=
  issue (encU imm rd 0x17#7) (fun _ _ => { xs := [rd] })
    (fun x s => .next (s.setX x rd ((s.spl x).pc + (imm ++ 0#12).signExtend 64))) s

/-- R119: Jump and link. -/
def execJal (rd : BitVec 5) (off : BitVec 20) (s : State) : Result :=
  issue (encU (jImm off) rd 0x6F#7) (fun _ _ => { xs := [rd], ctl := true })
    (fun x s =>
      let pc := (s.spl x).pc
      jumpTo (s.setX x rd (pc + 4)) (pc + (off ++ 0#1).signExtend 64)) s

/-- R119: Jump and link register. -/
def execJalr (rd rs1 : BitVec 5) (imm : BitVec 12) (s : State) : Result :=
  issue (encI imm rs1 0#3 rd 0x67#7) (fun _ _ => { xs := [rd, rs1], ctl := true })
    (fun x s => jumpTo (s.setX x rd ((s.spl x).pc + 4)) ((s.x x rs1 + sextImm imm) &&& ~~~1#64)) s

/-- R119: Branch if equal. -/
def execBeq (rs1 rs2 : BitVec 5) (off : BitVec 12) (s : State) : Result :=
  branch (encR (bHi off) rs2 rs1 0#3 (bLo off) 0x63#7) rs1 rs2 off (fun a b => a = b) s

/-- R119: Branch if not equal. -/
def execBne (rs1 rs2 : BitVec 5) (off : BitVec 12) (s : State) : Result :=
  branch (encR (bHi off) rs2 rs1 1#3 (bLo off) 0x63#7) rs1 rs2 off (fun a b => a ≠ b) s

/-- R119: Branch if less than. -/
def execBlt (rs1 rs2 : BitVec 5) (off : BitVec 12) (s : State) : Result :=
  branch (encR (bHi off) rs2 rs1 4#3 (bLo off) 0x63#7) rs1 rs2 off (fun a b => a.slt b) s

/-- R119: Branch if greater or equal. -/
def execBge (rs1 rs2 : BitVec 5) (off : BitVec 12) (s : State) : Result :=
  branch (encR (bHi off) rs2 rs1 5#3 (bLo off) 0x63#7) rs1 rs2 off (fun a b => !a.slt b) s

/-- R119: Branch if less than unsigned. -/
def execBltu (rs1 rs2 : BitVec 5) (off : BitVec 12) (s : State) : Result :=
  branch (encR (bHi off) rs2 rs1 6#3 (bLo off) 0x63#7) rs1 rs2 off (fun a b => a.ult b) s

/-- R119: Branch if greater or equal unsigned. -/
def execBgeu (rs1 rs2 : BitVec 5) (off : BitVec 12) (s : State) : Result :=
  branch (encR (bHi off) rs2 rs1 7#3 (bLo off) 0x63#7) rs1 rs2 off (fun a b => !a.ult b) s

/-- R119: Add immediate. -/
def execAddi (rd rs1 : BitVec 5) (imm : BitVec 12) (s : State) : Result :=
  alu1 (encI imm rs1 0#3 rd 0x13#7) rd rs1 (fun a => (· + ·) a (sextImm imm)) s

/-- R119: Set if less than immediate. -/
def execSlti (rd rs1 : BitVec 5) (imm : BitVec 12) (s : State) : Result :=
  alu1 (encI imm rs1 2#3 rd 0x13#7) rd rs1 (fun a => slt64 a (sextImm imm)) s

/-- R119: Set if less than immediate, unsigned. -/
def execSltiu (rd rs1 : BitVec 5) (imm : BitVec 12) (s : State) : Result :=
  alu1 (encI imm rs1 3#3 rd 0x13#7) rd rs1 (fun a => sltu64 a (sextImm imm)) s

/-- R119: XOR immediate. -/
def execXori (rd rs1 : BitVec 5) (imm : BitVec 12) (s : State) : Result :=
  alu1 (encI imm rs1 4#3 rd 0x13#7) rd rs1 (fun a => (· ^^^ ·) a (sextImm imm)) s

/-- R119: OR immediate. -/
def execOri (rd rs1 : BitVec 5) (imm : BitVec 12) (s : State) : Result :=
  alu1 (encI imm rs1 6#3 rd 0x13#7) rd rs1 (fun a => (· ||| ·) a (sextImm imm)) s

/-- R119: AND immediate. -/
def execAndi (rd rs1 : BitVec 5) (imm : BitVec 12) (s : State) : Result :=
  alu1 (encI imm rs1 7#3 rd 0x13#7) rd rs1 (fun a => (· &&& ·) a (sextImm imm)) s

/-- R119: Shift left logical immediate. -/
def execSlli (rd rs1 : BitVec 5) (sh : BitVec 6) (s : State) : Result :=
  alu1 (encI (0#6 ++ sh) rs1 1#3 rd 0x13#7) rd rs1 (fun a => shl64 a (sh.setWidth 64)) s

/-- R119: Shift right logical immediate. -/
def execSrli (rd rs1 : BitVec 5) (sh : BitVec 6) (s : State) : Result :=
  alu1 (encI (0#6 ++ sh) rs1 5#3 rd 0x13#7) rd rs1 (fun a => shr64 a (sh.setWidth 64)) s

/-- R119: Shift right arithmetic immediate. -/
def execSrai (rd rs1 : BitVec 5) (sh : BitVec 6) (s : State) : Result :=
  alu1 (encI (0x10#6 ++ sh) rs1 5#3 rd 0x13#7) rd rs1 (fun a => sra64 a (sh.setWidth 64)) s

/-- R119: Add. -/
def execAdd (rd rs1 rs2 : BitVec 5) (s : State) : Result :=
  alu (encR 0#7 rs2 rs1 0#3 rd 0x33#7) rd rs1 rs2 (· + ·) s

/-- R119: Shift left logical. -/
def execSll (rd rs1 rs2 : BitVec 5) (s : State) : Result :=
  alu (encR 0#7 rs2 rs1 1#3 rd 0x33#7) rd rs1 rs2 shl64 s

/-- R119: Set if less than. -/
def execSlt (rd rs1 rs2 : BitVec 5) (s : State) : Result :=
  alu (encR 0#7 rs2 rs1 2#3 rd 0x33#7) rd rs1 rs2 slt64 s

/-- R119: Set if less than, unsigned. -/
def execSltu (rd rs1 rs2 : BitVec 5) (s : State) : Result :=
  alu (encR 0#7 rs2 rs1 3#3 rd 0x33#7) rd rs1 rs2 sltu64 s

/-- R119: XOR. -/
def execXor (rd rs1 rs2 : BitVec 5) (s : State) : Result :=
  alu (encR 0#7 rs2 rs1 4#3 rd 0x33#7) rd rs1 rs2 (· ^^^ ·) s

/-- R119: Shift right logical. -/
def execSrl (rd rs1 rs2 : BitVec 5) (s : State) : Result :=
  alu (encR 0#7 rs2 rs1 5#3 rd 0x33#7) rd rs1 rs2 shr64 s

/-- R119: OR. -/
def execOr (rd rs1 rs2 : BitVec 5) (s : State) : Result :=
  alu (encR 0#7 rs2 rs1 6#3 rd 0x33#7) rd rs1 rs2 (· ||| ·) s

/-- R119: AND. -/
def execAnd (rd rs1 rs2 : BitVec 5) (s : State) : Result :=
  alu (encR 0#7 rs2 rs1 7#3 rd 0x33#7) rd rs1 rs2 (· &&& ·) s

/-- R119: Subtract. -/
def execSub (rd rs1 rs2 : BitVec 5) (s : State) : Result :=
  alu (encR 0x20#7 rs2 rs1 0#3 rd 0x33#7) rd rs1 rs2 (· - ·) s

/-- R119: Shift right arithmetic. -/
def execSra (rd rs1 rs2 : BitVec 5) (s : State) : Result :=
  alu (encR 0x20#7 rs2 rs1 5#3 rd 0x33#7) rd rs1 rs2 sra64 s

/-- R119: Add immediate, word. -/
def execAddiw (rd rs1 : BitVec 5) (imm : BitVec 12) (s : State) : Result :=
  alu1 (encI imm rs1 0#3 rd 0x1B#7) rd rs1 (fun a => (onWords (· + ·)) a (sextImm imm)) s

/-- R119: Shift left logical immediate, word. -/
def execSlliw (rd rs1 sh : BitVec 5) (s : State) : Result :=
  alu1 (encR 0#7 sh rs1 1#3 rd 0x1B#7) rd rs1 (fun a => (onWords shl32) a (sh.setWidth 64)) s

/-- R119: Shift right logical immediate, word. -/
def execSrliw (rd rs1 sh : BitVec 5) (s : State) : Result :=
  alu1 (encR 0#7 sh rs1 5#3 rd 0x1B#7) rd rs1 (fun a => (onWords shr32) a (sh.setWidth 64)) s

/-- R119: Shift right arithmetic immediate, word. -/
def execSraiw (rd rs1 sh : BitVec 5) (s : State) : Result :=
  alu1 (encR 0x20#7 sh rs1 5#3 rd 0x1B#7) rd rs1 (fun a => (onWords sra32) a (sh.setWidth 64)) s

/-- R119: Add, word. -/
def execAddw (rd rs1 rs2 : BitVec 5) (s : State) : Result :=
  alu (encR 0#7 rs2 rs1 0#3 rd 0x3B#7) rd rs1 rs2 (onWords (· + ·)) s

/-- R119: Shift left logical, word. -/
def execSllw (rd rs1 rs2 : BitVec 5) (s : State) : Result :=
  alu (encR 0#7 rs2 rs1 1#3 rd 0x3B#7) rd rs1 rs2 (onWords shl32) s

/-- R119: Shift right logical, word. -/
def execSrlw (rd rs1 rs2 : BitVec 5) (s : State) : Result :=
  alu (encR 0#7 rs2 rs1 5#3 rd 0x3B#7) rd rs1 rs2 (onWords shr32) s

/-- R119: Subtract, word. -/
def execSubw (rd rs1 rs2 : BitVec 5) (s : State) : Result :=
  alu (encR 0x20#7 rs2 rs1 0#3 rd 0x3B#7) rd rs1 rs2 (onWords (· - ·)) s

/-- R119: Shift right arithmetic, word. -/
def execSraw (rd rs1 rs2 : BitVec 5) (s : State) : Result :=
  alu (encR 0x20#7 rs2 rs1 5#3 rd 0x3B#7) rd rs1 rs2 (onWords sra32) s

/-- R120: Multiply. -/
def execMul (rd rs1 rs2 : BitVec 5) (s : State) : Result :=
  alu (encR 1#7 rs2 rs1 0#3 rd 0x33#7) rd rs1 rs2 (· * ·) s

/-- R120: Multiply high, signed. -/
def execMulh (rd rs1 rs2 : BitVec 5) (s : State) : Result :=
  alu (encR 1#7 rs2 rs1 1#3 rd 0x33#7) rd rs1 rs2 (mulHigh true true) s

/-- R120: Multiply high, signed by unsigned. -/
def execMulhsu (rd rs1 rs2 : BitVec 5) (s : State) : Result :=
  alu (encR 1#7 rs2 rs1 2#3 rd 0x33#7) rd rs1 rs2 (mulHigh true false) s

/-- R120: Multiply high, unsigned. -/
def execMulhu (rd rs1 rs2 : BitVec 5) (s : State) : Result :=
  alu (encR 1#7 rs2 rs1 3#3 rd 0x33#7) rd rs1 rs2 (mulHigh false false) s

/-- R120: Signed divide, result after 66 cycles. -/
def execDiv (rd rs1 rs2 : BitVec 5) (s : State) : Result :=
  divide (encR 1#7 rs2 rs1 4#3 rd 0x33#7) rd rs1 rs2 divS s

/-- R120: Unsigned divide. -/
def execDivu (rd rs1 rs2 : BitVec 5) (s : State) : Result :=
  divide (encR 1#7 rs2 rs1 5#3 rd 0x33#7) rd rs1 rs2 divU s

/-- R120: Signed remainder. -/
def execRem (rd rs1 rs2 : BitVec 5) (s : State) : Result :=
  divide (encR 1#7 rs2 rs1 6#3 rd 0x33#7) rd rs1 rs2 remS s

/-- R120: Unsigned remainder. -/
def execRemu (rd rs1 rs2 : BitVec 5) (s : State) : Result :=
  divide (encR 1#7 rs2 rs1 7#3 rd 0x33#7) rd rs1 rs2 remU s

/-- R120: Multiply, word. -/
def execMulw (rd rs1 rs2 : BitVec 5) (s : State) : Result :=
  alu (encR 1#7 rs2 rs1 0#3 rd 0x3B#7) rd rs1 rs2 (onWords (· * ·)) s

/-- R120: Signed divide, word. -/
def execDivw (rd rs1 rs2 : BitVec 5) (s : State) : Result :=
  divide (encR 1#7 rs2 rs1 4#3 rd 0x3B#7) rd rs1 rs2 (onWords divS) s

/-- R120: Unsigned divide, word. -/
def execDivuw (rd rs1 rs2 : BitVec 5) (s : State) : Result :=
  divide (encR 1#7 rs2 rs1 5#3 rd 0x3B#7) rd rs1 rs2 (onWords divU) s

/-- R120: Signed remainder, word. -/
def execRemw (rd rs1 rs2 : BitVec 5) (s : State) : Result :=
  divide (encR 1#7 rs2 rs1 6#3 rd 0x3B#7) rd rs1 rs2 (onWords remS) s

/-- R120: Unsigned remainder, word. -/
def execRemuw (rd rs1 rs2 : BitVec 5) (s : State) : Result :=
  divide (encR 1#7 rs2 rs1 7#3 rd 0x3B#7) rd rs1 rs2 (onWords remU) s

/-- R119: Shift left by 1 and add. -/
def execSh1add (rd rs1 rs2 : BitVec 5) (s : State) : Result :=
  alu (encR 0x10#7 rs2 rs1 2#3 rd 0x33#7) rd rs1 rs2 (shAdd 1) s

/-- R119: Shift left by 2 and add. -/
def execSh2add (rd rs1 rs2 : BitVec 5) (s : State) : Result :=
  alu (encR 0x10#7 rs2 rs1 4#3 rd 0x33#7) rd rs1 rs2 (shAdd 2) s

/-- R119: Shift left by 3 and add. -/
def execSh3add (rd rs1 rs2 : BitVec 5) (s : State) : Result :=
  alu (encR 0x10#7 rs2 rs1 6#3 rd 0x33#7) rd rs1 rs2 (shAdd 3) s

/-- R119: Add unsigned word. -/
def execAddUw (rd rs1 rs2 : BitVec 5) (s : State) : Result :=
  alu (encR 4#7 rs2 rs1 0#3 rd 0x3B#7) rd rs1 rs2 (shAddUw 0) s

/-- R119: Shift unsigned word left by 1 and add. -/
def execSh1addUw (rd rs1 rs2 : BitVec 5) (s : State) : Result :=
  alu (encR 0x10#7 rs2 rs1 2#3 rd 0x3B#7) rd rs1 rs2 (shAddUw 1) s

/-- R119: Shift unsigned word left by 2 and add. -/
def execSh2addUw (rd rs1 rs2 : BitVec 5) (s : State) : Result :=
  alu (encR 0x10#7 rs2 rs1 4#3 rd 0x3B#7) rd rs1 rs2 (shAddUw 2) s

/-- R119: Shift unsigned word left by 3 and add. -/
def execSh3addUw (rd rs1 rs2 : BitVec 5) (s : State) : Result :=
  alu (encR 0x10#7 rs2 rs1 6#3 rd 0x3B#7) rd rs1 rs2 (shAddUw 3) s

/-- R119: Shift unsigned word left by immediate. -/
def execSlliUw (rd rs1 : BitVec 5) (sh : BitVec 6) (s : State) : Result :=
  alu1 (encI (2#6 ++ sh) rs1 1#3 rd 0x1B#7) rd rs1 (fun a => (fun a n => shl64 (zext32 a) n) a (sh.setWidth 64)) s

/-- R119: AND with inverted operand. -/
def execAndn (rd rs1 rs2 : BitVec 5) (s : State) : Result :=
  alu (encR 0x20#7 rs2 rs1 7#3 rd 0x33#7) rd rs1 rs2 (fun a b => a &&& ~~~b) s

/-- R119: OR with inverted operand. -/
def execOrn (rd rs1 rs2 : BitVec 5) (s : State) : Result :=
  alu (encR 0x20#7 rs2 rs1 6#3 rd 0x33#7) rd rs1 rs2 (fun a b => a ||| ~~~b) s

/-- R119: Exclusive NOR. -/
def execXnor (rd rs1 rs2 : BitVec 5) (s : State) : Result :=
  alu (encR 0x20#7 rs2 rs1 4#3 rd 0x33#7) rd rs1 rs2 (fun a b => ~~~(a ^^^ b)) s

/-- R119: Signed minimum. -/
def execMin (rd rs1 rs2 : BitVec 5) (s : State) : Result :=
  alu (encR 5#7 rs2 rs1 4#3 rd 0x33#7) rd rs1 rs2 minS s

/-- R119: Unsigned minimum. -/
def execMinu (rd rs1 rs2 : BitVec 5) (s : State) : Result :=
  alu (encR 5#7 rs2 rs1 5#3 rd 0x33#7) rd rs1 rs2 minU s

/-- R119: Signed maximum. -/
def execMax (rd rs1 rs2 : BitVec 5) (s : State) : Result :=
  alu (encR 5#7 rs2 rs1 6#3 rd 0x33#7) rd rs1 rs2 maxS s

/-- R119: Unsigned maximum. -/
def execMaxu (rd rs1 rs2 : BitVec 5) (s : State) : Result :=
  alu (encR 5#7 rs2 rs1 7#3 rd 0x33#7) rd rs1 rs2 maxU s

/-- R119: Rotate left. -/
def execRol (rd rs1 rs2 : BitVec 5) (s : State) : Result :=
  alu (encR 0x30#7 rs2 rs1 1#3 rd 0x33#7) rd rs1 rs2 rol64 s

/-- R119: Rotate right. -/
def execRor (rd rs1 rs2 : BitVec 5) (s : State) : Result :=
  alu (encR 0x30#7 rs2 rs1 5#3 rd 0x33#7) rd rs1 rs2 ror64 s

/-- R119: Rotate left, word. -/
def execRolw (rd rs1 rs2 : BitVec 5) (s : State) : Result :=
  alu (encR 0x30#7 rs2 rs1 1#3 rd 0x3B#7) rd rs1 rs2 (onWords rol32) s

/-- R119: Rotate right, word. -/
def execRorw (rd rs1 rs2 : BitVec 5) (s : State) : Result :=
  alu (encR 0x30#7 rs2 rs1 5#3 rd 0x3B#7) rd rs1 rs2 (onWords ror32) s

/-- R119: Zero-extend half. -/
def execZextH (rd rs1 : BitVec 5) (s : State) : Result :=
  alu1 (encR 4#7 0#5 rs1 4#3 rd 0x3B#7) rd rs1 (fun a => (a.extractLsb' 0 16).setWidth 64) s

/-- R119: Count leading zeros. -/
def execClz (rd rs1 : BitVec 5) (s : State) : Result :=
  alu1 (encI 0x600#12 rs1 1#3 rd 0x13#7) rd rs1 clz64 s

/-- R119: Count trailing zeros. -/
def execCtz (rd rs1 : BitVec 5) (s : State) : Result :=
  alu1 (encI 0x601#12 rs1 1#3 rd 0x13#7) rd rs1 ctz64 s

/-- R119: Count set bits. -/
def execCpop (rd rs1 : BitVec 5) (s : State) : Result :=
  alu1 (encI 0x602#12 rs1 1#3 rd 0x13#7) rd rs1 cpop64 s

/-- R119: Sign-extend byte. -/
def execSextB (rd rs1 : BitVec 5) (s : State) : Result :=
  alu1 (encI 0x604#12 rs1 1#3 rd 0x13#7) rd rs1 (fun a => (a.extractLsb' 0 8).signExtend 64) s

/-- R119: Sign-extend half. -/
def execSextH (rd rs1 : BitVec 5) (s : State) : Result :=
  alu1 (encI 0x605#12 rs1 1#3 rd 0x13#7) rd rs1 (fun a => (a.extractLsb' 0 16).signExtend 64) s

/-- R119: Rotate right by immediate. -/
def execRori (rd rs1 : BitVec 5) (sh : BitVec 6) (s : State) : Result :=
  alu1 (encI (0x18#6 ++ sh) rs1 5#3 rd 0x13#7) rd rs1 (fun a => ror64 a (sh.setWidth 64)) s

/-- R119: OR-combine bytes. -/
def execOrcB (rd rs1 : BitVec 5) (s : State) : Result :=
  alu1 (encI 0x287#12 rs1 5#3 rd 0x13#7) rd rs1 orcB s

/-- R119: Reverse byte order. -/
def execRev8 (rd rs1 : BitVec 5) (s : State) : Result :=
  alu1 (encI 0x6B8#12 rs1 5#3 rd 0x13#7) rd rs1 rev8 s

/-- R119: Count leading zeros, word. -/
def execClzw (rd rs1 : BitVec 5) (s : State) : Result :=
  alu1 (encI 0x600#12 rs1 1#3 rd 0x1B#7) rd rs1 (fun a => clzN 32 (lo32 a).toNat) s

/-- R119: Count trailing zeros, word. -/
def execCtzw (rd rs1 : BitVec 5) (s : State) : Result :=
  alu1 (encI 0x601#12 rs1 1#3 rd 0x1B#7) rd rs1 (fun a => ctzN 32 (lo32 a).toNat) s

/-- R119: Count set bits, word. -/
def execCpopw (rd rs1 : BitVec 5) (s : State) : Result :=
  alu1 (encI 0x602#12 rs1 1#3 rd 0x1B#7) rd rs1 (fun a => cpopN 32 (lo32 a).toNat) s

/-- R119: Rotate right by immediate, word. -/
def execRoriw (rd rs1 sh : BitVec 5) (s : State) : Result :=
  alu1 (encR 0x30#7 sh rs1 5#3 rd 0x1B#7) rd rs1 (fun a => (onWords ror32) a (sh.setWidth 64)) s

/-- R119: Zero the result if the condition register is zero. -/
def execCzeroEqz (rd rs1 rs2 : BitVec 5) (s : State) : Result :=
  alu (encR 7#7 rs2 rs1 5#3 rd 0x33#7) rd rs1 rs2 (fun a b => if b = 0 then 0 else a) s

/-- R119: Zero the result if the condition register is nonzero. -/
def execCzeroNez (rd rs1 rs2 : BitVec 5) (s : State) : Result :=
  alu (encR 7#7 rs2 rs1 7#3 rd 0x33#7) rd rs1 rs2 (fun a b => if b ≠ 0 then 0 else a) s

end Sys2Proof.Machine
end

