-- ==== Sys2Proof/Machine/System.lean ====
section
/-! DEFINITION. The system instructions: Zicsr, ECALL, EBREAK, SRET, MRET, WFI, SFENCE.VMA, FENCE and FENCE.I
(06 R112, R118-R121, 13 R263, R269, 16 R320, R321). -/

namespace Sys2Proof.Machine

/-! ## Zicsr -/

/-- A CSR instruction: `v` the operand, `mask` the bits it acts on, `write` whether it writes. -/
def csrOp (w : Word32) (rd : BitVec 5) (xs : List (BitVec 5)) (n : BitVec 12) (write : Bool)
    (v mask : Ctx → State → Word64) (s : State) : Result :=
  issue w
    (fun x s => { xs := xs, bad := !csrAllowed (s.spl x).mode n write || (s.csrRead x n.toNat).isNone })
    (fun x s =>
      let old := (s.csrRead x n.toNat).getD 0
      let t := if write then s.csrWrite x n.toNat (v x s) (mask x s) else s
      .next (t.setX x rd old)) s

def allOnes64 : Word64 := BitVec.allOnes 64

/-! ## Ordering (13 R263, R269) -/

/-- An acquire at UNIT scope or wider invalidates the lines of the flock's L1 with the group's ASID (10 R191). -/
def State.acquire (s : State) (x : Ctx) : State :=
  s.dropL1 x.c (s.grp x).asid

/-- A release: later writes of the split follow every operation issued so far (13 R263). -/
def State.release (s : State) (x : Ctx) : State := s.setSpl x { s.spl x with rel := s.nextId }

/-- A fence: its release part costs no wait, for later stores wait behind it in the store queue; its acquire part needs the load
counter at 0, a full fence the store counter too (13 Table 13.6). A group split parks at the next instruction until then, the
handler slot waits at issue. -/
def fenceEffect (rel acq full wide : Bool) (x : Ctx) (s : State) : Res :=
  let t := if rel then s.release x else s
  let st : BitVec 3 := if full then 0 else 7
  let ld : BitVec 3 := if acq then 0 else 7
  if (s.core x.c).fenceMet x.sl x.sp st ld then .next (if acq && wide then t.acquire x else t)
  else if x.handler then .wait
  else .parkNext t (.fence st ld (acq && wide))

/-! ## Returning from a trap (16 R321) -/

/-- The split returns to a mode at an address; it takes PP and CREM as they stand, and when it is back in the mode the
trap came from its siblings are unfrozen. An errand of an instruction that a handler does not return to brings nothing to the split
(16 R321, log 13). -/
def State.returnTo (s : State) (x : Ctx) (md : Mode) (pc : Word64) : State :=
  let mine (f : Flight) : Bool := f.core = x.c && f.slot = x.sl && f.split = x.sp && f.mode = md && f.what.parks && f.pc ≠ pc
  let s : State := { s with
    flights := (s.flights.filter (fun f => !(mine f && f.arrived))).map (fun f => if mine f then { f with split := nobody } else f) }
  let g := s.grp x
  let p := g.split x.sp
  let back := p.trapFrom = some md
  let (wake, held) := match p.held with
    | (from_, w) :: r => if from_ = md then (some w, r) else (p.wake, p.held)
    | [] => (p.wake, p.held)
  s.setGrp x ({ g with trapped := if back then none else g.trapped }.setSplit x.sp
    { p with
      mode := md, resume := true, skipBrk := true, trapFrom := if back then none else p.trapFrom,
      wake := wake, held := held })

def sretStatus (st : Word64) : Word64 := setBit (setBit (setBit st 1 (statusBit st 5)) 5 true) 8 false
def mretStatus (st : Word64) : Word64 :=
  let st := setBit (setBit st 3 (statusBit st 7)) 7 true
  let st := if st.extractLsb' 11 2 = 3#2 then st else setBit st 17 false
  st &&& ~~~0x1800#64
def modeOf (c : BitVec 2) : Mode := if c = 0 then .u else if c = 1 then .s else .m

/-! ## Meanings -/

/-- R112: CSR read and write. -/
def execCsrrw (rd rs1 : BitVec 5) (csr : BitVec 12) (s : State) : Result :=
  csrOp (encI csr rs1 1#3 rd 0x73#7) rd [rd, rs1] csr true (fun x s => s.x x rs1) (fun _ _ => allOnes64) s

/-- R112: CSR read and write immediate. -/
def execCsrrwi (rd uimm : BitVec 5) (csr : BitVec 12) (s : State) : Result :=
  csrOp (encI csr uimm 5#3 rd 0x73#7) rd [rd] csr true (fun _ _ => uimm.setWidth 64) (fun _ _ => allOnes64) s

/-- R112: CSR read and set bits. -/
def execCsrrs (rd rs1 : BitVec 5) (csr : BitVec 12) (s : State) : Result :=
  csrOp (encI csr rs1 2#3 rd 0x73#7) rd [rd, rs1] csr (rs1 ≠ 0) (fun _ _ => allOnes64) (fun x s => s.x x rs1) s

/-- R112: CSR read and set bits, immediate. -/
def execCsrrsi (rd uimm : BitVec 5) (csr : BitVec 12) (s : State) : Result :=
  csrOp (encI csr uimm 6#3 rd 0x73#7) rd [rd] csr (uimm ≠ 0) (fun _ _ => allOnes64) (fun _ _ => uimm.setWidth 64) s

/-- R112: CSR read and clear bits. -/
def execCsrrc (rd rs1 : BitVec 5) (csr : BitVec 12) (s : State) : Result :=
  csrOp (encI csr rs1 3#3 rd 0x73#7) rd [rd, rs1] csr (rs1 ≠ 0) (fun _ _ => 0) (fun x s => s.x x rs1) s

/-- R112: CSR read and clear bits, immediate. -/
def execCsrrci (rd uimm : BitVec 5) (csr : BitVec 12) (s : State) : Result :=
  csrOp (encI csr uimm 7#3 rd 0x73#7) rd [rd] csr (uimm ≠ 0) (fun _ _ => 0) (fun _ _ => uimm.setWidth 64) s

/-- R120: Environment call trap. -/
def execEcall (s : State) : Result :=
  issue (encI 0#12 0#5 0#3 0#5 0x73#7) (fun _ _ => {})
    (fun x s => .trap (match (s.spl x).mode with | .u => 8 | .s => 9 | .m => 11) 0) s

/-- R120: Breakpoint trap. -/
def execEbreak (s : State) : Result :=
  issue (encI 1#12 0#5 0#3 0#5 0x73#7) (fun _ _ => {}) (fun x s => .trap 3 (s.spl x).pc) s

/-- R321: Returns from an S-mode trap, unfreezing the group's other splits. -/
def execSret (s : State) : Result :=
  issue (encI 0x102#12 0#5 0#3 0#5 0x73#7)
    (fun x s =>
      let md := (s.spl x).mode
      { ctl := true, bad := md = .u || (md = .s && statusBit (s.slot x.c x.sl).mstatus 22) })
    (fun x s =>
      let g := s.grp x
      let w := s.slot x.c x.sl
      let t := s.setSlot x.c x.sl { w with
        mstatus := setBit w.mstatus 17 false
        group := some { g with csr := { g.csr with sstatus := sretStatus g.csr.sstatus } } }
      .jump (t.returnTo x (if statusBit g.csr.sstatus 8 then .s else .u) g.csr.sepc) g.csr.sepc) s

/-- R321: Returns from an M-mode trap. -/
def execMret (s : State) : Result :=
  issue (encI 0x302#12 0#5 0#3 0#5 0x73#7) (fun x s => { ctl := true, bad := (s.spl x).mode ≠ .m })
    (fun x s =>
      let w := s.slot x.c x.sl
      let t := s.setSlot x.c x.sl { w with mstatus := mretStatus w.mstatus }
      .jump (t.returnTo x (modeOf (w.mstatus.extractLsb' 11 2)) w.mepc) w.mepc) s

/-- R120: Parks the split until an interrupt is pending. -/
def execWfi (s : State) : Result :=
  issue (encI 0x105#12 0#5 0#3 0#5 0x73#7)
    (fun x s =>
      let md := (s.spl x).mode
      { bad := md = .u || (md = .s && statusBit (s.slot x.c x.sl).mstatus 21) })
    (fun x s =>
      if s.mip x.c x.sl ≠ 0 then .next s
      else if x.handler then .trap 26 (x.word.setWidth 64)
      else .parkNext s .interrupt) s

/-- R190: Invalidates matching home TLB, flock L1 and hart cache entries on all eight dies, after the split's earlier stores, of page
tables among them, are performed (06 Table 6.11). -/
def execSfenceVma (rs1 rs2 : BitVec 5) (s : State) : Result :=
  issue (encI (9#7 ++ rs2) rs1 0#3 0#5 0x73#7)
    (fun x s =>
      let md := (s.spl x).mode
      { xs := [rs1, rs2], bad := md ≠ .s || (md = .s && statusBit (s.slot x.c x.sl).mstatus 20) })
    (fun x s =>
      let p := s.spl x
      match p.sfence with
      | some true => .next (s.setSpl x { p with sfence := none })
      | some false => .wait
      | none =>
        if (s.core x.c).storeCount x.sl x.sp ≠ 0 then .wait else
        let va := s.x x rs1
        let asid : BitVec 16 := (s.x x rs2).setWidth 16
        let hit (k : Nat) : Bool :=
          (rs2 = 0 || k / 2 ^ 58 % 2 ^ 16 = asid.toNat) && (rs1 = 0 || k % 2 ^ 58 / 64 = va.toNat / 4096)
        let entry (e : Nat × (Word64 × Nat)) : Bool :=
          (rs2 = 0 || e.1 / 2 ^ 36 = asid.toNat) &&
            (rs1 = 0 || e.1 % 2 ^ 36 / 512 ^ e.2.2 = (va.extractLsb' 12 36).toNat / 512 ^ e.2.2)
        .hold ({ s with
          l1 := s.l1.filter (fun e => !hit e.1), dcache := s.dcache.filter (fun e => !hit e.1)
          tlb := s.tlb.filter (fun e => !entry e) }.setSpl x { p with sfence := some false })) s

/-- R120: Acts as FENCE.S full at DEVICE scope. -/
def execFence (rd rs1 : BitVec 5) (fm pred succ : BitVec 4) (s : State) : Result :=
  issue (encI (fm ++ pred ++ succ) rs1 0#3 rd 0xF#7) (fun _ _ => {}) (fenceEffect true true true true) s

/-- R120: Later fetches of the split observe its earlier stores. -/
def execFenceI (rd rs1 : BitVec 5) (imm : BitVec 12) (s : State) : Result :=
  issue (encI imm rs1 1#3 rd 0xF#7) (fun _ _ => {})
    (fun x s =>
      if (s.core x.c).storeCount x.sl x.sp = 0 then
        let lo := (flockOf x.c * 2 ^ 16 + (s.grp x).asid.toNat) * 2 ^ 58
        .next { s with icache := s.icache.filter (fun e => e.1 < lo || lo + 2 ^ 58 ≤ e.1) }
      else .wait) s

end Sys2Proof.Machine
end

