-- ==== Sys2Proof/Machine/Copies.lean ====
section
/-! DEFINITION. Copies, barrier objects, presence holds, fences, engine-queue joins and unit barriers (11 R209-R220,
13 R269-R272). -/

namespace Sys2Proof.Machine

/-- An engine instruction of a class, which a gate frame forbids (17 Table 17.3). -/
def engReq (cls : Nat) (xs : List (BitVec 5)) : Req := { xs := xs, dev := true, eng := cls, fence := some (12, 0) }

/-- A protection violation by the issuing group: the instruction is not executed (18 R354). -/
def State.violate (s : State) (x : Ctx) (cause : Option Nat) (addr : Word64) : Res :=
  .gone (s.freezeGroup x.c x.sl cause addr)

/-- Every store of the group that issued earlier is performed. -/
def Core.storesDone (k : Core) (sl : Nat) : Bool :=
  k.ops.all (fun o => !(o.slot = sl && o.accs.any (fun a => a.what.writes && !a.done)))

/-- Every read and read-modify-write that the split issued earlier has been performed. -/
def Core.readsDone (k : Core) (sl sp : Nat) : Bool :=
  k.ops.all (fun o => !(o.slot = sl && hasBit4 o.agent sp && o.accs.any (fun a => !a.what.isWrite && !a.done)))

/-- And every load of the split has returned: what a release at issue needs (13 R263). -/
def Core.released (k : Core) (sl sp : Nat) : Bool := k.storesDone sl && k.loadCount sl sp = 0 && k.hartDone sl sp

/-- Where an instruction parks: in the handler slot that is a handler-block fault (11, common exceptions). -/
def parkOrBlock (x : Ctx) (s : State) (w : Wake) : Res :=
  if x.handler then .trap 26 (x.word.setWidth 64) else .park s w

/-! ## Copy requests (11 Table 11.2) -/

def rq (r : BitVec 256) (lo n : Nat) : Nat := (r.toNat >>> lo) % 2 ^ n
def rqSrc (r : BitVec 256) : Nat := rq r 0 64
def rqDst (r : BitVec 256) : Nat := rq r 64 64
def rqLen (r : BitVec 256) : Nat := if rq r 128 16 = 0 then 65536 else rq r 128 16
def rqRows (r : BitVec 256) : Nat := if rq r 144 16 = 0 then 65536 else rq r 144 16
def rqSspace (r : BitVec 256) : Nat := rq r 160 2
def rqDspace (r : BitVec 256) : Nat := rq r 162 2
def rqKind (r : BitVec 256) : Nat := rq r 164 4
def rqArr (r : BitVec 256) : Bool := rq r 168 1 = 1
def rqNobar (r : BitVec 256) : Bool := rq r 169 1 = 1
def rqElemFp (r : BitVec 256) : Bool := rq r 170 1 = 1
def rqBar (r : BitVec 256) : Nat := rq r 174 18 * 16
def sext24 (v : Nat) : Int := if v < 2 ^ 23 then v else (v : Int) - 2 ^ 24
def rqSstride (r : BitVec 256) : Int := sext24 (rq r 208 24)
def rqIdx (r : BitVec 256) : Nat := rq r 208 24 * 16
def rqDstride (r : BitVec 256) : Int := sext24 (rq r 232 24)

/-- An address of a space: local and weight addresses are modulo 2^32. -/
def spaceAddr (space : Nat) (a : Int) : Nat := (a % (if space = 0 then 2 ^ 64 else 2 ^ 32)).toNat

/-- 11 R213, as far as the record itself shows it. -/
def rqBad (q : Nat) (r : BitVec 256) : Bool :=
  let k := rqKind r
  rq r 171 1 ≠ 0 || rq r 172 2 ≠ 0 || rq r 192 16 ≠ 0 || rqSspace r = 3 || rqDspace r = 3 ||
  !((q < 4 && k = 0) || (q = 5 && k = 1) || (q = 6 && (k = 2 || k = 3))) ||
  (k = 2 && rqDspace r ≠ 1) ||
  (k = 3 && (rqSrc r % 4 ≠ 0 || rqDst r % 4 ≠ 0 || rqLen r % 4 ≠ 0 || rqSstride r % 4 ≠ 0 || rqDstride r % 4 ≠ 0 ||
    rqDspace r = 2))

def srcRow (e : Entry) (r : Nat) : Nat :=
  let raw := e.raw
  if rqKind raw = 1 then spaceAddr (rqSspace raw) (rqSrc raw + ((e.idx.getD r 0).toInt))
  else spaceAddr (rqSspace raw) (rqSrc raw + r * rqSstride raw)

def dstRow (raw : BitVec 256) (r : Nat) : Nat := spaceAddr (rqDspace raw) (rqDst raw + r * rqDstride raw)

/-- The unit cores a request writes to: one copy, or one for each core of the unit (KIND 2). -/
def rqFan (u : Unit) (raw : BitVec 256) : Nat := if rqKind raw = 2 then u.cores.length else 1

/-- The destination address of byte i of row r in copy j. -/
def dstByte (raw : BitVec 256) (j r i : Nat) : Nat :=
  let a := spaceAddr (rqDspace raw) (dstRow raw r + i)
  if rqKind raw = 2 then (j * 32768 + dstRow raw r % 32768 + i) % 2 ^ 32 else a

/-- Every byte of a request: copy, row, place in the row. -/
def rqBytes (u : Unit) (raw : BitVec 256) : List (Nat × Nat × Nat) :=
  (List.range (rqFan u raw)).flatMap (fun j => (List.range (rqRows raw)).flatMap (fun r =>
    (List.range (rqLen raw)).map (fun i => (j, r, i))))

/-- The destination lines of a request, in the order they are first written. -/
def rqLines (u : Unit) (raw : BitVec 256) : List Nat :=
  ((rqBytes u raw).map (fun b => dstByte raw b.1 b.2.1 b.2.2 / 64)).eraseDups

/-- The scratchpad lines of a request whose destination is local. -/
def rqLocal (u : Unit) (raw : BitVec 256) : List Nat :=
  if rqDspace raw = 1 then (rqLines u raw).filterMap (fun l => (u.localByte (64 * l)).map lineOf) else []

/-- Bytes counted by a request. -/
def rqCount (u : Unit) (raw : BitVec 256) : Nat := rqLen raw * rqRows raw * rqFan u raw

/-! ## Presence (11 R215) -/

def State.raiseP (s : State) (ls : List Nat) : State :=
  { s with lineP := ls.foldl (fun m l => Map.setD 0 m l (Map.getD 0 m l + 1)) s.lineP }
def State.lowerP (s : State) (l : Nat) : State :=
  { s with lineP := Map.setD 0 s.lineP l (Map.getD 0 s.lineP l - 1) }

/-! ## Barrier objects (11 R216, R217) -/

def objRead (s : State) (b : Nat) : Nat := leValue (s.scratch.bytes b 16)

/-- An object with its fields: BCNT, ACNT, PHASE, BINIT, AINIT, UNDER, ERR. -/
def objPack (bcnt acnt phase binit ainit : Nat) (under err : Bool) : Nat :=
  bcnt + acnt * 2 ^ 32 + phase * 2 ^ 48 + binit * 2 ^ 64 + ainit * 2 ^ 96 + under.toNat * 2 ^ 112 + err.toNat * 2 ^ 113

/-- One update of an object: b bytes, a arrivals, and whether an error request counts here. -/
def objUpdate (o b a : Nat) (err : Bool) : Nat :=
  let bcnt := field o 0 32
  let acnt := field o 32 16
  let under := field o 112 1 = 1 || decide (bcnt < b) || decide (acnt < a)
  let e := field o 113 1 = 1 || err
  if bcnt - b = 0 && acnt - a = 0 && (0 < b || 0 < a) then
    objPack (field o 64 32) (field o 96 16) ((field o 48 16 + 1) % 2 ^ 16) (field o 64 32) (field o 96 16) under e
  else objPack (bcnt - b) (acnt - a) (field o 48 16) (field o 64 32) (field o 96 16) under e

def State.updateObj (s : State) (byte b a : Nat) (err : Bool) : State :=
  { s with scratch := s.scratch.setBytes byte (leBytes (objUpdate (objRead s byte) b a err) 16) }

/-- The scratchpad byte of a barrier object of a unit, if all of it lies in the window. -/
def Unit.objByte (u : Unit) (o : Nat) : Option Nat :=
  match u.localByte o, u.localByte (o + 15) with
  | some b, some _ => some b
  | _, _ => none

/-! ## CPYK (11 R218) -/

def cpykBody (rs1 rs2 : BitVec 5) (x : Ctx) (s : State) : Res :=
  let g := s.grp x
  let u := s.unit g.unit
  let a := (g.x x.sp rs1).toNat % 2 ^ 32
  let v := (g.x x.sp rs2).toNat
  let n := v % 128
  let q := v / 256 % 8
  if n = 0 || 64 < n || q = 4 || q = 7 then .trap 2 (x.word.setWidth 64)
  else if a % 32 ≠ 0 then .trap 4 (BitVec.ofNat 64 a)
  else
    match u.localByte a, u.localByte (a + 32 * n - 1) with
    | some _, some _ =>
      let recs := (List.range n).map (fun i => (a + 32 * i))
      let gone := (recs.filterMap (fun r => (u.localByte r).map lineOf)).filter (fun l => !s.linePresent l)
      if !gone.isEmpty then parkOrBlock x s (.lines gone)
      else if !(s.core x.c).storesDone x.sl || !(s.core x.c).readsDone x.sl x.sp || 255 < (s.core x.c).copyCount x.sl x.sp + n then .wait
      else
        let raws := recs.map (fun r => BitVec.ofNat 256 (leValue (s.scratch.bytes ((u.localByte r).getD 0) 32)))
        let ls := raws.flatMap (rqLocal u)
        if !s.wakeReady x g (.copyRoom q n ls) then parkOrBlock x s (.copyRoom q n ls)
        else
          let es := (List.range n).map (fun i => QItem.entry {
            id := s.nextId + i, slot := x.sl, who := splitBit x.sp, mode := (g.split x.sp).mode, asid := g.asid,
            unit := g.unit, raw := raws.getD i 0 })
          let k := s.core x.c
          let t := s.setCore x.c { k with queues := Map.put k.queues q (k.queue q ++ es) }
          .next ({ t with nextId := t.nextId + n }.raiseP ls)
    | _, _ => s.violate x none (BitVec.ofNat 64 a)

/-! ## Barrier-object instructions (11 R219, R220) -/

/-- The object an instruction names, checked: misaligned, beyond the window, or its first byte. -/
def withObj (rs1 : BitVec 5) (x : Ctx) (s : State) (f : Nat → Nat → Res) : Res :=
  let g := s.grp x
  let o := (g.x x.sp rs1).toNat % 2 ^ 32
  if o % 16 ≠ 0 then .trap 6 (BitVec.ofNat 64 o)
  else match (s.unit g.unit).objByte o with
    | some b => f o b
    | none => s.violate x none (BitVec.ofNat 64 o)

/-- The lines that hold a byte of a local range. -/
def Unit.rangeLines (u : Unit) (a c : Nat) : List Nat :=
  if c = 0 then []
  else (List.range ((a + c - 1) / 64 - a / 64 + 1)).filterMap (fun i => (u.localByte (64 * (a / 64 + i))).map lineOf)

def holdBody (set : Bool) (rd rs1 rs2 : BitVec 5) (x : Ctx) (s : State) : Res :=
  let g := s.grp x
  let u := s.unit g.unit
  let a := (g.x x.sp rs1).toNat % 2 ^ 32
  let c := min (g.x x.sp rs2).toNat u.ssize
  if u.ssize ≤ a || u.ssize < a + c then s.violate x none (BitVec.ofNat 64 a)
  else if !(s.core x.c).storesDone x.sl then .wait
  else
    let ls := (u.rangeLines a c).filter (fun l => Map.getD false s.lineH l ≠ set)
    .next ({ s with lineH := ls.foldl (fun m l => Map.setD false m l set) s.lineH }.setX x rd (BitVec.ofNat 64 ls.length))

/-! ## Unit barriers (13 R271) -/

def barReq (xs : List (BitVec 5)) (x : Ctx) (s : State) : Req :=
  { engReq 2 xs with slot := x.handler || (s.grp x).recruit.isSome }

/-- The split arrives; the phase may complete. -/
def State.arrive (s : State) (x : Ctx) (bar : BitVec 4) : State :=
  let g := s.grp x
  let p := g.split x.sp
  let s := s.setGrp x (g.setSplit x.sp { p with marks := p.marks ||| (1#16 <<< bar.toNat) })
  ((s.barSync g.unit).barCheck g.unit bar).barSync g.unit

def State.barPhase (s : State) (x : Ctx) (bar : BitVec 4) : BitVec 16 := ((s.unit (s.grp x).unit).bar bar).phase

/-- The phase has moved on: the instruction returns it, as an acquire at UNIT. -/
def State.barReturn (s : State) (x : Ctx) (rd : BitVec 5) (bar : BitVec 4) : Res :=
  .next ((s.acquire x).setX x rd ((s.barPhase x bar).setWidth 64))

/-! ## Landing copies (11 R210-R215) -/

/-- The oldest entry of a queue, unless a join or a frozen entry stands first. -/
def Core.headEntry (k : Core) (q : Nat) : Option Entry :=
  match (k.queue q).head? with
  | some (.entry e) => if e.dead.isSome then none else some e
  | _ => none

def Core.queueFrozen (k : Core) (q : Nat) : Bool :=
  (k.queue q).any (fun i => match i with | .entry e => e.dead.isSome | .join _ => false)

/-- The first entry not yet fetched; none behind a join. -/
def firstUnfetched : List QItem → Option Entry
  | [] => none
  | .join _ :: _ => none
  | .entry e :: r => if e.fetched then firstUnfetched r else some e

def State.mapEntry (s : State) (c q : Nat) (id : Nat) (f : Entry → Entry) : State :=
  let k := s.core c
  s.setCore c { k with queues := Map.put k.queues q ((k.queue q).map (fun i => match i with
    | .entry e => if e.id = id then .entry (f e) else i
    | .join l => .join l)) }

/-- What an access of a request meets. -/
inductive Reach where
  | place (pl : Place)
  | scratch (byte : Nat)
  | weight (byte : Nat)
  /-- a source whose read has failed: zero bytes (18 R349) -/
  | zeros
  /-- out of lease -/
  | lease
  | violation (cause : Option Nat)
  /-- the walk fails for an S-mode request (R213) -/
  | error
  /-- a weight access inside its refresh window -/
  | later
deriving DecidableEq, Repr

def State.reach (s : State) (c : Nat) (e : Entry) (space a : Nat) (write : Bool) : Reach :=
  let va := BitVec.ofNat 64 a
  if space = 0 then
    if e.mode = .u then
      match s.checkU e.asid va write with
      | some (pl, _) => .place pl
      | none => .lease
    else
      match s.translate e.asid va (if write then .write else .read) e.mode true false with
      | .ok pl _ => .place pl
      | _ => .error
  else if space = 1 then
    match (s.unit e.unit).localByte a with
    | some b => .scratch b
    | none => .violation none
  else
    match s.weightByte (s.unit e.unit).job (dieOf c) a with
    | some b =>
      if write && !(s.die (dieOf c)).wsOpen then .violation (some 32)
      else if s.refreshing b then .later else .weight b
    | none => .violation (if write then some 32 else none)

def State.getByte (s : State) : Reach → Byte
  | .place pl => (s.readPlace pl 1).headD 0
  | .scratch b => s.scratch.get b
  | .weight b => s.weight.get b
  | _ => 0

def State.putByte (s : State) (r : Reach) (d : Byte) : State :=
  match r with
  | .place pl => s.writePlace pl [d]
  | .scratch b => { s with scratch := s.scratch.set b d }
  | .weight b => { s with weight := s.weight.set b d }
  | _ => s

def Reach.key : Reach → Option Nat
  | .place pl => some pl.key
  | .scratch b => some (localBase + b)
  | .weight b => some (2 * localBase + b)
  | _ => none

/-- An access that cannot be made freezes the queue or makes the request an error request; one out of lease ends the unit, and is
not performed (03 R61). -/
def State.stopCopy (s : State) (c q : Nat) (e : Entry) (a : Nat) (r : Reach) : State :=
  let va := BitVec.ofNat 64 a
  match r with
  | .lease => if (s.unit e.unit).ended then s else s.leaseEnd e.unit c 5 va
  | .violation cause =>
    ((s.mapEntry c q e.id (fun e => { e with dead := some (cause, va) })).logViolation c 5 (s.unit e.unit).job cause va).notify
      { cause := cause, unit := e.unit, core := c, slot := 5, value := va }
  | .error => s.mapEntry c q e.id (fun e => { e with err := true })
  | _ => s

def Reach.ok : Reach → Bool
  | .place _ | .scratch _ | .weight _ | .zeros => true
  | _ => false

/-- A source byte: where the request has already written it, the byte as it stood or the value written (R212). -/
def State.sourceByte (s : State) (e : Entry) (r : Reach) : Byte :=
  let now := s.getByte r
  match r.key with
  | none => now
  | some k =>
    match Map.find e.olds k with
    | some old => if Config.overlapSeesOld k then old else now
    | none => now

/-- Moves one byte, both of its accesses possible. -/
def State.moveByte (s : State) (e : Entry) (src dst : Reach) : State × Entry :=
  let d := s.sourceByte e src
  let e := match dst.key with
    | some k => if rqSspace e.raw = rqDspace e.raw && (Map.find e.olds k).isNone then
        { e with olds := Map.put e.olds k (s.getByte dst) } else e
    | none => e
  (s.putByte dst d, e)

/-- One indivisible reduce-add of a word at byte addresses whose accesses are given. -/
def State.addWord (s : State) (e : Entry) (src dst : List Reach) : State :=
  let rd (l : List Reach) : Word32 := BitVec.ofNat 32 (leValue (l.map s.getByte))
  let v := if rqElemFp e.raw then addFp32 .rne (rd dst) (rd src) else rd dst + rd src
  (dst.zip (leBytes v.toNat 4)).foldl (fun s p => s.putByte p.1 p.2) s

/-- The bytes of a request in one destination line. -/
def lineBytes (u : Unit) (raw : BitVec 256) (line : Nat) : List (Nat × Nat × Nat) :=
  (rqBytes u raw).filter (fun b => dstByte raw b.1 b.2.1 b.2.2 / 64 = line)

/-- A line of a request is done with: its pending count falls (R215). -/
def State.lineDone (s : State) (u : Unit) (raw : BitVec 256) (line : Nat) : State :=
  if rqDspace raw = 1 then
    match u.localByte (64 * line) with
    | some b => s.lowerP (lineOf b)
    | none => s
  else s

/-- Performs the accesses of a line, given by their source and destination, word by word or byte by byte; what is out of lease is
not performed. -/
def State.moveLine (s : State) (e : Entry) (l : List (Reach × Reach)) : State × Entry :=
  if rqKind e.raw = 3 then
    ((List.range (l.length / 4)).foldl (fun s i =>
      let w := (l.drop (4 * i)).take 4
      if w.all (fun p => p.1.ok && p.2.ok) then s.addWord e (w.map Prod.fst) (w.map Prod.snd) else s) s, e)
  else (l.filter (fun p => p.1.ok && p.2.ok)).foldl (fun r p => r.1.moveByte r.2 p.1 p.2) (s, e)

/-- Lands a line of the oldest request. An access out of lease ends the unit and is not performed; the rest of the request goes on,
as for a cancel (03 R61). With `lost` its source cannot be read, and gives zeros (18 R349). -/
def State.landLine (s : State) (c q : Nat) (e : Entry) (line : Nat) (lost : Bool) : State :=
  let u := s.unit e.unit
  let raw := e.raw
  let bs := lineBytes u raw line
  let src (b : Nat × Nat × Nat) : Nat := spaceAddr (rqSspace raw) (srcRow e b.2.1 + b.2.2)
  let dst (b : Nat × Nat × Nat) : Nat := dstByte raw b.1 b.2.1 b.2.2
  let rs : List (Nat × Reach) := bs.map (fun b => (src b, match s.reach c e (rqSspace raw) (src b) false with
    | .later => .later
    | r => if lost && r.ok then .zeros else r))
  let ds := bs.map (fun b => (dst b, s.reach c e (rqDspace raw) (dst b) true))
  if bs.isEmpty || e.landed.contains line then s
  else
    match (rs ++ ds).find? (fun p => !p.2.ok && p.2 ≠ .lease) with
    | some p => s.stopCopy c q e p.1 p.2
    | none =>
      let out := (rs ++ ds).find? (fun p => !p.2.ok)
      let s := match out with
        | some p => s.stopCopy c q e p.1 p.2
        | none => s
      let r := s.moveLine e ((rs.map Prod.snd).zip (ds.map Prod.snd))
      (r.1.mapEntry c q e.id (fun _ => { r.2 with landed := e.landed ++ [line], cut := e.cut || out.isSome })).lineDone u raw line

/-- Removes an entry, and the joins that stand first. -/
def State.popEntry (s : State) (c q : Nat) (id : Nat) : State :=
  let k := s.core c
  s.setCore c { k with queues := Map.put k.queues q ((k.queue q).filter (fun i => match i with
    | .entry e => e.id ≠ id
    | .join _ => true)) }

/-- The request is complete: the barrier object, the status word, the presence of an error request's lines, the counter. One whose
bytes have not all landed, for its unit's lease, updates no object (R216). -/
def State.completeCopy (s : State) (c q : Nat) (e : Entry) : State :=
  let u := s.unit e.unit
  let s0 := if e.err then
      ((rqLocal u e.raw).filter (fun l => !(e.landed.any (fun d => (u.localByte (64 * d)).map lineOf = some l)))).foldl
        (fun s l => s.lowerP l) (s.addStatus e.unit c flagCopyerr 0)
    else s
  if rqNobar e.raw || e.cut then s0.popEntry c q e.id
  else
    match u.objByte (rqBar e.raw) with
    | some b => (s0.updateObj b (rqCount u e.raw) (if rqArr e.raw then 1 else 0) e.err).popEntry c q e.id
    | none => s.stopCopy c q e (rqBar e.raw) (.violation none)

/-- The ids of every entry of a list of queues. -/
def Core.idsOf (k : Core) (qs : List Nat) : List Nat :=
  (qs.flatMap k.queue).filterMap (fun i => match i with | .entry e => some e.id | .join _ => none)

/-! ## Meanings -/

/-- R218: Reads n copy requests and appends them to an engine queue. -/
def execCpyk (rs1 rs2 : BitVec 5) (s : State) : Result :=
  issue (encR 0x20#7 rs2 rs1 0#3 0#5 0xB#7)
    (fun x s => { engReq 2 [rs1, rs2] with cycles := 1 + (s.x x rs2).toNat % 128 }) (cpykBody rs1 rs2) s

/-- R219: Initialises a barrier object. It counts in the store counter until it is performed, as its place in the store queue has it, though
06 Table 6.13 does not list it (DESIGN CHOICE, log 11). -/
def execBarinit (rs1 rs2 : BitVec 5) (s : State) : Result :=
  issue (encR 0x21#7 rs2 rs1 0#3 0#5 0xB#7) (fun _ _ => engReq 2 [rs1, rs2])
    (fun x s => withObj rs1 x s (fun o _ =>
      let v := (s.x x rs2).toNat
      if !s.roomFor x false true then .wait
      else
        .next (s.enter x { s.opOf x with
          store := true
          accs := [{ space := 1, addr := BitVec.ofNat 64 o, size := 16, what := .write (leBytes
            (objPack (field v 0 32) (field v 32 16) 0 (field v 0 32) (field v 32 16) false false) 16) }] }))) s

/-- R219: Releases and removes arrivals from a barrier object, returning the phase. -/
def execBararr (rd rs1 rs2 : BitVec 5) (s : State) : Result :=
  issue (encR 0x22#7 rs2 rs1 0#3 rd 0xB#7) (fun _ _ => engReq 2 [rd, rs1, rs2])
    (fun x s => withObj rs1 x s (fun _ b =>
      if !(s.core x.c).released x.sl x.sp then .wait
      else .next ((s.updateObj b 0 ((s.x x rs2).toNat % 2 ^ 16) false).setX x rd ((s.objPhase b).setWidth 64)))) s

/-- R219: Waits until the barrier object's phase differs from p, then acquires. -/
def execBarwait (rd rs1 rs2 : BitVec 5) (s : State) : Result :=
  issue (encR 0x23#7 rs2 rs1 0#3 rd 0xB#7) (fun _ _ => engReq 2 [rd, rs1, rs2])
    (fun x s => withObj rs1 x s (fun _ b =>
      let p : BitVec 16 := (s.x x rs2).setWidth 16
      if !(s.core x.c).storesDone x.sl || s.ownReads x b 16 then .wait
      else if s.objPhase b ≠ p then .next ((s.acquire x).setX x rd ((s.objPhase b).setWidth 64))
      else parkOrBlock x s (.objPhase b p))) s

/-- R220: Clears the presence hold H on a line range. -/
def execPrset (rd rs1 rs2 : BitVec 5) (s : State) : Result :=
  issue (encR 0x24#7 rs2 rs1 0#3 rd 0xB#7) (fun _ _ => engReq 2 [rd, rs1, rs2]) (holdBody false rd rs1 rs2) s

/-- R220: Sets the presence hold H on a line range. -/
def execPrclr (rd rs1 rs2 : BitVec 5) (s : State) : Result :=
  issue (encR 0x25#7 rs2 rs1 0#3 rd 0xB#7) (fun _ _ => engReq 2 [rd, rs1, rs2]) (holdBody true rd rs1 rs2) s

/-- R269: A scoped release, acquire or full fence. -/
def execFenceS (ord : BitVec 2) (scope : BitVec 3) (s : State) : Result :=
  issue (encUF 0#3 ord scope 0#3 0#3 0#3 3#3 0#5 0xB#7) (fun _ _ => { dev := true, bad := ord = 3 })
    (fenceEffect (ord ≠ 1) (ord ≠ 2) (ord = 0) (3 ≤ scope.toNat)) s

/-- R270: Inserts a join into every engine queue named in QMASK. -/
def execQfence (qmask : BitVec 7) (s : State) : Result :=
  issue (encUQ 1#3 0#1 qmask 0#6 3#3 0#5 0xB#7) (fun _ _ => { dev := true })
    (fun x s =>
      let k := s.core x.c
      let qs := (List.range 7).filter (fun q => qmask.getLsbD q)
      let ids := k.idsOf qs
      .next (s.setCore x.c { k with
        queues := qs.foldl (fun m q => if ids.isEmpty then m else Map.put m q (k.queue q ++ [.join ids])) k.queues })) s

/-- R271: Arrives at a unit barrier and waits for its phase to complete. -/
def execBar (rd rs1 : BitVec 5) (s : State) : Result :=
  issue (encR 0x26#7 0#5 rs1 0#3 rd 0xB#7) (barReq [rd, rs1])
    (fun x s =>
      let p := s.spl x
      match (if p.mode = p.trapFrom.getD p.mode then p.arrived else none) with
      | some (bar, ph) => if s.barPhase x bar ≠ ph then s.barReturn x rd bar else .park s (.barPhase bar ph)
      | none =>
        let bar : BitVec 4 := (s.x x rs1).setWidth 4
        let ph := s.barPhase x bar
        if p.marks.getLsbD bar.toNat then .park s (.barPhase bar ph)
        else if !(s.core x.c).released x.sl x.sp then .wait
        else
          let t := s.arrive x bar
          if t.barPhase x bar ≠ ph then t.barReturn x rd bar
          else .park (if p.trapFrom.isSome then t else t.setSpl x { t.spl x with arrived := some (bar, ph) }) (.barPhase bar ph)) s

/-- R271: Arrives at a unit barrier without waiting. -/
def execBarA (rd rs1 : BitVec 5) (s : State) : Result :=
  issue (encR 0x28#7 0#5 rs1 0#3 rd 0xB#7) (barReq [rd, rs1])
    (fun x s =>
      let bar : BitVec 4 := (s.x x rs1).setWidth 4
      let ph := s.barPhase x bar
      if (s.spl x).marks.getLsbD bar.toNat then .park s (.barPhase bar ph)
      else if !(s.core x.c).released x.sl x.sp then .wait
      else .next ((s.arrive x bar).setX x rd (ph.setWidth 64))) s

/-- R271: Waits for a unit barrier phase to pass. -/
def execBarW (rd rs1 rs2 : BitVec 5) (s : State) : Result :=
  issue (encR 0x29#7 rs2 rs1 0#3 rd 0xB#7) (barReq [rd, rs1, rs2])
    (fun x s =>
      let bar : BitVec 4 := (s.x x rs1).setWidth 4
      let ph : BitVec 16 := (s.x x rs2).setWidth 16
      if s.barPhase x bar ≠ ph then s.barReturn x rd bar else .park s (.barPhase bar ph)) s

/-- R209: An engine fetches the next entry of a queue, at most two fetched per queue, unless a join holds it back. A gather reads its index
list when it is fetched, and so is fetched when the entries before it are complete (R210, R212, 13 R267). -/
def execCopyFetch (c : Nat) (q : BitVec 3) (s : State) : Result :=
  let k := s.core c
  let q := q.toNat
  let fetched := (k.queue q).countP (fun i => match i with | .entry e => e.fetched | .join _ => false)
  match (if k.queueFrozen q || 2 ≤ fetched || q = 4 || q = 7 then none else firstUnfetched (k.queue q)) with
  | none => .next s
  | some e =>
    if (s.unit e.unit).saving then .next s
    else if rqKind e.raw = 1 && (k.queue q).head? ≠ some (.entry e) then .next s
    else
    let u := s.unit e.unit
    let bad := rqBad q e.raw
    let ix (r : Nat) : Reach := s.reach c e 1 (spaceAddr 1 (rqIdx e.raw + 4 * r)) false
    let idx : List Word32 := if rqKind e.raw = 1 && !bad then
        (List.range (rqRows e.raw)).map (fun r => BitVec.ofNat 32 (leValue (match ix r with
          | .scratch b => s.scratch.bytes b 4
          | _ => []))) else []
    match (if rqKind e.raw = 1 && !bad then
        (List.range (rqRows e.raw)).find? (fun (r : Nat) => (u.localByte (spaceAddr 1 (rqIdx e.raw + 4 * r) + 3)).isNone) else none) with
    | some r => .next (s.stopCopy c q e (spaceAddr 1 (rqIdx e.raw + 4 * r)) (.violation none))
    | none => .next (s.mapEntry c q e.id (fun e => { e with fetched := true, idx := idx, err := bad }))

/-- The bytes of a line of the oldest request are lost on their way: they are not written, and the line is done (18 R349). -/
def State.loseLine (s : State) (c q : Nat) (e : Entry) (line : Nat) (pass : Bool) : State :=
  if e.landed.contains line || (lineBytes (s.unit e.unit) e.raw line).isEmpty then s
  else
    let s := s.countError (dieOf c) 10 (flockOf c * 2) (BitVec.ofNat 64 line) 3 true pass (some (c, e.slot, e.unit))
    (s.mapEntry c q e.id (fun e => { e with landed := e.landed ++ [line] })).lineDone (s.unit e.unit) e.raw line

/-- A source of a line of the oldest request cannot be read: its part is the first source byte's frame, refresh group, bank, link or port. The
line lands with zeros; the lines of HBM read zero from now on (18 R349, R351). -/
def State.zeroSource (s : State) (c q : Nat) (e : Entry) (line : Nat) (pass : Bool) : State :=
  let u := s.unit e.unit
  let bs := lineBytes u e.raw line
  let rs := bs.map (fun b => (spaceAddr (rqSspace e.raw) (srcRow e b.2.1 + b.2.2), s.reach c e (rqSspace e.raw)
    (spaceAddr (rqSspace e.raw) (srcRow e b.2.1 + b.2.2)) false))
  let t := s.landLine c q e line true
  match (if e.landed.contains line || t = s then [] else rs) with
  | (a, r) :: _ =>
    let t := rs.foldl (fun t p => match p.2 with
      | .place (.hbm pa) => t.zeroLine pa
      | _ => t) t
    let p : Nat × Nat × Nat × Nat := match r with
      | .place (.hbm pa) => (pa / 2 ^ 38, 1, frameOf pa, 2)
      | .place (.host _) => (8 + homeOf (BitVec.ofNat 64 a) / 4, 11, 128, 5)
      | .place _ => (8, 11, 0, 5)
      | .scratch b => (dieOf (b / 32768), 4, errPart 4 b, 2)
      | .weight b => (dieOf c, 3, errPart 3 b, 2)
      | _ => (dieOf c, 10, flockOf c * 2, 5)
    t.countError p.1 p.2.1 p.2.2.1 (BitVec.ofNat 64 a) p.2.2.2 false pass (some (c, e.slot, e.unit))
  | [] => t

/-- R215: A copy request lands its bytes in a line, or finds an error, and the line's pending count P falls, which may make the line present
and wake parked splits. With `err` 1 or 2 the line's bytes are lost on a link whose test passes or fails; with 3 or 4 its source cannot be
read, and the test of the part passes or fails. -/
def execCopyLand (c : Nat) (q : BitVec 3) (err : BitVec 3) (line : Nat) (s : State) : Result :=
  match (s.core c).headEntry q.toNat with
  | some e =>
    if e.fetched && !e.err then
      .next (if err = 1 || err = 2 then s.loseLine c q.toNat e line (err = 1)
        else if err = 3 || err = 4 then s.zeroSource c q.toNat e line (err = 3)
        else s.landLine c q.toNat e line false)
    else .next s
  | none => .next s

/-- R217: A completed copy request updates its barrier object, reloading it and waking BARWAIT waiters at phase completion, and lowers the copy counter. -/
def execCopyComplete (c : Nat) (q : BitVec 3) (s : State) : Result :=
  match (s.core c).headEntry q.toNat with
  | some e =>
    if e.fetched && (e.err || (rqLines (s.unit e.unit) e.raw).all (fun l => e.landed.contains l)) then
      .next (s.completeCopy c q.toNat e)
    else .next s
  | none => .next s

/-- The entries of a core that are not complete: those in its queues, and the fills that a resumed MLOOP has still to repeat. -/
def Core.openIds (k : Core) : List Nat :=
  k.idsOf [0, 1, 2, 3, 4, 5, 6] ++ k.steps.flatMap (fun t => (t.loop.map (fun l => l.redo.flatMap (fun p => [p.1, p.2]))).getD [])

/-- R270: A join completes once every earlier entry of its named queues has completed, releasing later entries for fetch. -/
def execQfenceJoinComplete (c : Nat) (s : State) : Result :=
  let k := s.core c
  let here := k.openIds
  let done (i : QItem) : Bool := match i with
    | .entry _ => false
    | .join ids => ids.all (fun n => !here.contains n)
  .next (s.setCore c { k with queues := k.queues.map (fun q => (q.1, q.2.filter (fun i => !done i))) })

/-- R272: A barrier watchdog reaches LIMIT and the unit ends with BARTIMEOUT. -/
def execBarrierWatchdogExpire (u : Nat) (bar : BitVec 4) (s : State) : Result :=
  let s := s.barSync u
  let x := s.unit u
  let b := x.bar bar
  if b.running && !x.ended then
    let d := s.die (dieOf (x.cores.headD 0))
    let s := { s with cycle := s.cycle + (watchdogLimit d - s.barElapsed b) }
    let late := (s.participants u).filter (fun q => !q.2.2.arrivedAt bar)
    let first := late.foldl (fun (m : Option (Nat × Nat × Group)) q => match m with
      | none => some q
      | some p => if q.2.2.index < p.2.2.index then some q else m) none
    match first with
    | some (c, sl, _) => .next (s.endUnit u c (firstFault 6 (coordOf c) sl) (bar.setWidth 64) false)
    | none => .next s
  else .next s

end Sys2Proof.Machine
end

