-- ==== Sys2Proof/Machine/CrossLane.lean ====
section
/-! DEFINITION. The cross-lane and mask instructions of the LV format (08 R161-R171). -/

namespace Sys2Proof.Machine

/-- A cross-lane instruction (R161). -/
def crossOp (w : Word32) (sh : Shape) (md : Option Word32) (vs : List (BitVec 6)) (vd : BitVec 6)
    (f : Ctx → Group → Nat → Word32) (s : State) : Result := laneOp w sh md vs vd f s

/-- The exact sum, through finish_int (R166). -/
def sumInt (x : Ctx) (md : Option Word32) (vs : List Word32) : Word32 :=
  let sgn := fmtSigned (x.fa fcINT32)
  BitVec.ofNat 32 (finishInt md 32 sgn (vs.foldl (fun t v => t + readInt 32 sgn v.toNat) 0))

/-- The value no other value replaces. -/
def extreme (x : Ctx) (less : Int → Int → Bool) (vs : List Word32) : Word32 :=
  let rd (v : Word32) : Int := readInt 32 (fmtSigned (x.fa fcINT32)) v.toNat
  vs.foldl (fun a b => if less (rd a) (rd b) then b else a) (vs.headD 0)

/-- Mask logic: one cycle, whatever the lanes (R164, R170). -/
def maskOp (w : Word32) (kd ka kb : BitVec 3) (f : Word32 → Word32 → Word32) (s : State) : Result :=
  issue w (fun _ _ => { dev := true })
    (fun x s =>
      let g := s.grp x
      .next (s.setGrp x (g.setMask x.sp kd (f (g.mask x.sp ka) (g.mask x.sp kb))))) s

/-- A shuffle: only an all-zero modifier word is legal, and the class is the entry's (R171). -/
def shuffle (w : Word32) (md : Option Word32) (vd : BitVec 6) (vs : List (BitVec 6)) (cls : Nat)
    (f : Ctx → Group → Nat → Word32) (s : State) : Result :=
  issue w (fun x s => { laneReq shBare md (vd :: vs) x s with
      mdOk := md.getD 0 = 0, cycles := laneCycles (s.grp x) none + cls })
    (fun x s =>
      let g := s.grp x
      .next (s.setGrp x (g.writeLanes x.sp vd (f x g)))) s

/-- R165: Gives each active lane the set of active lanes with a bitwise-equal key. -/
def execLmatch (md : Option (BitVec 32)) (vd va : BitVec 6) (s : State) : Result :=
  crossOp (encLR (mBit md) 0#6 0#6 va vd 0x57#7) shMatch md [va] vd
    (fun x g l =>
      let key := g.route x.sp va (mdA md)
      g.laneMask x.sp (fun j => bit (g.split x.sp).m0 j && ((fun a b => a = b) (key j) (key l)))) s

/-- R165: Gives each active lane the set of active lanes with a numerically equal FP32 key. -/
def execLmatchF (md : Option (BitVec 32)) (vd va : BitVec 6) (s : State) : Result :=
  crossOp (encLR (mBit md) 1#6 0#6 va vd 0x57#7) shMatch md [va] vd
    (fun x g l =>
      let key := g.route x.sp va (mdA md)
      g.laneMask x.sp (fun j => bit (g.split x.sp).m0 j && (j = l || (fun a b => FNum.eq (fp32.value a.toNat) (fp32.value b.toNat)) (key j) (key l)))) s

/-- R166: Integer sum over the active set, written to every active lane. -/
def execLreduceAdd (md : Option (BitVec 32)) (vd va : BitVec 6) (s : State) : Result :=
  crossOp (encLR (mBit md) 2#6 0#6 va vd 0x57#7) shSum md [va] vd
    (fun x g _ =>
      let vs := (g.active x.sp).map (g.route x.sp va (mdA md))
      sumInt x md vs) s

/-- R166: Minimum over the active set. -/
def execLreduceMin (md : Option (BitVec 32)) (vd va : BitVec 6) (s : State) : Result :=
  crossOp (encLR (mBit md) 3#6 0#6 va vd 0x57#7) shExt md [va] vd
    (fun x g _ =>
      let vs := (g.active x.sp).map (g.route x.sp va (mdA md))
      extreme x (fun a b => b < a) vs) s

/-- R166: Maximum over the active set. -/
def execLreduceMax (md : Option (BitVec 32)) (vd va : BitVec 6) (s : State) : Result :=
  crossOp (encLR (mBit md) 4#6 0#6 va vd 0x57#7) shExt md [va] vd
    (fun x g _ =>
      let vs := (g.active x.sp).map (g.route x.sp va (mdA md))
      extreme x (fun a b => a < b) vs) s

/-- R166: FP32 sum over the active set in ascending lane order. -/
def execLreduceFadd (md : Option (BitVec 32)) (vd va : BitVec 6) (s : State) : Result :=
  crossOp (encLR (mBit md) 5#6 0#6 va vd 0x57#7) shFsum md [va] vd
    (fun x g _ =>
      let vs := (g.active x.sp).map (g.route x.sp va (mdA md))
      (scanFp32 x.rnd vs).getLastD 0) s

/-- R167: Inclusive integer prefix sum over the active set. -/
def execLscanAdd (md : Option (BitVec 32)) (vd va : BitVec 6) (s : State) : Result :=
  crossOp (encLR (mBit md) 6#6 0#6 va vd 0x57#7) shSum md [va] vd
    (fun x g l =>
      let below := (g.active x.sp).filter (fun j => decide (j ≤ l))
      sumInt x md (below.map (g.route x.sp va (mdA md)))) s

/-- R167: Inclusive FP32 prefix sum over the active set. -/
def execLscanFadd (md : Option (BitVec 32)) (vd va : BitVec 6) (s : State) : Result :=
  crossOp (encLR (mBit md) 7#6 0#6 va vd 0x57#7) shFsum md [va] vd
    (fun x g l => lookupLane ((g.active x.sp).zip (scanFp32 x.rnd ((g.active x.sp).map (g.route x.sp va (mdA md))))) l) s

/-- R168: Writes the lane-mask value of the active lanes holding a nonzero value. -/
def execLballot (md : Option (BitVec 32)) (vd va : BitVec 6) (s : State) : Result :=
  crossOp (encLR (mBit md) 8#6 0#6 va vd 0x57#7) shMatch md [va] vd
    (fun x g _ =>
      g.laneMask x.sp (fun j => bit (g.split x.sp).m0 j && decide (g.route x.sp va (mdA md) j ≠ 0))) s

/-- R169: Writes a mask of the active lanes below the first failing signed bound compare. -/
def execLwhileLt (md : Option (BitVec 32)) (k : BitVec 3) (va vb : BitVec 6) (s : State) : Result :=
  laneCmp (encLR (mBit md) 9#6 vb va (0#3 ++ k) 0x57#7) shWhile md [va, vb] [] k
    (fun x g l => (g.active x.sp).all (fun j =>
      decide (l < j) || BitVec.slt (g.route x.sp va (mdA md) j) (g.route x.sp vb (mdB md) j))) s

/-- R169: Writes a mask of the active lanes below the first failing unsigned bound compare. -/
def execLwhileLtu (md : Option (BitVec 32)) (k : BitVec 3) (va vb : BitVec 6) (s : State) : Result :=
  laneCmp (encLR (mBit md) 0xA#6 vb va (0#3 ++ k) 0x57#7) shWhile md [va, vb] [] k
    (fun x g l => (g.active x.sp).all (fun j =>
      decide (l < j) || BitVec.ult (g.route x.sp va (mdA md) j) (g.route x.sp vb (mdB md) j))) s

/-- R170: Mask AND. -/
def execMand (kd ka kb : BitVec 3) (s : State) : Result :=
  maskOp (encLR 0#1 0x10#6 (0#3 ++ kb) (0#3 ++ ka) (0#3 ++ kd) 0x57#7) kd ka kb (fun a b => a &&& b) s

/-- R170: Mask OR. -/
def execMor (kd ka kb : BitVec 3) (s : State) : Result :=
  maskOp (encLR 0#1 0x11#6 (0#3 ++ kb) (0#3 ++ ka) (0#3 ++ kd) 0x57#7) kd ka kb (fun a b => a ||| b) s

/-- R170: Mask XOR. -/
def execMxor (kd ka kb : BitVec 3) (s : State) : Result :=
  maskOp (encLR 0#1 0x12#6 (0#3 ++ kb) (0#3 ++ ka) (0#3 ++ kd) 0x57#7) kd ka kb (fun a b => a ^^^ b) s

/-- R170: Mask AND NOT. -/
def execMandn (kd ka kb : BitVec 3) (s : State) : Result :=
  maskOp (encLR 0#1 0x13#6 (0#3 ++ kb) (0#3 ++ ka) (0#3 ++ kd) 0x57#7) kd ka kb (fun a b => a &&& ~~~b) s

/-- R170: Mask NOT. -/
def execMnot (kd ka : BitVec 3) (s : State) : Result :=
  maskOp (encLR 0#1 0x14#6 0#6 (0#3 ++ ka) (0#3 ++ kd) 0x57#7) kd ka 0 (fun a _ => ~~~a) s

/-- R171: Molesy-2 shuffle up by K. -/
def execLshflUp (md : Option (BitVec 32)) (vd va kk : BitVec 6) (s : State) : Result :=
  shuffle (encLR (mBit md) 0x18#6 kk va vd 0x57#7) md vd [va] 1
    (fun x g l => g.route x.sp va (1#3 ++ BitVec.ofNat 5 (kk.toNat % g.lanesSeen)) l) s

/-- R171: Molesy-2 shuffle down by K. -/
def execLshflDn (md : Option (BitVec 32)) (vd va kk : BitVec 6) (s : State) : Result :=
  shuffle (encLR (mBit md) 0x19#6 kk va vd 0x57#7) md vd [va] 1
    (fun x g l => g.route x.sp va (2#3 ++ BitVec.ofNat 5 (kk.toNat % g.lanesSeen)) l) s

/-- R171: Molesy-2 shuffle by XOR with K. -/
def execLshflXor (md : Option (BitVec 32)) (vd va kk : BitVec 6) (s : State) : Result :=
  shuffle (encLR (mBit md) 0x1B#6 kk va vd 0x57#7) md vd [va] 1
    (fun x g l => g.route x.sp va (4#3 ++ BitVec.ofNat 5 (kk.toNat % g.lanesSeen)) l) s

/-- R171: Molesy-2 shuffle by an index register. -/
def execLshflIdx (md : Option (BitVec 32)) (vd va vi : BitVec 6) (s : State) : Result :=
  shuffle (encLR (mBit md) 0x1A#6 vi va vd 0x57#7) md vd [va, vi] 2
    (fun x g l =>
      let j := g.base x.sp + (g.v32 vi l).toNat % g.lanesSeen
      if bit g.exited j then 0 else g.v32 va j) s

end Sys2Proof.Machine
end

