-- ==== Sys2Proof/Machine/Extents.lean ====
section
/-! DEFINITION. The code heap's extents: the pages the executive maps for them, and their removal (05 R79, R80, R86, R104). -/

namespace Sys2Proof.Machine

/-! ## Extents and pages (05 R79, R80; log 10) -/

def pageUp (n : Nat) : Nat := (n + 4095) / 4096 * 4096

/-- The lowest free extent of a length in a job's window. -/
def State.freeExtent (s : State) (job : BitVec 16) (len : Nat) : Option Nat :=
  let mine := s.extents.filter (fun e => e.job = job)
  let starts := 0 :: mine.map (fun e => e.off + e.len)
  let ok (a : Nat) : Bool :=
    decide (a + len ≤ 2 ^ 28) && mine.all (fun e => decide (a + len ≤ e.off) || decide (e.off + e.len ≤ a))
  (starts.filter ok).foldl (fun (b : Option Nat) a => match b with
    | some m => some (min m a)
    | none => some a) none

/-- A frame has been retired: a test of a line of it has failed (18 R351, log 16). -/
def State.retiredFrame (s : State) (f : Nat) : Bool :=
  (s.die (f / 2 ^ 26)).badParts.any (fun p => p.1 = 1 && p.2 = f)

/-- Frames of a die's HBM that hold its frame state, two bits for each frame, the highest (10 R195, log 15). -/
def stateFrames : Nat := (hbmSize / 4096 / 4 + 4095) / 4096

/-- Frames of a die's HBM, from the frame state down, that no pinned translation uses and no failed test has retired: where the
executive puts heap pages. -/
def State.heapFrame (s : State) (die : Nat) : Nat :=
  let top := die * 2 ^ 26 + hbmSize / 4096 - stateFrames
  let used (f : Nat) : Bool := s.pins.any (fun e => pteLoc e.2.1 = 0#3 && ptePpn e.2.1 = f) || s.retiredFrame f
  top - 1 - ((firstFrom (fun i => !used (top - 1 - i)) 0 (s.pins.length + (s.die die).badParts.length + 1)).getD 0)

def pinKey (asid : BitVec 16) (va : Nat) : Nat := asid.toNat * 2 ^ 36 + va / 4096 % 2 ^ 36

/-- Leaf bits of a heap page and of a data window page. -/
def heapLeaf (frame : Nat) : Word64 := BitVec.ofNat 64 (frame * 1024 + 0x5B)
def dataLeaf (frame : Nat) : Word64 := BitVec.ofNat 64 (frame * 1024 + 0xD7)

def State.mapPage (s : State) (asid : BitVec 16) (va : Nat) (leaf : Nat → Word64) (d : List Byte) : State :=
  let f := s.heapFrame (homeOf (BitVec.ofNat 64 va))
  let s := { s with pins := Map.put s.pins (pinKey asid va) (leaf f, 0), hbm := s.hbm.clear (f * 4096) 4096,
                          tracked := Map.setD false s.tracked f (s.jobs.any (fun e => e.2.asid = asid && e.2.dirty)) }
  s.writePlace (.hbm (f * 4096)) d

/-- Maps and fills the pages of a window from an address. -/
def State.mapPages (s : State) (asid : BitVec 16) (leaf : Nat → Word64) : Nat → Nat → List Byte → State
  | 0, _, _ => s
  | n + 1, va, d => (s.mapPage asid va leaf (d.take 4096)).mapPages asid leaf n (va + 4096) (d.drop 4096)

/-- Pages of an address space are unmapped: no pin, TLB entry or cache line of them is left, and their frames are not tracked
unless they are mapped elsewhere (10 R195, log 34). -/
def State.unmapPages (s : State) (asid : BitVec 16) (va len : Nat) : State :=
  let hit (e : Nat × (Word64 × Nat)) : Bool :=
    e.1 / 2 ^ 36 = asid.toNat && decide (va / 4096 ≤ e.1 % 2 ^ 36) && decide (e.1 % 2 ^ 36 < (va + len) / 4096)
  let line (k : Nat) : Bool :=
    k / 2 ^ 58 % 2 ^ 16 = asid.toNat && decide (va / 64 ≤ k % 2 ^ 58) && decide (k % 2 ^ 58 < (va + len) / 64)
  { s with
    pins := s.pins.filter (fun e => !hit e), tlb := s.tlb.filter (fun e => !hit e)
    l1 := s.l1.filter (fun e => !line e.1), dcache := s.dcache.filter (fun e => !line e.1), ilkPages := s.ilkPages.filter (fun e => !hit (e.1, 0, 0))
    tracked := (s.pins.filter hit).foldl (fun m e =>
      if s.pins.any (fun o => !hit o && ptePpn o.2.1 = ptePpn e.2.1) then m else Map.setD false m (ptePpn e.2.1) false) s.tracked }

/-- Heap pages that hold text of an image in interlocked mode, or no longer do: the mode is kept for each page (05 R104). -/
def State.pageModes (s : State) (asid : BitVec 16) (va len : Nat) (ilock : Bool) : State :=
  { s with ilkPages := (List.range (len / 4096)).foldl (fun m i => Map.setD false m (pinKey asid (va + 4096 * i)) ilock) s.ilkPages }

/-- Lines of an address space's heap pages leave the instruction caches of the flocks chosen (05 R80, Table 5.2). -/
def State.icacheDrop (s : State) (flocks : Nat → Bool) (asid : BitVec 16) (va len : Nat) : State :=
  { s with icache := s.icache.filter (fun e =>
      !(flocks (e.1 / 2 ^ 74) && e.1 / 2 ^ 58 % 2 ^ 16 = asid.toNat && decide (va / 64 ≤ e.1 % 2 ^ 58) &&
        decide (e.1 % 2 ^ 58 < (va + len) / 64))) }

/-- RECLAIMING an extent: its entries, cache lines and pages go, those of its data alias too (log 33). -/
def State.reclaim (s : State) (e : Extent) : State :=
  let inside (x : BitVec 128) : Bool := fwdKind x ≠ 0#2 && fwdAsid x = e.asid && decide (e.off ≤ fwdOld x) && decide (fwdOld x < e.off + e.len)
  let s : State := { s with dies := s.dies.map (fun (d : Nat × Die) =>
    if d.1 < 8 then (d.1, { d.2 with fwd := d.2.fwd.filter (fun f => !inside f.2) }) else d) }
  let s := s.icacheDrop (fun _ => true) e.asid (heapBase + e.off) e.len
  let s := (s.unmapPages e.asid (heapBase + e.off) e.len).unmapPages e.asid (heapBase + 0x40000000 + e.off) e.len
  { s with extents := s.extents.filter (fun x => x ≠ e) }

/-- The heap of a job that is deregistered goes: every extent of it, moved and superseded ones too, with its forwarding entries, cache
lines and pages (05 R79, R86). -/
def State.dropHeap (s : State) (job : BitVec 16) : State :=
  (s.extents.filter (fun e => e.job = job)).foldl State.reclaim s

end Sys2Proof.Machine
end

