-- ==== Sys2Proof/Machine/Start.lean ====
section
/-! DEFINITION. The start of groups, recruits and handler slots, and reads and writes the device makes for a job
(01 R22, 06 R108, 09 R173, 14 R274, R279, R284, 16 R326, 17 R334). -/

namespace Sys2Proof.Machine

/-! ## What the device reads and writes in a job's address space -/

/-- The pieces of n bytes from a virtual address that lie in one page each. -/
def pagePieces : Nat → Nat → Nat → List (Nat × Nat)
  | 0, _, _ => []
  | f + 1, va, n =>
    if n = 0 then []
    else
      let m := min n (4096 - va % 4096)
      (va, m) :: pagePieces f (va + m) (n - m)

def piecesOf (va : Word64) (n : Nat) : List (Nat × Nat) := pagePieces (n / 4096 + 2) va.toNat n

/-- The places of the pieces, where every page translates for a user access of the kind (01 R21, 03 R57, R63). -/
def State.devPlaces (s : State) (asid : BitVec 16) (va : Word64) (n : Nat) (write : Bool) : Option (List (Place × Nat)) :=
  (piecesOf va n).foldr (fun p r =>
    match r, s.translate asid (BitVec.ofNat 64 p.1) (if write then .write else .read) .u false false with
    | some l, .ok pl _ => some ((pl, p.2) :: l)
    | _, _ => none) (some [])

def State.devRead (s : State) (asid : BitVec 16) (va : Word64) (n : Nat) : Option (List Byte) :=
  (s.devPlaces asid va n false).map (fun l => l.flatMap (fun p => s.readPlace p.1 p.2))

/-- The write, or none: then nothing is written. -/
def State.devWrite (s : State) (asid : BitVec 16) (va : Word64) (d : List Byte) : Option State :=
  (s.devPlaces asid va d.length true).map (fun l =>
    (l.foldl (fun (r : State × List Byte) p => (r.1.writePlace p.1 (r.2.take p.2), r.2.drop p.2)) (s, d)).1)

/-- The n-byte little-endian field of a structure at an offset. -/
def fieldAt (d : List Byte) (o n : Nat) : Nat := leValue ((d.drop o).take n)
def wordAt (d : List Byte) (o : Nat) : Word64 := BitVec.ofNat 64 (fieldAt d o 8)

/-! ## Group start -/

/-- The S-mode CSRs of a starting group: the die's hart template, and the job's tables (16 R326). -/
def startCsr (d : Die) (j : Job) (hart : Nat) : SCsr :=
  { stvec := d.tStvec, sscratch := d.tSsbase + BitVec.ofNat 64 (256 * hart), sie := d.tSie &&& 0x10222
    satp := 9#4 ++ j.asid ++ j.ptroot.extractLsb' 12 44
    stimecmp := d.tStcmp, scounteren := d.tScen, senvcfg := d.tSenv &&& 1 }

/-- The fresh state of a group of a unit in a slot (06 Table 6.1, 09 Table 9.1, 17 R334); its splits come after. -/
def State.freshGroup (s : State) (u c sl : Nat) : Group :=
  let x := s.unit u
  let j := s.job x.job
  let d := s.die (dieOf c)
  let dom : BitVec 12 := x.job.setWidth 12
  let e := Map.getD 0 d.domains dom.toNat
  { unit := u, gen := x.gen, lw16 := x.lw16, vregs := x.vregs, csr := startCsr d j (hartId c sl)
    dom := dom, tbase := e.extractLsb' 12 40, tlast := e.setWidth 8 }

/-- Starts a group in a slot: the slot's task record is fresh, and the start is an acquire (03 R63). The sends of groups before it that are
outstanding still count in the slot, and its refusals stay in their area (14 R276). -/
def State.startIn (s : State) (c sl : Nat) (g : Group) : State :=
  let w := s.slot c sl
  (s.setSlot c sl { w with
    group := some g, activation := none, seq := 0, tenq := 0, tdeq := 0, tsrch := s.time
    tfn := 0, tvalid := false }).dropL1 c g.asid

/-- A launched group at its entry, with the registers of R22; an LW16 group has a split for each half. -/
def startSplits (g : Group) (entry param : Word64) (uidx gidx : Nat) : Group :=
  let halves : List (Nat × Word32 × Nat) :=
    if g.lw16 then [(0, 0x0000FFFF, 2 * gidx), (1, 0xFFFF0000, 2 * gidx + 1)] else [(0, 0xFFFFFFFF, gidx)]
  halves.foldl (fun g h =>
    let g := g.setSplit h.1 { pc := entry, m0 := h.2.1, lanes := h.2.1 }
    ((g.setX h.1 10 param).setX h.1 11 (BitVec.ofNat 64 uidx)).setX h.1 12 (BitVec.ofNat 64 h.2.2)) { g with index := gidx }

/-! ## Channels and the handler slot -/

/-- A channel as a declaration binds it (01 R17); `text` is the text load address. A HANDLER that is not a multiple of 4, which no load
check tests, is bound as it stands (log 33). -/
def declChannel (text : Word64) (d : Word64) : Nat × Channel :=
  let depth := (d.extractLsb' 8 4).toNat
  ((d.extractLsb' 0 3).toNat,
    { handler := text + (d.extractLsb' 32 32).setWidth 64, bound := true, prio := d.extractLsb' 4 3
      depth := if depth = 0 then 16 else depth })

/-- A unit that declares channels takes a core's channels and its handler slot (14 R274). -/
def State.bindCore (s : State) (u c : Nat) (text : Word64) (decls : List Word64) (ilock : Bool) : State :=
  if decls.isEmpty then s
  else
    let g := s.freshGroup u c handlerSlot
    let lanes : Word32 := if g.lw16 then 0xFFFF else 0xFFFFFFFF
    let g := { g with vregs := 16, ilock := ilock, splits := [(0, { m0 := lanes, lanes := lanes })] }
    let s := s.startIn c handlerSlot g
    s.setCore c { s.core c with
      channels := decls.foldl (fun m d => let e := declChannel text d; Map.put m e.1 e.2) [], chanUnit := some u }

/-- The channel of a core (14 R274). -/
def Core.channel (k : Core) (n : Nat) : Channel := (Map.find k.channels n).getD {}
def Core.setChannel (k : Core) (n : Nat) (x : Channel) : Core := { k with channels := Map.put k.channels n x }

/-! ## Kernels (01 R13-R20) -/

/-- The code heap offset, as an address. -/
def heapAddr (off : Nat) : Word64 := BitVec.ofNat 64 (heapBase + off)

def Kernel.groups (k : Kernel) : Nat := (k.hw0.extractLsb' 0 9).toNat
def Kernel.vregs (k : Kernel) : Nat := 16 * ((k.hw0.extractLsb' 16 2).toNat + 1)
def Kernel.lw16 (k : Kernel) : Bool := k.hw0.getLsbD 18
def Kernel.scratch (k : Kernel) : Nat := (k.hw1.extractLsb' 16 16).toNat * 64
/-- 01 R14: header word 0 places the image in interlocked mode, by ILOCK or by another stepping family. -/
def imageIlock (hw0 : Word32) : Bool := hw0.getLsbD 19 || hw0.extractLsb' 24 8 ≠ 0x31#8

/-- Lane-file bytes the handler slot of a kernel takes (04 R68). -/
def Kernel.handlerBytes (k : Kernel) : Nat := if k.chans.isEmpty then 0 else 2048
/-- Groups a core can host. -/
def Kernel.perCore (k : Kernel) : Nat := min 4 ((32768 - k.handlerBytes) / (128 * k.vregs))
def ceilDiv (a b : Nat) : Nat := (a + b - 1) / b
/-- Cores a unit takes (04 R70). -/
def Kernel.cores (k : Kernel) : Nat := max (max (ceilDiv k.groups k.perCore) (ceilDiv k.scratch 32768)) 1

end Sys2Proof.Machine
end

