-- ==== Sys2Proof/Machine/Launch.lean ====
section
/-! DEFINITION. Launch queues, jobs, replays, admission, completion and cancels (01 R21-R27, 03 R50-R65, 04 R75, R76). -/

namespace Sys2Proof.Machine

/-! ## Access -/

def State.launch (s : State) (l : Nat) : Option Launch := Map.find s.launches l
def State.setLaunch (s : State) (l : Nat) (x : Launch) : State := { s with launches := Map.put s.launches l x }
def State.run (s : State) (r : Nat) : Option Run := Map.find s.runs r
def State.setRun (s : State) (r : Nat) (x : Run) : State := { s with runs := Map.put s.runs r x }
def State.setJob (s : State) (j : BitVec 16) (x : Job) : State := { s with jobs := Map.put s.jobs j.toNat x }
def State.queue (s : State) (q : Nat) : Queue := (Map.find s.queues q).getD {}
def State.setQueue (s : State) (q : Nat) (x : Queue) : State := { s with queues := Map.put s.queues q x }
def State.registered (s : State) (j : BitVec 16) : Bool := j ≠ 0 && (Map.find s.jobs j.toNat).isSome

/-- The IO die of a queue, and its number among the dies that hold error logs. -/
def iodOf (q : Nat) : Nat := q / 32

/-! ## Status words of replays, phases and jobs (03 R62): the earlier first fault is kept -/

def absorb (w : Word64) (add : Word64) : Word64 :=
  let ff := if ffCode w = 0 then add else w
  (ff &&& 0xFFFFF8FF00000000) ||| ((w ||| add) &&& 0x7F0000) ||| BitVec.ofNat 64 (min (errCnt w + errCnt add) 0xFFFF)

/-- The same with the new word first. -/
def absorbBefore (w : Word64) (add : Word64) : Word64 :=
  let ff := if ffCode add = 0 then w else add
  (ff &&& 0xFFFFF8FF00000000) ||| ((w ||| add) &&& 0x7F0000) ||| BitVec.ofNat 64 (min (errCnt w + errCnt add) 0xFFFF)

/-- One dropped write. -/
def droppedWord : Word64 := flagWdrop ||| 1

/-- A job's word takes in the word of its entry `id`; the earliest entry's first fault is kept. -/
def Job.take (j : Job) (id : Nat) (w fa : Word64) : Job :=
  if ffCode w = 0 then { j with status := absorb j.status w }
  else if ffCode j.status = 0 || decide (id < j.ffId) then { j with status := absorbBefore j.status w, faddr := fa, ffId := id }
  else { j with status := absorb j.status w }

/-- A replay's word takes in the word of its node; the lowest node's first fault is kept. -/
def Run.take (r : Run) (idx : Nat) (w fa : Word64) : Run :=
  if ffCode w = 0 then { r with status := absorb r.status w }
  else if ffCode r.status = 0 || decide (idx < r.ffNode) then { r with status := absorbBefore r.status w, faddr := fa, ffNode := idx }
  else { r with status := absorb r.status w }

/-- A write the device drops is logged on an IO die; which structure is named is a free value (18 R355, log 3). -/
def State.logDropped (s : State) (iod : Nat) (job : BitVec 16) (addr : Word64) : State :=
  { s with freeCtr := s.freeCtr + 1 }.logRecord (8 + iod)
    (errRecord s.time addr job 3 ((Config.freeWord s.freeCtr).toNat % 256) 0 noCoord 7 0)

/-- A status write in an address space: nothing where the address is 0, that of JDONE as well (log 33); a write that cannot be performed
is dropped and counts in the word of the level above (03 R63, 18 R350). -/
def State.writeStatus (s : State) (iod : Nat) (job asid : BitVec 16) (addr : Word64) (d : List Byte) : State × Word64 :=
  if addr = 0 then (s, 0)
  else match s.devWrite asid addr d with
    | some t => (t, 0)
    | none => (s.logDropped iod job addr, droppedWord)

/-! ## Jobs (01 R27, 03 R62) -/

/-- A level has retired: what a later cancel finds (03 R64). -/
def State.noteGone (s : State) (level : Nat) (job : BitVec 16) (desc : Word64) : State :=
  { s with gone := s.gone ++ [(level, job, desc)] }

/-- The frames of the HBM that the tables below a table map, by level. -/
def tableFrames (mem : Memory) : Nat → Nat → List Nat
  | 0, a => (List.range 512).filterMap (fun i =>
      let p := mem.word64 (a + 8 * i)
      if pteV p && (pteR p || pteX p) && pteLoc p = 0#3 then some (ptePpn p) else none)
  | lv + 1, a => (List.range 512).flatMap (fun i =>
      let p := mem.word64 (a + 8 * i)
      if !pteV p || pteR p || pteX p then [] else tableFrames mem lv (4096 * ptePpn p))

/-- The executive unmaps what a job that goes had mapped: the frames that its tables and pins name are tracked no more (10 R195), and its
regions of the weight stores are free (10 R200). -/
def State.unmapJob (s : State) (j : BitVec 16) (x : Job) : State :=
  let pinned := (s.pins.filter (fun e => e.1 / 2 ^ 36 = x.asid.toNat)).map (fun e => ptePpn e.2.1)
  { s with
    tracked := if x.dirty then (tableFrames s.hbm 3 x.ptroot.toNat ++ pinned).foldl (fun m f => Map.setD false m f false) s.tracked
      else s.tracked
    regions := s.regions.filter (fun e => e.1 / 8 ≠ j.toNat) }

/-- A job whose counter is 0 writes JDONE and is deregistered; its kernels and its heap go with it, forwarding entries and pages
included. An entry that was denied, which the counter does not count, may still have to retire: it does so in its address space, for no
job (03 R56). -/
def State.jobCheck (s : State) (j : BitVec 16) : State :=
  match Map.find s.jobs j.toNat with
  | none => s
  | some x =>
    if x.counter ≠ 0 then s
    else
      let w := if x.cancelled then x.status ||| flagCancelled else x.status
      let s := (s.writeStatus (iodOf x.queue) j x.asid x.jdone (leBytes w.toNat 8)).1
      let q := s.queue x.queue
      let s := s.setQueue x.queue { q with live := q.live.filter (fun l => l ≠ .job j.toNat) }
      let s := ((s.noteGone 4 j x.desc).unmapJob j x).dropHeap j
      { s with
        jobs := Map.del s.jobs j.toNat
        kernels := s.kernels.filter (fun e => e.2.job ≠ j)
        launches := s.launches.map (fun (e : Nat × Launch) => if e.2.job = j then (e.1, { e.2 with job := 0 }) else e)
        ranges := s.ranges.filter (fun r => !(r.launch = 0 && r.asid = x.asid && decide (heapBase ≤ r.base.toNat))) }

/-- An entry or phase of a job has retired. -/
def State.jobDrop (s : State) (j : BitVec 16) (id : Nat) (w fa : Word64) (counted : Bool) : State :=
  match Map.find s.jobs j.toNat with
  | none => s
  | some x =>
    let x := x.take id w fa
    (s.setJob j { x with counter := if counted then x.counter - 1 else x.counter }).jobCheck j

/-! ## Replays (01 R25, 03 R62, R65) -/

/-- A graph descriptor: NODES, NNODE, HOLD, GDONE. -/
def State.graphAt (s : State) (asid : BitVec 16) (a : Word64) : Option (Word64 × Nat × Bool × Word64) :=
  (s.devRead asid a 32).map (fun d => (wordAt d 0, fieldAt d 8 2, fieldAt d 10 1 % 2 = 1, wordAt d 24))

/-- A fresh launch of a job, dispatched from a queue or enqueued by a replay. -/
def State.newLaunch (s : State) (x : Launch) : State × Nat :=
  ({ s with launches := Map.put s.launches s.nextId x, nextId := s.nextId + 1 }, s.nextId)

/-- Node i of a replay in progress joins its ready list: at most once in a replay. -/
def State.enqueueNode (s : State) (r i : Nat) : State :=
  match s.run r with
  | none => s
  | some x =>
    if !x.active || x.cancelled || x.begun.contains i then s
    else
      let s := s.setRun r { x with begun := x.begun ++ [i] }
      let node := x.nodes.getD i 0
      let d := (s.devRead (s.job x.job).asid node 8).map (fun d => wordAt d 0)
      (s.newLaunch { job := x.job, asid := (s.job x.job).asid, desc := d.getD 0, queue := x.queue, iod := x.iod, run := some r, nidx := i, node := node }).1

/-- The node a counter belongs to, in a replay in progress of a job with the address space. -/
def State.nodeOf (s : State) (asid : BitVec 16) (a : Word64) : Option (Nat × Nat) :=
  s.runs.findSome? (fun e =>
    if e.2.active && (s.job e.2.job).asid = asid then (e.2.counters.findIdx? (fun k => k = a)).map (fun i => (e.1, i)) else none)

/-- What a node descriptor holds at a replay start: PLIVE, PSNAP, COUNTER, INITDEP, and PARAMLEN of its template. The addresses of a node
and of its template are read as they stand, multiples of 64 or not (log 33). -/
def State.nodeAt (s : State) (asid : BitVec 16) (a : Word64) : Option (Word64 × Word64 × Word64 × Nat × Nat) :=
  match s.devRead asid a 64 with
  | none => none
  | some d =>
    let n := ((s.devRead asid (wordAt d 0) 64).map (fun t => fieldAt t 24 2)).getD 0
    some (wordAt d 32, wordAt d 40, wordAt d 8, fieldAt d 16 2, n)

/-- A write that the device makes for a replay; one that cannot be performed, or whose bytes could not be read, is dropped: it is
logged, and it counts in the replay's word (log 10). -/
def State.runWrite (s : State) (r : Nat) (asid : BitVec 16) (a : Word64) (d : Option (List Byte)) : State :=
  match d.bind (s.devWrite asid a) with
  | some t => t
  | none =>
    match s.run r with
    | some x => (s.setRun r { x with status := absorb x.status droppedWord }).logDropped x.iod x.job a
    | none => s

/-- The snapshot of one node; a copy or a counter write that cannot be performed is a dropped write. A node descriptor that cannot be
read has no snapshot and no counter write (log 10). -/
def State.snapNode (s : State) (r : Nat) (asid : BitVec 16) (node : Word64) : State :=
  match s.nodeAt asid node with
  | none => s
  | some (plive, psnap, ctr, dep, n) =>
    (s.runWrite r asid psnap (s.devRead asid plive n)).runWrite r asid ctr (some (leBytes dep 8))

/-- A replay of the graph of a run is in progress: replays of one graph never overlap, whichever entries or phases name it
(01 R25). -/
def State.replaying (s : State) (x : Run) : Bool :=
  s.runs.any (fun e => e.2.active && e.2.graph = x.graph && (s.job e.2.job).asid = (s.job x.job).asid)

/-- A phase waits until every earlier phase of its job has written PBAR, and so has retired (01 R26). -/
def State.phaseWaits (s : State) (r : Nat) (x : Run) : Bool :=
  x.phase.isSome && s.runs.any (fun e => decide (e.1 < r) && e.2.job = x.job && e.2.phase.isSome)

/-- STARTING A REPLAY, one step: snapshots, counters, REPLAYS, and the nodes without predecessors. A node whose descriptor cannot be
read counts as one without predecessors, and its launch is refused (log 10). -/
def State.startReplay (s : State) (r : Nat) : State :=
  match s.run r with
  | none => s
  | some x =>
    let asid := (s.job x.job).asid
    match s.graphAt asid x.graph with
    | none => s
    | some (nodesAt, n, hold, _) =>
      if hold || s.replaying x || s.phaseWaits r x || x.left = 0 || x.cancelled || (s.job x.job).held then s
      else
        let nodes := (List.range n).map (fun i => ((s.devRead asid (nodesAt + BitVec.ofNat 64 (8 * i)) 8).map (fun d => wordAt d 0)).getD 0)
        let infos := nodes.map (s.nodeAt asid)
        let s := s.setRun r { x with
          left := x.left - 1, active := true, nodes := nodes, counter := n, status := 0, faddr := 0, ffNode := 0, begun := []
          counters := infos.map (fun i => (i.map (fun q => q.2.2.1)).getD 0) }
        let s := nodes.foldl (fun s d => s.snapNode r asid d) s
        let s := s.runWrite r asid (x.graph + 16) ((s.devRead asid (x.graph + 16) 8).map (fun d => leBytes ((wordAt d 0) + 1).toNat 8))
        (List.range n).foldl (fun s i => match infos.getD i none with
          | some (_, _, _, dep, _) => if dep = 0 then s.enqueueNode r i else s
          | none => s.enqueueNode r i) s

/-- An entry, or a phase of a job's array, has no replay left: PBAR is written and the job counts it. -/
def State.endRun (s : State) (r : Nat) : State :=
  match s.run r with
  | none => s
  | some x =>
    let w := if x.cancelled then x.pstatus ||| flagCancelled else x.pstatus
    let q := s.queue x.queue
    let s := s.setQueue x.queue { q with live := q.live.filter (fun l => l ≠ .run r) }
    let (s, up) := match x.phase with
      | some (_, pbar) => s.writeStatus x.iod x.job (s.job x.job).asid pbar (leBytes w.toNat 8)
      | none => (s, 0)
    let s := match x.phase with
      | some (d, _) => s.noteGone 3 x.job d
      | none => s
    let s := { s.noteGone 2 x.job x.graph with runs := Map.del s.runs r }
    let j := s.job x.job
    let s := if x.own then s.setJob x.job { j with prun := none, pnext := j.pnext + 1 } else s
    s.jobDrop x.job r (absorb w up) x.pfaddr true

/-- A replay whose counter is 0 retires: GDONE, its word into the entry's or phase's, and the end of the run. -/
def State.runCheck (s : State) (r : Nat) : State :=
  match s.run r with
  | none => s
  | some x =>
    if !x.active || x.counter ≠ 0 then s
    else
      let w := if x.cancelled then x.status ||| flagCancelled else x.status
      let gdone := ((s.graphAt (s.job x.job).asid x.graph).map (fun g => g.2.2.2)).getD 0
      let (s, up) := s.writeStatus x.iod x.job (s.job x.job).asid gdone (leBytes w.toNat 8)
      let pf := if ffCode x.pstatus = 0 && ffCode w ≠ 0 then x.faddr else x.pfaddr
      let s := s.setRun r { x with active := false, status := 0, faddr := 0, pstatus := absorb (absorb x.pstatus w) up, pfaddr := pf }
      if x.left = 0 || x.cancelled then s.endRun r else s

/-- A node's launch has retired, or was discarded. -/
def State.nodeDone (s : State) (r : Nat) : State :=
  match s.run r with
  | none => s
  | some x => (s.setRun r { x with counter := x.counter - 1 }).runCheck r

/-! ## Decrements (03 R65) -/

/-- What a decrement at a counter meets. -/
inductive DepRes where
  | seen (v : Word64)
  | denied
deriving DecidableEq, Repr

/-- depdec at a place: the new state and the value observed; the frame becomes dirty (14 R294). -/
def State.depAt (s : State) (pl : Place) : State × Word64 :=
  let v := leWord (s.readPlace pl 8)
  if v = 0 then
    (match pl with
     | .hbm a => s.markDirty a
     | _ => s, v)
  else (s.writePlace pl (leBytes (v - 1).toNat 8), v)

/-- A decrement that observed 1 enqueues the node whose counter it is. -/
def State.depEnqueue (s : State) (asid : BitVec 16) (a v : Word64) : State :=
  if v = 1 then
    match s.nodeOf asid a with
    | some (r, i) => s.enqueueNode r i
    | none => s
  else s

/-! ## Retirement of a launch (03 R63) -/

/-- The ranges of a launch are removed, and pages that no other lease covers are unpinned. -/
def State.dropRanges (s : State) (l : Nat) : State :=
  let left := s.ranges.filter (fun r => r.launch ≠ l)
  let covered (k : Nat) : Bool := left.any (fun r =>
    r.asid.toNat = k / 2 ^ 36 && decide (r.base.toNat ≤ k % 2 ^ 36 * 4096) && decide (k % 2 ^ 36 * 4096 < r.base.toNat + r.size))
  let mine (k : Nat) : Bool := s.ranges.any (fun r => r.launch = l &&
    r.asid.toNat = k / 2 ^ 36 && decide (r.base.toNat ≤ k % 2 ^ 36 * 4096) && decide (k % 2 ^ 36 * 4096 < r.base.toNat + r.size))
  { s with ranges := left, pins := s.pins.filter (fun e => !(mine e.1 && !covered e.1)) }

/-- The level above a launch: its replay, or its job. -/
def State.launchUp (s : State) (l : Nat) (x : Launch) (w fa : Word64) : State :=
  let q := s.queue x.queue
  let s := if x.run.isNone then s.setQueue x.queue { q with live := q.live.filter (fun e => e ≠ .launch l) } else s
  match x.run with
  | some r =>
    match s.run r with
    | some y => s.setRun r (y.take x.nidx w fa)
    | none => s
  | none => s

/-- The last decrement of a launch is made: its level above counts it. -/
def State.launchDone (s : State) (l : Nat) : State :=
  match s.launch l with
  | none => s
  | some x =>
    let w := x.status
    let s := s.launchUp l x w x.faddr
    let s := { s.noteGone 1 x.job x.desc with launches := Map.del s.launches l }
    match x.run with
    | some r => s.nodeDone r
    | none => s.jobDrop x.job l w x.faddr x.counted

/-- RETIRING A LAUNCH: ranges, DONE, then its successors' decrements in array order; an NSUCC above 1,024 is taken as 1,024
(log 33). -/
def State.retireLaunch (s : State) (l : Nat) : State :=
  match s.launch l with
  | none => s
  | some x =>
    let s := s.dropRanges l
    let w := if x.cancelled then x.status ||| flagCancelled else x.status
    let asid := x.asid
    let (s, up) := s.writeStatus x.iod x.job asid x.done (leBytes w.toNat 8 ++ leBytes (if ffCode w = 0 then 0 else x.faddr.toNat) 8)
    let s := s.setLaunch l { x with stage := .refused, status := absorb w up, ranges := [] }
    let nd := if x.node = 0 then none else s.devRead asid x.node 64
    let succ : List Word64 := match nd with
      | some d => (List.range (min 1024 (fieldAt d 18 2))).map (fun i =>
          ((s.devRead asid (wordAt d 24 + BitVec.ofNat 64 (8 * i)) 8).map (fun e => wordAt e 0)).getD 0)
      | none => []
    let ctr (n : Word64) : Word64 := ((s.devRead asid (n + 8) 8).map (fun e => wordAt e 0)).getD 0
    let decs := (succ.zip (List.range succ.length)).map (fun e =>
      ({ id := s.nextId + e.2, asid := asid, addr := ctr e.1, run := l, last := e.2 + 1 = succ.length } : Dec))
    if decs.isEmpty then s.launchDone l
    else { s with decs := s.decs ++ decs, nextId := s.nextId + decs.length }

/-- A launch that waits for its retirement. -/
def Launch.over (x : Launch) : Bool :=
  x.stage = .refused || (x.stage = .running && x.counter = 0 && x.next = x.gx * x.gy * x.gz && x.cols.all (fun e => e.2.forwarded))

def State.refuse (s : State) (l : Nat) (x : Launch) (code : Nat) (fa : Word64) : State :=
  s.setLaunch l { x with stage := .refused, status := firstFault code noCoord 7, faddr := fa }

/-! ## Admission (03 R57-R59) -/

/-- A page's leaf as admission asks for it. -/
def State.leaseLeaf (s : State) (asid : BitVec 16) (va : Word64) (w : Bool) : Bool :=
  match s.leaf asid va with
  | none => false
  | some (p, lv) => leafUsable va p lv && pteU p && pteR p && (!w || (pteW p && pteD p))

/-- The ranges of a launch with their effective bases, or the fault address of the refusal (01 R16); a base with bit 47 set names an
address of the upper half, its canonical address (log 33). -/
def State.leaseRanges (s : State) (l : Nat) (asid : BitVec 16) (param : Word64) (plen : Nat) (es : List (BitVec 128)) :
    Except Word64 (List Range) :=
  es.foldr (fun e r =>
    let pidx := (e.extractLsb' 48 8).toNat
    let base : Except Word64 (BitVec 48) :=
      if e.getLsbD 56 then
        if plen < 8 * pidx + 8 then .error 0
        else match s.devRead asid (param + BitVec.ofNat 64 (8 * pidx)) 8 with
          | none => .error (param + BitVec.ofNat 64 (8 * pidx))
          | some d => .ok ((wordAt d 0).setWidth 48 + e.extractLsb' 0 48)
      else .ok (e.extractLsb' 0 48)
    match base with
    | .error a => .error a
    | .ok b =>
      if b.extractLsb' 0 12 ≠ 0#12 then .error (b.signExtend 64)
      else r.map (fun rs => { asid := asid, base := b, size := (e.extractLsb' 64 40).toNat, w := e.getLsbD 57, launch := l } :: rs))
    (.ok [])

/-- The address of page p of an address space; a page beyond 2^48 has none (log 33). -/
def pageVa (p : Nat) : Word64 := if p < 2 ^ 36 then sextVa (BitVec.ofNat 64 (4096 * p)) else BitVec.ofNat 64 (4096 * p)

/-- The pages of ranges, ascending and without repetition. -/
def rangePages (rs : List Range) : List Nat :=
  let ps := rs.flatMap (fun r => (List.range (r.size / 4096)).map (fun i => r.base.toNat / 4096 + i))
  (ps.foldl (fun (m : Map Bool) p => Map.put m p true) []).map Prod.fst

/-- Some range that covers a page is writable. -/
def pageWritable (rs : List Range) (p : Nat) : Bool :=
  rs.any (fun r => r.w && decide (r.base.toNat ≤ 4096 * p) && decide (4096 * p < r.base.toNat + r.size))

/-- The checks of 01 R21 on a descriptor that could be read; of a node's launch, PARAM is its node's PSNAP (log 33). -/
def State.descBad (s : State) (x : Launch) : Bool :=
  x.gx = 0 || x.gy = 0 || x.gz = 0 || x.param.extractLsb' 0 4 ≠ 0#4 || x.plen % 8 ≠ 0 || 2048 < x.plen ||
    (match Map.find s.kernels x.kernel with
     | some k => k.job ≠ x.job
     | none => true)

/-- A launch takes its descriptor's fields; a node's launch runs with its node's snapshot (01 R25), and belongs to that node, whatever
NODE of its template says (log 33). -/
def Launch.load (x : Launch) (pceil : BitVec 3) (d psnap : List Byte) : Launch :=
  let pr : BitVec 3 := BitVec.ofNat 3 (fieldAt d 26 1)
  { x with
    kernel := fieldAt d 0 8, gx := fieldAt d 8 4, gy := fieldAt d 12 2, gz := fieldAt d 14 2
    param := if x.run.isSome then wordAt psnap 40 else wordAt d 16, plen := fieldAt d 24 2
    prio := if pceil < pr then pceil else pr, ilock := fieldAt d 27 1 % 2 = 1
    done := wordAt d 32, node := if x.run.isSome then x.node else wordAt d 40 }

/-- ADMISSION up to the request for residency (03 R57): the launch takes the job's generation and the image its handle names now
(05 R81, R85). -/
def State.admitLaunch (s : State) (l : Nat) (x : Launch) : State :=
  let j := s.job x.job
  match s.devRead j.asid x.desc 64 with
  | none => s.refuse l { x with done := 0 } 1 x.desc
  | some d =>
    let x := x.load j.pceil d ((s.devRead j.asid x.node 64).getD [])
    if s.descBad x then s.refuse l x 1 0
    else
      let k := (Map.find s.kernels x.kernel).getD
        { job := 0, text := 0, textLen := 0, dataLen := 0, hw0 := 0, hw1 := 0, entry := 0, leases := [], chans := [], gates := [] }
      match s.leaseRanges l j.asid x.param x.plen k.leases with
      | .error a => s.refuse l x 3 a
      | .ok rs => s.setLaunch l { x with stage := .leasing, ranges := rs, ncores := k.cores, gen := j.gen, image := some k }

/-- The lowest leased page whose leaf the home does not accept (03 R57). -/
def State.badPage (s : State) (asid : BitVec 16) (rs : List Range) : Option Nat :=
  (rangePages rs).find? (fun p => !s.leaseLeaf asid (pageVa p) (pageWritable rs p))

/-- The executive maps the leased pages of a job whose DIRTY is 1: their frames are tracked (10 R195). -/
def State.trackPages (s : State) (x : Launch) : State :=
  let j := s.job x.job
  if !j.dirty then s
  else { s with tracked := (rangePages x.ranges).foldl (fun m p => match s.leaf j.asid (pageVa p) with
      | some (e, _) => if pteLoc e = 0#3 then Map.setD false m (ptePpn e) true else m
      | none => m) s.tracked }

/-- The last step of admission, with every leaf accepted: ranges and pins, the counter; a unit too large is refused (04 R70). -/
def State.install (s : State) (l : Nat) (x : Launch) : State :=
  let asid := (s.job x.job).asid
  let pins := (rangePages x.ranges).foldl (fun m p => match s.leaf asid (pageVa p) with
    | some e => Map.put m (asid.toNat * 2 ^ 36 + p) e
    | none => m) s.pins
  let s : State := { s.trackPages x with ranges := s.ranges ++ x.ranges, pins := pins, nextId := s.nextId + 1 }
  let x : Launch := { x with counter := x.gx * x.gy * x.gz, seq := s.nextId }
  if 96 < x.ncores then s.refuse l x 4 0 else s.setLaunch l { x with stage := .running }

/-! ## Dispatch (03 R52-R56) -/

/-- The entry at the consumer index. -/
def State.entryAt (s : State) (q : Queue) : BitVec 128 :=
  BitVec.ofNat 128 (leValue (s.physRead (q.base.toNat + 16 * (q.cons.toNat % 2 ^ q.logn.toNat)) 16))

/-- A launch of the queue is neither admitted nor retired: a refused one holds the queue until it has retired (03 R54). -/
def State.admitting (s : State) (q : Queue) : Bool :=
  q.live.any (fun e => match e with
    | .launch l => match s.launch l with
      | some x => x.seq = 0
      | none => false
    | _ => false)

/-- Ranges each home holds (03 R59). -/
def homeRanges : Nat := 8192

/-- What a memory holds, in 64 bytes, at the places with an offset in their page; bytes it does not list are 0. -/
def Memory.blocksAt (m : Memory) (off : Nat) : List (List Byte) :=
  (((m.map (fun e => e.1 / 64 * 64)).eraseDups).filter (fun a => a % 4096 = off)).map (fun a => m.bytes a 64)

/-- The descriptor at a virtual address in the address space of the job that it registers (03 R52, 01 R27): the 64 bytes that its own
ASID and PTROOT place at that address. Of several the first in memory (log 10). -/
def State.jobDesc (s : State) (desc : Word64) : Option (List Byte) :=
  ([s.hbm, s.hostMem, s.peerMem].flatMap (fun m => m.blocksAt (desc.toNat % 4096))).find? (fun d =>
    ({ s with roots := Map.put s.roots (fieldAt d 2 2) (wordAt d 8), tlb := [] } : State).devRead
      (BitVec.ofNat 16 (fieldAt d 2 2)) desc 64 = some d)

/-- A job descriptor can be registered: a free number, and a key slot that holds keys (01 R27, 21 R392). -/
def State.jobOk (s : State) (d : List Byte) : Bool :=
  fieldAt d 0 2 ≠ 0 && !s.registered (BitVec.ofNat 16 (fieldAt d 0 2)) && (Map.find s.sec.keys (fieldAt d 4 1)).isSome

/-- An entry of a control queue that registers a job: none of the rules of 03 R55 has it skipped. -/
def State.registers (s : State) (e : BitVec 128) : Bool :=
  e.extractLsb' 64 3 = 3#3 && e.extractLsb' 0 6 = 0#6 && s.jobOk ((s.jobDesc (e.extractLsb' 0 64)).getD [])

/-- An entry that registers a job waits until each home has room for the job's two standing leases (03 R59, 05 R79, log 33). -/
def State.standingRoom (s : State) (q : Queue) : Bool :=
  !q.ctl || decide (s.ranges.length + 2 ≤ homeRanges) || !s.registers (s.entryAt q)

def State.dispatchable (s : State) (q : Queue) : Bool :=
  q.en && !q.qerr && q.prod ≠ q.cons && !s.admitting q && (q.ctl || !(s.job q.qjob).held) && s.standingRoom q &&
    !((s.entryAt q).getLsbD 67 && !q.live.isEmpty)

/-- The queue an IO die dispatches from: the highest QPRIO, round-robin after the queue last served at it (03 R54). -/
def State.nextQueue (s : State) (iod : Nat) : Option Nat :=
  let ready := (List.range 32).filter (fun i => s.dispatchable (s.queue (32 * iod + i)))
  let top := ready.foldl (fun m i => max m (s.queue (32 * iod + i)).qprio.toNat) 0
  let best := ready.filter (fun i => (s.queue (32 * iod + i)).qprio.toNat = top)
  let after := (Map.find s.served (8 * iod + top)).getD (32 * iod + 31) % 32
  ((List.range 32).find? (fun k => best.contains ((after + 1 + k) % 32))).map (fun k => 32 * iod + (after + 1 + k) % 32)

/-- An entry that breaks a rule is skipped (03 R55). -/
def State.skipEntry (s : State) (q : Nat) : State :=
  let x := s.queue q
  s.setQueue q { x with badent := satInc x.badent }

/-- KIND 3: the job is registered, if its key slot holds keys (01 R27, 21 R392); the descriptor is the 64 bytes that its own ASID
and PTROOT place at DESC (`State.jobDesc`, log 10), and its PTROOT is taken as it stands (log 33). The frames its tables map are tracked when its DIRTY is 1
(10 R195). -/
def State.registerJob (s : State) (q : Nat) (desc : Word64) : State :=
  let d := (s.jobDesc desc).getD []
  let id : BitVec 16 := BitVec.ofNat 16 (fieldAt d 0 2)
  let asid : BitVec 16 := BitVec.ofNat 16 (fieldAt d 2 2)
  if !s.jobOk d then s.skipEntry q
  else
    let root := wordAt d 8
    let x := s.queue q
    let s := s.setQueue q { x with live := x.live ++ [.job id.toNat] }
    { s.setJob id {
        asid := asid, ptroot := root, desc := desc, keyslot := fieldAt d 4 1, pceil := BitVec.ofNat 3 (fieldAt d 5 1)
        dirty := fieldAt d 6 1 % 2 = 1, qmask := wordAt d 16, phases := wordAt d 24, nphase := fieldAt d 32 4
        jdone := wordAt d 40, queue := q } with
      roots := Map.put s.roots asid.toNat root
      tlb := s.tlb.filter (fun e => e.1 / 2 ^ 36 ≠ asid.toNat)
      tracked := if fieldAt d 6 1 % 2 = 1 then (tableFrames s.hbm 3 root.toNat).foldl (fun m f => Map.setD false m f true) s.tracked
        else s.tracked
      gone := s.gone.filter (fun e => e.2.1 ≠ id)
      ranges := s.ranges ++ [
        { asid := asid, base := BitVec.ofNat 48 heapBase, size := 2 ^ 28, w := false, launch := 0 },
        { asid := asid, base := BitVec.ofNat 48 (heapBase + 0x40000000), size := 2 ^ 28, w := true, launch := 0 }] }

/-- A run that cannot be read retires at once with BADDESC (log 10). -/
def State.addRun (s : State) (x : Run) (inQueue : Bool) : State :=
  let r := s.nextId
  let asid := (s.job x.job).asid
  let ok := x.left ≠ 0 && (match s.graphAt asid x.graph with
    | some (_, n, _, _) => 1 ≤ n && n ≤ 4096
    | none => false)
  let j := s.job x.job
  let s := { s.setJob x.job { j with counter := j.counter + 1, prun := if x.own then some r else j.prun } with nextId := r + 1 }
  let q := s.queue x.queue
  let s := if inQueue then s.setQueue x.queue { q with live := q.live ++ [.run r] } else s
  if ok then (s.setRun r x).startReplay r
  else (s.setRun r { x with pstatus := firstFault 1 noCoord 7 }).endRun r

/-- A phase descriptor: GRAPH, COUNT, PBAR. -/
def State.phaseRun (s : State) (x : Run) (desc : Word64) : Run :=
  match s.devRead (s.job x.job).asid desc 32 with
  | none => { x with graph := 0, left := 0, phase := some (desc, 0) }
  | some d => { x with graph := wordAt d 0, left := fieldAt d 8 8, phase := some (desc, wordAt d 16) }

/-- QDENY: the word goes to the status address of the entry's descriptor, and into the job's word, which does not count the entry
(03 R56, log 33). -/
def State.denyEntry (s : State) (q kind : Nat) (job : BitVec 16) (desc : Word64) : State :=
  let asid := (s.job job).asid
  let w := firstFault 2 noCoord 7
  let at_ (o : Nat) : Word64 := ((s.devRead asid desc 32).map (fun d => wordAt d o)).getD 0
  if kind = 0 then
    let d := (s.devRead asid desc 64).getD []
    let (s, l) := s.newLaunch { job := job, asid := asid, desc := desc, queue := q, iod := iodOf q, stage := .refused, counted := false
                                done := wordAt d 32, node := wordAt d 40, status := w }
    let x := s.queue q
    s.setQueue q { x with live := x.live ++ [.launch l] }
  else
    let (s, up) := s.writeStatus (iodOf q) job asid (at_ (if kind = 1 then 24 else 16)) (leBytes w.toNat 8)
    { s.jobDrop job s.nextId (absorb w up) 0 false with nextId := s.nextId + 1 }

/-- A LAUNCH entry is dispatched. -/
def State.beginLaunch (s : State) (q : Nat) (job : BitVec 16) (desc : Word64) : State :=
  let j := s.job job
  let (s, l) := (s.setJob job { j with counter := j.counter + 1 }).newLaunch
    { job := job, asid := j.asid, desc := desc, queue := q, iod := iodOf q }
  let x := s.queue q
  s.setQueue q { x with live := x.live ++ [.launch l] }

/-- THE DISPATCH of the entry at a queue's consumer index. -/
def State.dispatch (s : State) (q : Nat) : State :=
  let x := s.queue q
  let e := s.entryAt x
  let desc : Word64 := e.extractLsb' 0 64
  let kind := (e.extractLsb' 64 3).toNat
  let count := (e.extractLsb' 80 16).toNat
  let s := { s.setQueue q { x with cons := x.cons + 1 } with
    served := Map.put s.served (8 * iodOf q + x.qprio.toNat) q }
  let align := if kind = 1 || kind = 2 then 32 else 64
  if 4 ≤ kind || (kind = 1 && count = 0) || desc.toNat % align ≠ 0 || (x.ctl != (kind = 3)) then s.skipEntry q
  else if x.ctl then s.registerJob q desc
  else if !s.registered x.qjob then s.skipEntry q
  else if (s.job x.qjob).cancelled then s
  else if !(s.job x.qjob).qmask.getLsbD q then s.denyEntry q kind x.qjob desc
  else if kind = 0 then s.beginLaunch q x.qjob desc
  else
    let r : Run := { job := x.qjob, graph := desc, queue := q, iod := iodOf q, left := count }
    s.addRun (if kind = 2 then s.phaseRun r desc else r) true

/-! ## Cancel and end (03 R62, R64) -/

/-- The frozen masters of a unit on a core: slot and violating address (18 R354). -/
def Core.frozenOf (k : Core) (u : Nat) : List (Nat × Word64) :=
  ([0, 1, 2, 3, 4].filterMap (fun sl => match (k.slot sl).group with
    | some g => g.frozen.bind (fun q => if g.unit = u then some (sl, q.2) else none)
    | none => none)) ++
  k.queues.flatMap (fun q => q.2.filterMap (fun i => match i with
    | .entry e => e.dead.bind (fun d => if e.unit = u then some (5, d.2) else none)
    | .join _ => none))

/-- FROZEN is the first fault of each frozen master of the unit, its recruits' cores included; then the word of its cancel. A unit that
has ended and waits for its frozen masters, or for what it has issued, is cancelled as well (03 R61). -/
def State.cancelUnit (s : State) (u : Nat) : State :=
  let s := s.cores.foldl (fun s e => (e.2.frozenOf u).foldl (fun s m =>
    s.addStatus u e.1 (firstFault 7 (coordOf e.1) m.1) m.2) s) s
  let t := s.endUnit u ((s.unit u).cores.headD 0) flagCancelled 0 true
  if (t.unit u).ended then t.freeSheep u else t

/-- The word of a unit that is cancelled while it stands in an image: FROZEN for each frozen master in it (18 R348). -/
def Image.cancelWord (i : Image) (u : Nat) (now : Nat) : Report :=
  (i.cores ++ i.recruits).foldl (fun r e => (e.core.frozenOf u).foldl (fun r m =>
    r.combine ⟨firstFault 7 (coordOf e.at_) m.1, m.2, now⟩) r) i.unit.collect.report

/-- A saved unit retires without a resume (16 R330). -/
def State.retireImage (s : State) (u : Nat) (flag : Word64) : State :=
  match Map.find s.images u with
  | none => s
  | some i =>
    let w := if flag = flagCancelled then i.cancelWord u s.cycle else i.unit.collect.report
    { s with
      images := Map.del s.images u, nextId := s.nextId + 1
      dones := s.dones ++ [{ id := s.nextId, launch := i.unit.launch, die := dieOf (i.unit.cores.headD 0)
                             status := w.word ||| flag, faddr := w.addr, ftime := w.time }] }

def State.cancelLaunch (s : State) (l : Nat) : State :=
  match s.launch l with
  | none => s
  | some x =>
    let total := x.gx * x.gy * x.gz
    if x.over then s else
    let x := if x.stage = .asked then ((s.devRead (s.job x.job).asid x.desc 64).map (fun d =>
      x.load (s.job x.job).pceil d ((s.devRead (s.job x.job).asid x.node 64).getD []))).getD x else x
    let s := if x.stage = .running then
        s.setLaunch l { x with cancelled := true, status := x.status ||| flagCancelled
                               counter := x.counter - (total - x.next), next := total }
      else s.setLaunch l { x with cancelled := true, stage := .refused, status := x.status ||| flagCancelled }
    let s := (s.images.filter (fun e => e.2.unit.launch = l)).foldl (fun s e => s.retireImage e.1 flagCancelled) s
    (s.units.filter (fun e => e.2.launch = l)).foldl (fun s e => s.cancelUnit e.1) s

/-- A node that has not placed a unit is discarded. -/
def State.discard (s : State) (l r : Nat) : State :=
  ({ s.dropRanges l with launches := Map.del s.launches l }).nodeDone r

/-- HOLD of the graph of a run is set. -/
def State.holdGraph (s : State) (r : Nat) : State :=
  match s.run r with
  | none => s
  | some x =>
    let asid := (s.job x.job).asid
    s.runWrite r asid (x.graph + 10) ((s.devRead asid (x.graph + 10) 1).map (fun d => [(d.getD 0 0) ||| 1]))

/-- A run with no replay in progress is cancelled: it ends. -/
def State.cancelIdle (s : State) (r : Nat) : State :=
  match s.run r with
  | none => s
  | some x => (s.setRun r { x with left := 0, cancelled := true, pstatus := absorb x.pstatus x.status }).endRun r

/-- A replay is cancelled: HOLD is set, nodes not enqueued or not placed are discarded, running launches are cancelled. A run that is
already cancelled keeps what its cancel left it. -/
def State.cancelRun (s : State) (r : Nat) : State :=
  match s.run r with
  | none => s
  | some x =>
    if x.cancelled then s
    else if !x.active then (s.holdGraph r).cancelIdle r
    else
      let s := s.holdGraph r
      let x := (s.run r).getD x
      let s := s.setRun r { x with
        left := 0, cancelled := true, status := x.status ||| flagCancelled
        counter := x.counter - (x.nodes.length - x.begun.length) }
      let mine := s.launches.filter (fun e => e.2.run = some r)
      let s := mine.foldl (fun s e => if e.2.next = 0 && e.2.stage ≠ .refused then s.discard e.1 r else s.cancelLaunch e.1) s
      s.runCheck r

def State.cancelJob (s : State) (j : BitVec 16) : State :=
  let x := s.job j
  let s := s.setJob j { x with
    cancelled := true, ended := true, counter := if x.ended then x.counter else x.counter - 1 }
  let s : State := { s with queues := s.queues.map (fun (e : Nat × Queue) =>
    if e.2.qjob = j && !e.2.ctl then (e.1, { e.2 with cons := e.2.prod }) else e) }
  let s := (s.runs.filter (fun e => e.2.job = j)).foldl (fun s e => s.cancelRun e.1) s
  let s := (s.launches.filter (fun e => e.2.job = j && e.2.run.isNone)).foldl (fun s e => s.cancelLaunch e.1) s
  s.jobCheck j

def resDone : BitVec 2 := 0
def resRetired : BitVec 2 := 1
def resNotFound : BitVec 2 := 2
def resDenied : BitVec 2 := 3

/-- RES of a level that is not live. -/
def State.goneRes (s : State) (level : Nat) (j : BitVec 16) (desc : Word64) : BitVec 2 :=
  if s.gone.contains (level, j, desc) then resRetired else resNotFound

/-- The live run of a graph or phase that a cancel names: the one whose replay is in progress, else the one admitted first. -/
def State.runNamed (s : State) (level : Nat) (j : BitVec 16) (desc : Word64) : Option (Nat × Run) :=
  let named := s.runs.filter (fun e => e.2.job = j && (if level = 2 then e.2.graph = desc else (e.2.phase.map Prod.fst) = some desc))
  match named.find? (fun e => e.2.active) with
  | some e => some e
  | none => named.head?

/-- CANCEL AND END at a level (03 R64): the new state and RES. A job counts the phases of its array that have started, so that an END
leaves out those that have not (03 R62, log 33). -/
def State.levelOp (s : State) (level : Nat) (op : BitVec 2) (j : BitVec 16) (desc : Word64) : State × BitVec 2 :=
  if level = 0 || 4 < level || 1 < op.toNat || (op = 1 && level ≠ 4) then (s, resDenied)
  else if level = 4 then
    match Map.find s.jobs j.toNat with
    | none => (s, s.goneRes 4 j desc)
    | some x =>
      if x.desc ≠ desc then (s, s.goneRes 4 j desc)
      else if op = 0 then (if x.cancelled then (s, resDone) else (s.cancelJob j, resDone))
      else if x.ended then (s, resDone)
      else ((s.setJob j { x with ended := true, counter := x.counter - 1 }).jobCheck j, resDone)
  else if level = 1 then
    match s.launches.find? (fun e => e.2.job = j && e.2.desc = desc) with
    | none => (s, s.goneRes 1 j desc)
    | some e => if e.2.over then (s, resRetired) else (s.cancelLaunch e.1, resDone)
  else
    match s.runNamed level j desc with
    | none => (s, s.goneRes level j desc)
    | some e => (s.cancelRun e.1, resDone)

/-- Nothing of the unit is outstanding: its stores and fetched copy requests are performed, its recruits have finished,
none of its masters is frozen (18 R354). -/
def State.unitDrained (s : State) (u : Nat) : Bool :=
  s.cores.all (fun e =>
    e.2.ops.all (fun o => o.unit ≠ u || o.accs.all (fun a => a.done || !a.what.writes)) &&
    e.2.queues.all (fun q => q.2.all (fun i => match i with
      | .entry x => x.unit ≠ u
      | .join _ => true)) &&
    [0, 1, 2, 3, 4].all (fun sl => match (e.2.slot sl).group with
      | some g => g.unit ≠ u || (sl = handlerSlot && g.frozen.isNone)
      | none => true)) &&
  s.flights.all (fun f => f.unit ≠ u || f.what.parks)

/-- The counter of a unit is 0: each of its groups has finished, with its queued stores and fetched copy requests performed
(03 Table 3.4). -/
def State.unitOver (s : State) (u : Nat) (x : Unit) : Bool := x.counter = 0 && !x.saving && s.unitDrained u

/-- CANCEL of the unit on a core (14 R296). -/
def State.unitOp (s : State) (op : BitVec 2) (j : BitVec 16) (coord : BitVec 18) : State × BitVec 2 :=
  if op ≠ 0 then (s, resDenied)
  else match coreOf coord with
    | none => (s, resNotFound)
    | some c =>
      match s.units.find? (fun e => e.2.job = j && e.2.cores.contains c) with
      | none => (s, resNotFound)
      | some e => if s.unitOver e.1 e.2 then (s, resRetired) else (s.cancelUnit e.1, resDone)

/-- A write to `lcctl` with GO = 1; DESC names a canonical address (log 33). -/
def State.lcGo (s : State) (op : BitVec 2) (level : BitVec 3) : State :=
  let a := s.lcaddr
  let r := s.levelOp level.toNat op (a.extractLsb' 48 16) (sextVa a)
  { r.1 with lcop := op, lclevel := level, lcres := r.2 }

/-! ## Queue registers (03 R50, R51, R53) -/

/-- A doorbell write of p: accepted, or QERR. A ring that `qsize` has shrunk below its pending entries fails the test for every p, the
current PROD too (log 33). -/
def Queue.doorbell (q : Queue) (p : Word32) : Queue :=
  let a := (p - q.cons).toNat
  let c := (q.prod - q.cons).toNat
  if c ≤ a && a ≤ 2 ^ q.logn.toNat then { q with prod := p } else { q with qerr := true }

/-- A write to `qcfg`; only the host and M-mode write CTL, and QJOB stays while EN is 1. -/
def Queue.config (q : Queue) (mayCtl : Bool) (v : Word64) : Queue :=
  { q with
    ctl := if mayCtl then v.getLsbD 32 else q.ctl
    qjob := if q.en then q.qjob else v.extractLsb' 16 16
    en := v.getLsbD 3, qprio := v.extractLsb' 0 3 }

def Queue.resize (q : Queue) (v : Word64) : Queue :=
  let n : BitVec 5 := v.extractLsb' 0 5
  if q.en || n.toNat < 4 || 16 < n.toNat then q else { q with logn := n }

/-- `qbase`: the low 12 bits of a base, a multiple of 4 KiB, are cleared (log 33). -/
def Queue.rebase (q : Queue) (v : Word64) : Queue :=
  if q.en then q else { q with base := v &&& 0x000FFFFFFFFFF000 }

/-- `qstat`: write-1-to-clear; a bit written 1 clears that bit of BADENT (log 10). -/
def Queue.clear (q : Queue) (v : Word64) : Queue :=
  { q with badent := q.badent &&& ~~~(v.extractLsb' 32 32), qerr := q.qerr && !v.getLsbD 1 }

/-- R53: A write to qprod is accepted when it lies within the ring and makes entries pending; otherwise it sets QERR and leaves PROD unchanged. -/
def execQueueDoorbell (q : BitVec 6) (p : BitVec 32) (s : State) : Result :=
  if s.power.ready then .next (s.setQueue q.toNat ((s.queue q.toNat).doorbell p)) else .next s

/-- R51: A write to qcfg sets EN, QPRIO and QJOB; CTL changes only from the host or M-mode; QJOB is ignored while EN is 1. -/
def execQcfgWrite (q : BitVec 6) (who : Writer) (v : BitVec 64) (s : State) : Result :=
  .next (s.setQueue q.toNat ((s.queue q.toNat).config (who = .host || who = .mmode) v))

/-- R51: A write to qsize is ignored while EN is 1 and leaves LOG2N unchanged when the value is outside 4–16. -/
def execQsizeWrite (q : BitVec 6) (v : BitVec 64) (s : State) : Result :=
  .next (s.setQueue q.toNat ((s.queue q.toNat).resize v))

/-- R53: A write of 1 clears QERR or BADENT; clearing QERR resumes dispatch from CONS. -/
def execQstatClear (q : BitVec 6) (v : BitVec 64) (s : State) : Result :=
  .next (s.setQueue q.toNat ((s.queue q.toNat).clear v))

/-- R54: The dispatcher reads the next dispatchable entry of the highest-priority queue, advances CONS, and handles the entry by KIND or skips it. -/
def execQueueEntryDispatch (iod : BitVec 1) (s : State) : Result :=
  match s.nextQueue iod.toNat with
  | some q => .next (s.dispatch q)
  | none => .next s

/-- R57: Admission reads and checks the launch descriptor, computes the lease bases and requests residency of the leased pages. -/
def execLaunchAdmit (l : Nat) (s : State) : Result :=
  match s.launch l with
  | none => .next s
  | some x =>
    let first := s.launches.all (fun e => !(x.run.isSome && e.2.run = x.run && e.2.stage = .asked && decide (e.1 < l)))
    if x.stage = .asked && first && !(s.job x.job).unplaced then .next (s.admitLaunch l x) else .next s

/-- R59: Once the pages are resident and the home NIs have room, leaf checks pass, translations are pinned, ranges are installed, the launch counter is set and the units go to placement; otherwise LEASEFAIL. -/
def execLeaseInstall (l : Nat) (s : State) : Result :=
  match s.launch l with
  | none => .next s
  | some x =>
    let standing := (s.ranges.filter (fun r => r.launch = 0)).length
    if x.stage ≠ .leasing then .next s
    else match s.badPage (s.job x.job).asid x.ranges with
    | some p => .next (s.refuse l { x with ranges := [] } 3 (pageVa p))
    | none =>
    if homeRanges < standing + x.ranges.length then .next (s.refuse l { x with ranges := [] } 3 0)
    else if homeRanges < s.ranges.length + x.ranges.length then .next s
    else .next (s.install l x)

/-- R25: Once the previous replay has retired and HOLD is 0, the device snapshots every node's parameters, writes the counters, increments REPLAYS and enqueues the root nodes. -/
def execReplayStart (r : Nat) (s : State) : Result :=
  .next (s.startReplay r)

/-- R26: A job's next phase starts after PBAR of the previous phase has been written. -/
def execPhaseStart (job : BitVec 16) (s : State) : Result :=
  match Map.find s.jobs job.toNat with
  | none => .next s
  | some x =>
    if x.pnext < x.nphase && x.prun.isNone && !x.cancelled && !x.held then
      let desc := ((s.devRead x.asid (x.phases + BitVec.ofNat 64 (8 * x.pnext)) 8).map (fun d => wordAt d 0)).getD 0
      let r : Run := { job := job, graph := 0, queue := x.queue, iod := iodOf x.queue, left := 0, own := true }
      .next (s.addRun (s.phaseRun r desc) false)
    else .next s

/-- R75: A done message arriving at a completion-tree node is combined into the node's status and lowers its pending count. -/
def execDoneMessage (n : Nat) (s : State) : Result :=
  match s.dones.find? (fun d => d.id = n) with
  | none => .next s
  | some d =>
    let t := { s with dones := s.dones.filter (fun e => e.id ≠ n) }
    match t.launch d.launch with
    | none => .next t
    | some x =>
      let col := (Map.find x.cols d.die).getD {}
      let w := col.report.combine d.report
      .next (t.setLaunch d.launch { x with cols := Map.put x.cols d.die { col with
        pending := col.pending - 1, count := col.count + 1, status := w.word, faddr := w.addr, ftime := w.time } })

/-- R76: After placing the launch's last unit, the placer sends sealed to every collector of the launch. -/
def execSealed (l : Nat) (s : State) : Result :=
  match s.launch l with
  | none => .next s
  | some x =>
    if x.stage = .running && x.next = x.gx * x.gy * x.gz then
      .next (s.setLaunch l { x with sealed := true, cols := x.cols.map (fun e => (e.1, { e.2 with sealed := true })) })
    else .next s

/-- R76: A sealed collector whose pending count is zero forwards its combined word and unit count to the launch root. -/
def execCollectorForward (l : Nat) (die : BitVec 3) (s : State) : Result :=
  match s.launch l with
  | none => .next s
  | some x =>
    match Map.find x.cols die.toNat with
    | none => .next s
    | some col =>
      if col.sealed && col.pending = 0 && !col.forwarded then
        let w := x.report.combine col.report
        .next (s.setLaunch l { x with
          status := w.word, faddr := w.addr, ftime := w.time, counter := x.counter - col.count
          cols := Map.put x.cols die.toNat { col with forwarded := true, count := 0, status := 0, faddr := 0, ftime := 0 } })
      else .next s

/-- R63: When the launch counter reaches zero, the launch releases its writes, removes its ranges, writes DONE, decrements its successors and decrements the replay or job counter. -/
def execLaunchRetire (l : Nat) (s : State) : Result :=
  match s.launch l with
  | none => .next s
  | some x => if x.over && s.decs.all (fun d => d.run ≠ l) then .next (s.retireLaunch l) else .next s

/-- R65: A dependence counter decrement is performed indivisibly at the counter's home; the decrement that observes 1 enqueues the node, and one that observes 0 sets DEPUNDER. -/
def execCounterDecrement (n : Nat) (s : State) : Result :=
  match s.decs.find? (fun d => d.id = n) with
  | none => .next s
  | some d =>
    if s.decs.any (fun e => e.run = d.run && decide (e.id < d.id)) then .next s
    else
      let t := { s with decs := s.decs.filter (fun e => e.id ≠ n) }
      let mark (t : State) (w : Word64) : State := match t.launch d.run with
        | some x => t.setLaunch d.run { x with status := absorb x.status w }
        | none => t
      let x := ((t.launch d.run).map (fun x => (x.iod, x.job))).getD (0, 0)
      let t := match t.translate d.asid d.addr .write .u false false with
        | .ok pl _ =>
          let r := t.depAt pl
          let t := if r.2 = 0 then mark r.1 flagDepunder else r.1
          t.depEnqueue d.asid d.addr r.2
        | _ => (mark t droppedWord).logDropped x.1 x.2 d.addr
      .next (if d.last then t.launchDone d.run else t)

/-- R64: lcctl GO with OP 0 cancels the launch, graph, phase or job at lcaddr and reports RES. -/
def execLcCancel (level : BitVec 3) (s : State) : Result :=
  if s.power.ready then .next (s.lcGo 0 level) else .next s

/-- R64: lcctl GO with OP 1 removes the host's hold on a job's counter; at any other level it gives RES 3. -/
def execLcEnd (level : BitVec 3) (s : State) : Result :=
  if s.power.ready then .next (s.lcGo 1 level) else .next s

end Sys2Proof.Machine
end

