-- ==== Sys2Proof/Machine/Debug.lean ====
section
/-! DEFINITION. The debug port: halts, steps and breakpoints (19 R360, R365-R369). -/

namespace Sys2Proof.Machine

/-! ## Which slots are traced (19 R360) -/

def Core.tEn (k : Core) : Bool := statusBit k.tctl 59
def Core.tFull (k : Core) : Nat := field k.tctl.toNat 55 3

/-- A slot of a core is traced. -/
def State.traced (s : State) (c sl : Nat) : Bool :=
  let k := s.core c
  let w := k.slot sl
  match w.group with
  | none => false
  | some g =>
    let u := s.unit g.unit
    k.tEn && statusBit k.tctl (48 + sl) && (sl ≠ handlerSlot || w.activation.isSome) &&
      (!statusBit k.tctl 47 || BitVec.ofNat 32 u.index = k.tunit.setWidth 32) &&
      (!statusBit k.tctl 46 || (match s.launch u.launch with
        | some l => l.queue = field k.tctl.toNat 40 6
        | none => false)) &&
      (sl ≠ handlerSlot || !statusBit k.tctl 39 || w.actPc.setWidth 48 = k.tentry.setWidth 48)

/-! ## Halting at an instruction boundary (16 R328, 19 R367) -/

/-- A split leaves the issue slot at its first unissued instruction. Inside a clause CREM counts what is left of it, 1 for an abandoned
instruction of an implicit clause (06 R126); between clauses, and at a header that has not opened its clause, CREM stays as it stands, a
trap's in a handler. -/
def Split.abandon (p : Split) (begun : Bool) : Split :=
  let inside := p.left ≠ 0 || p.fmt.isSome || begun
  let left : BitVec 4 := if p.left = 0 then 1 else p.left
  let p := match p.fmt with
    | some f => { p with pp := true, gfmt := f, fmt := none }
    | none => p
  { p with
    crem := if inside then left else p.crem, cremEngc := if inside then p.engc else p.cremEngc, left := 0, engc := 7, stall := 0
    resume := p.resume || inside || p.armed, armed := false, sfence := none }

/-- The word at the pc of a split is a clause header. -/
def State.atHeader (s : State) (c : Nat) (g : Group) (p : Split) : Bool :=
  match s.fetch c g p.mode p.pc with
  | .word w => (clhWaits w).isSome
  | _ => false

/-- The slot's split, if it holds the issue slot, gives it up. -/
def State.leaveIssue (s : State) (c sl : Nat) : State :=
  match (s.core c).issuing, s.group c sl with
  | some (a, k), some g =>
    if a = sl then
      let s := s.setGroup c sl ((g.setSplit k ((g.split k).abandon ((s.core c).waiting && !s.atHeader c g (g.split k)))).shareFmt k)
      s.setCore c { s.core c with issuing := none, waiting := false }
    else s
  | _, _ => s

def State.haltSlot (s : State) (c sl : Nat) : State :=
  let s := s.leaveIssue c sl
  match s.group c sl with
  | some g => s.setGroup c sl { g with halted := true }
  | none => s

/-- The first counted instruction after a resume raises no breakpoint (19 R365); the splits that resume are tested for a merge
(06 R138). -/
def State.wakeSlot (s : State) (c sl : Nat) : State :=
  match s.group c sl with
  | some g => (s.setGroup c sl { g with
      halted := false, splits := g.splits.map (fun e => (e.1, { e.2 with skipBrk := true })) }).mergeTest c sl
  | none => s

/-- The slots of a unit's agents: groups and recruits, and the handler slot apart. -/
def State.agentsOf (s : State) (u : Nat) : List (Nat × Nat) :=
  s.cores.flatMap (fun e => [0, 1, 2, 3].filterMap (fun sl => match (e.2.slot sl).group with
    | some g => if g.unit = u then some (e.1, sl) else none
    | none => none))
def State.handlersOf (s : State) (u : Nat) : List Nat :=
  (s.cores.filter (fun e => e.2.chanUnit = some u)).map Prod.fst

/-- No activation of the unit can issue: none runs, or it is halted. -/
def State.handlersStopped (s : State) (u : Nat) : Bool :=
  (s.handlersOf u).all (fun c => let w := s.slot c handlerSlot
    w.activation.isNone || (match w.group with
      | some g => g.halted
      | none => true))

/-- Every agent of the unit is halted, by a HALT of the unit or of its groups one by one. -/
def State.unitHalted (s : State) (u : Nat) : Bool :=
  ((s.unit u).halted || !(s.agentsOf u).isEmpty) && s.handlersStopped u && (s.agentsOf u).all (fun a => match s.group a.1 a.2 with
    | some g => g.halted
    | none => true)

/-- HALT of a unit; with `force` a running activation halts too. -/
def State.haltUnit (s : State) (u : Nat) (force : Bool) : State :=
  let s := (s.agentsOf u).foldl (fun s a => s.haltSlot a.1 a.2) s
  let s := if force then (s.handlersOf u).foldl (fun s c =>
      if (s.slot c handlerSlot).activation.isSome then s.haltSlot c handlerSlot else s) s else s
  (s.setUnit u { s.unit u with halted := true }).barSync u

def State.resumeUnit (s : State) (u : Nat) : State :=
  let s := (s.agentsOf u).foldl (fun s a => s.wakeSlot a.1 a.2) s
  let s := (s.handlersOf u).foldl (fun s c => s.wakeSlot c handlerSlot) s
  (s.setUnit u { s.unit u with halted := false }).barSync u

/-! ## The debug port (19 Table 19.7) -/

/-- The unit of a job that has a core; one that has ended is none (19 R369). -/
def State.unitAt (s : State) (job : BitVec 16) (coord : BitVec 18) : Option Nat :=
  (coreOf coord).bind (fun c =>
    (s.units.find? (fun e => e.2.job = job && !e.2.ended && e.2.cores.contains c)).map Prod.fst)

def Die.dbgJob (d : Die) : BitVec 16 := d.dunit.extractLsb' 48 16
def Die.dbgCoord (d : Die) : BitVec 18 := d.dunit.extractLsb' 0 18
def Die.dbgOne (d : Die) : Bool := d.dunit.getLsbD 21
def Die.dbgSlot (d : Die) : Nat := field d.dunit.toNat 18 3

/-- The unit, or with ONE the unit and the slot of its group, that a debug operation addresses. -/
def State.dbgTarget (s : State) (d : Die) : Option (Nat × Option (Nat × Nat)) :=
  match s.unitAt d.dbgJob d.dbgCoord, coreOf d.dbgCoord with
  | some u, some c =>
    if !d.dbgOne then some (u, none)
    else
      let mine (e : Nat × Unit) : Bool := match (if 3 < d.dbgSlot then none else s.group c d.dbgSlot) with
        | some g => g.unit = e.1 && e.2.job = d.dbgJob
        | none => false
      (s.units.find? mine).map (fun e => (e.1, some (c, d.dbgSlot)))
  | _, _ => none

/-- RES and the fields of a debug operation that has been carried out. -/
def State.dbgDone (s : State) (die : Nat) (force : Bool) (op : BitVec 3) (bar : BitVec 5) (res : BitVec 2) : State :=
  let d := s.die die
  s.setDie die { d with dforce := force, dop := op, dbar := bar, dres := res }

/-- A debug operation on the unit that the port addresses: none gives RES 1, one being saved RES 2. -/
def State.dbgOp (s : State) (die : Nat) (force : Bool) (op : BitVec 3) (bar : BitVec 5)
    (act : State → Nat → Option (Nat × Nat) → State × BitVec 2) : State :=
  match s.dbgTarget (s.die die) with
  | none => s.dbgDone die force op bar 1
  | some (u, one) =>
    if (s.unit u).saving then s.dbgDone die force op bar 2
    else
      let r := act s u one
      r.1.dbgDone die force op bar r.2

/-- A participant of a step halts once it has arrived at the barrier and no BAR of it is still to return; an LW16 group when its
arrival takes effect (19 R368). -/
def Group.stepped (g : Group) (now : BitVec 16) (bar : BitVec 4) (ph : BitVec 16) : Bool :=
  (now ≠ ph || g.arrivedAt bar) && (g.lw16 || g.splits.all (fun e => e.2.arrived ≠ some (bar, ph)))

/-- The participants of a step that have arrived halt at this boundary. -/
def State.stepHalt (s : State) (q : Nat × BitVec 4 × BitVec 16) : State :=
  let now := ((s.unit q.1).bar q.2.1).phase
  ((s.participants q.1).foldl (fun s a =>
    if !a.2.2.halted && a.2.2.stepped now q.2.1 q.2.2 then s.haltSlot a.1 a.2.1 else s) s).barSync q.1

/-- Those of every step in progress. -/
def State.stepHalts (s : State) : State := s.dies.foldl (fun s d => d.2.stepping.foldl State.stepHalt s) s

/-- The phase of a step has completed and every participant is halted or has finished (19 R368). -/
def State.stepOver (s : State) (q : Nat × BitVec 4 × BitVec 16) : Bool :=
  ((s.unit q.1).bar q.2.1).phase ≠ q.2.2 && (s.participants q.1).all (fun a => a.2.2.halted)

/-! ## Breakpoints (19 R365) -/

/-- The comparator matches the pc of a split of a traced slot in U-mode. -/
def State.breaks (s : State) (x : Ctx) (pc : Word64) : Bool :=
  let k := s.core x.c
  let p := s.spl x
  statusBit k.tctl 54 && p.mode = .u && !p.skipBrk && s.traced x.c x.sl &&
    pc.extractLsb' 2 46 = k.tbrk.extractLsb' 2 46

/-- What stands at the pc is a counted word, or one whose fetch faults: no CLH that opens a clause, no redirection. -/
def Fetched.counts (q : Fetched) (p : Split) : Bool :=
  match q with
  | .word w => !(fOp w = 0x0B#7 && fF3 w = 7#3) || p.left ≠ 0
  | .fault _ => true
  | .redirect _ => false

/-- The split is about to issue a counted word at BPC. -/
def State.atBreak (s : State) (x : Ctx) : Bool :=
  let p := s.spl x
  s.breaks x p.pc && (s.fetch x.c (s.grp x) p.mode p.pc).counts p

/-- The breakpoint: a trap, or the unit stops as for a HALT with the split at the instruction. -/
def State.takeBreak (s : State) (x : Ctx) : State :=
  let k := s.core x.c
  let p := s.spl x
  if statusBit k.tctl 53 then
    let u := (s.grp x).unit
    ((s.endStepOf u).haltSlot x.c x.sl).haltUnit u false
  else s.takeTrap x.c x.sl x.sp 3 false (k.tbrk &&& 0xFFFFFFFFFFFC) p.pc p.remaining

/-- The instruction that the next step would execute: the agenda is empty and a split is at issue and does not wait. -/
def State.atIssue (s : State) : Option Ctx :=
  if s.agenda.isEmpty && !(s.core s.focus).waiting then s.current else none

/-- The next step stops the unit of a slot at a breakpoint. -/
def State.breaksIn (s : State) (c sl : Nat) : Bool :=
  s.atIssue.any (fun x => x.c = c && x.sl = sl && s.atBreak x && statusBit (s.core c).tctl 53)

/-- R367: The debug port halts the unit or one group, letting a running activation finish unless FORCE is set. -/
def execDebugHalt (die : BitVec 3) (force : Bool) (s : State) : Result :=
  .next (s.dbgOp die.toNat force 0 (s.die die.toNat).dbar (fun s u one =>
    let s := s.endStepOf u
    match one with
    | some (c, sl) => ((s.haltSlot c sl).barSync u, 0)
    | none => (s.haltUnit u force, 0)))

/-- R367: The debug port lets the halted agents of the unit, or of one group, issue again. -/
def execDebugResume (die : BitVec 3) (s : State) : Result :=
  .next (s.dbgOp die.toNat (s.die die.toNat).dforce 1 (s.die die.toNat).dbar (fun s u one =>
    match one with
    | some (c, sl) => ((s.wakeSlot c sl).barSync u, 0)
    | none => ((s.endStepOf u).resumeUnit u, 0)))

/-- R368: A fully halted unit resumes until each participant arrives at barrier BAR. -/
def execDebugStep (die : BitVec 3) (bar : BitVec 5) (s : State) : Result :=
  if 16 ≤ bar.toNat then .next (s.dbgDone die.toNat (s.die die.toNat).dforce 2 bar 3)
  else
    .next (s.dbgOp die.toNat (s.die die.toNat).dforce 2 bar (fun s u _ =>
      if !s.unitHalted u then (s, 3)
      else
        let b : BitVec 4 := bar.setWidth 4
        let ph := ((s.unit u).bar b).phase
        let t := s.resumeUnit u
        (t.setDie die.toNat { t.die die.toNat with stepping := (t.die die.toNat).stepping ++ [(u, b, ph)] }, 0)))

/-- R368: The stepped barrier phase completes and every participant has halted; STEPS is incremented and STOP records are emitted. -/
def execStepEnd (die : BitVec 3) (s : State) : Result :=
  match (s.die die.toNat).stepping.find? s.stepOver with
  | none => .next s
  | some q =>
    let t := s.haltUnit q.1 false
    let d := t.die die.toNat
    .next (t.setDie die.toNat { d with stepping := d.stepping.filter (fun a => a.1 ≠ q.1), dsteps := d.dsteps + 1 })

/-- R366: A dbgctl GO with OP 3–7 or BAR 16–31 gives RES 3. -/
def execDebugBadRequest (die op : BitVec 3) (bar : BitVec 5) (s : State) : Result :=
  if 3 ≤ op.toNat || (op = 2 && 16 ≤ bar.toNat) then
    .next (s.dbgDone die.toNat (s.die die.toNat).dforce op bar 3)
  else .next s

end Sys2Proof.Machine
end

