-- ==== Sys2Proof/Machine/Gates.lean ====
section
/-! DEFINITION. Gate calls into resident services (17 R334-R345). -/

namespace Sys2Proof.Machine

/-- Gate fault (17 R344). -/
def gateFault (reason index : Nat) : Res := .trap 25 (gateVal reason index)

/-! ## The gate table (17 Table 17.2) -/

structure GateEntry where
  v     : Bool
  bad   : Bool
  nest  : Nat
  lwin  : Nat
  amask : BitVec 12
  aval  : BitVec 12
  cdom  : BitVec 12
  fault : BitVec 48
  larg  : BitVec 16
  xarg  : Word32
  xres  : Word32
  casid : BitVec 16
  entry : BitVec 48
deriving DecidableEq, Repr

def gateEntry (e : BitVec 256) : GateEntry :=
  let lwin := (e.extractLsb' 228 5).toNat
  let nest := (e.extractLsb' 233 3).toNat
  let larg : BitVec 16 := e.extractLsb' 128 16
  { v := e.getLsbD 255
    bad := e.extractLsb' 236 19 ≠ 0#19 || e.extractLsb' 0 2 ≠ 0#2 || e.extractLsb' 144 2 ≠ 0#2 || 16 < lwin || 4 < nest ||
      decide (2 ^ lwin ≤ larg.toNat)
    nest := if nest = 0 then 4 else nest, lwin := lwin
    amask := e.extractLsb' 216 12, aval := e.extractLsb' 204 12, cdom := e.extractLsb' 192 12
    fault := e.extractLsb' 144 48, larg := larg, xarg := e.extractLsb' 96 32, xres := e.extractLsb' 64 32
    casid := e.extractLsb' 48 16, entry := e.extractLsb' 0 48 }

/-- Entry g of the table of a group. -/
def State.gateAt (s : State) (g : Group) (i : Nat) : GateEntry :=
  gateEntry (BitVec.ofNat 256 (leValue (s.physRead (g.tbase.toNat * 4096 + 32 * i) 32)))

/-! ## Scrubbing -/

/-- Lane registers below v16 outside a window and mask are cleared in every lane. -/
def Group.scrubLanes (g : Group) (lwin : Nat) (larg : BitVec 16) : Group :=
  { g with v := g.v.filter (fun e => !(e.1 < 512 && (decide (lwin ≤ e.1 / 32) || !larg.getLsbD (e.1 / 32)))) }

/-- Does an x register pass into the callee? -/
def argBit (m : Word32) (i : Nat) : Bool := i ≠ 4 && m.getLsbD i

/-- The caller's x registers go to the shadow and those outside the argument mask are cleared. -/
def Group.stashX (g : Group) (sp : Nat) (xarg : Word32) (tp : Word64) : Group × Map Word64 :=
  (List.range 32).foldl (fun (r : Group × Map Word64) i =>
    let n := BitVec.ofNat 5 i
    if i = 0 || argBit xarg i then r
    else (r.1.setX sp n (if i = 4 then tp else 0), Map.setD 0 r.2 i (g.x sp n))) (g, [])

/-- The caller's x registers come back: those of `xres` keep the callee's value, the others outside the argument mask take
the shadow's, the rest are zero. -/
def Group.unstashX (g : Group) (sp : Nat) (f : GateFrame) (xres : Word32) : Group :=
  (List.range 32).foldl (fun (h : Group) i =>
    let n := BitVec.ofNat 5 i
    if i = 0 || (i ≠ 4 && xres.getLsbD i) then h
    else if argBit f.xarg i then h.setX sp n 0
    else h.setX sp n (Map.getD 0 f.shadow i)) g

/-- Closes the innermost frame `f`; GABORT passes nothing back. -/
def Group.unwind (g : Group) (sp : Nat) (f : GateFrame) (xres : Word32) (larg : BitVec 16) : Group :=
  let g := (g.unstashX sp f xres).scrubLanes f.lwin.toNat larg
  let p := g.split sp
  let g := g.setSplit sp { p with m0 := f.m0, depth := f.depth, stack := f.stack }
  let g := { g with m := f.m, frames := g.frames.dropLast, dom := f.dom, tbase := f.tbase, tlast := f.tlast }
  g.setAsid f.asid

/-! ## GATE and GRET (17 R338, R340) -/

/-- The frame a call opens. -/
def newFrame (g : Group) (p : Split) (e : GateEntry) (i : Nat) (shadow : Map Word64) : GateFrame :=
  { shadow := shadow, ret := p.pc + 4, asid := g.asid, dom := g.dom, tbase := g.tbase, tlast := g.tlast
    gidx := BitVec.ofNat 8 i, xarg := e.xarg, xres := e.xres, larg := e.larg, lwin := BitVec.ofNat 5 e.lwin
    fault := e.fault, m0 := p.m0, m := g.m, depth := p.depth, stack := p.stack }

/-- The call itself: a frame opens and the group runs in the callee's domain and ASID. -/
def State.enterGate (s : State) (x : Ctx) (e : GateEntry) (i : Nat) (t : Word64) : State :=
  let g := s.grp x
  let p := g.split x.sp
  let d := g.frames.length
  let r := g.stashX x.sp e.xarg (BitVec.ofNat 64 (x.c * 16 + x.sl * 4 + d))
  let g' := r.1.scrubLanes e.lwin e.larg
  let g' := { g' with
    m := [], frames := g.frames ++ [newFrame g p e i r.2]
    dom := e.cdom, tbase := t.extractLsb' 12 40, tlast := t.setWidth 8 }
  let g' := (g'.setSplit x.sp { g'.split x.sp with depth := 0, stack := [] }).setAsid e.casid
  (s.setGrp x g').dropL1 x.c e.casid

def gateReq (xs : List (BitVec 5)) : Req := { xs := xs, dev := true, eng := 6, ctl := true }

def gateBody (rs1 : BitVec 5) (x : Ctx) (s : State) : Res :=
  let g := s.grp x
  let p := g.split x.sp
  let i := (g.x x.sp rs1).toNat % 256
  if p.mode = .s then gateFault 1 0
  else if x.handler then gateFault 2 0
  else if g.lw16 then gateFault 3 0
  else if 1 < g.splits.length then gateFault 4 0
  else if !(s.core x.c).quiet x.sl x.sp p then .park s .quiet
  else if g.tlast.toNat < i then gateFault 5 i
  else
    let e := s.gateAt g i
    let t := Map.getD 0 (s.die (dieOf x.c)).domains e.cdom.toNat
    if !e.v then gateFault 5 i
    else if e.bad then gateFault 6 i
    else if (g.dom ^^^ e.aval) &&& e.amask ≠ 0 then gateFault 7 i
    else if e.nest < g.frames.length + 1 then gateFault 8 i
    else if !t.getLsbD 63 then gateFault 9 i
    else .jump (s.enterGate x e i t) (e.entry.setWidth 64)

def gretBody (x : Ctx) (s : State) : Res :=
  let g := s.grp x
  let p := g.split x.sp
  if p.mode = .s then gateFault 1 0
  else if x.handler then gateFault 2 0
  else
    match g.frames.getLast? with
    | none => gateFault 10 0
    | some f =>
      if !(s.core x.c).quiet x.sl x.sp p then .park s .quiet
      else .jump ((s.setGrp x (g.unwind x.sp f f.xres f.larg)).dropL1 x.c f.asid) f.ret

/-! ## GABORT (17 R343) -/

/-- The split of a group that is inside a gate. -/
def Group.gateSplit (g : Group) : Nat := (g.splits.head?.map Prod.fst).getD 0

/-- A group of a unit that has ended, no longer frozen, ends with it (03 R61). -/
def State.releaseEnded (s : State) (u : Nat) : State :=
  if (s.unit u).ended then { s with cores := s.cores.map (fun e => (e.1, e.2.dropUnit u false)) } else s

/-- The frame of the target is closed, and its caller resumes with −1 and the code. -/
def State.abortFrame (s : State) (c sl : Nat) (f : GateFrame) (code : Word64) (own : Bool) : State :=
  match s.group c sl with
  | none => s
  | some g =>
    let sp := g.gateSplit
    let g := g.unwind sp f 0 0
    let g := (g.setX sp 10 (-1)).setX sp 11 code
    let g :=
      if own then { g with csr := { g.csr with sepc := f.ret } }
      else { g.setSplit sp { g.split sp with pc := f.ret, wake := none } with frozen := none }
    ((s.setGroup c sl g).dropL1 c f.asid).barSync g.unit

def gabortBody (rd rs1 rs2 : BitVec 5) (x : Ctx) (s : State) : Res :=
  let g := s.grp x
  let p := g.split x.sp
  let v := g.x x.sp rs1
  let sl := field v.toNat 18 3
  let code := g.x x.sp rs2
  let done (r : Word64) : Res := .next (s.setX x rd r)
  match coreOf (v.setWidth 18) with
  | none => done 1
  | some c =>
    match (if 3 < sl then none else s.group c sl) with
    | none => done 1
    | some t =>
      if (s.unit t.unit).saving then done 1
      else
        match t.frames.getLast? with
        | none => done 2
        | some f =>
          let own := t.frozen.isNone && !t.halted
          if own && !(c = x.c && sl = x.sl && p.trapFrom = some .u) then done 3
          else if !t.splits.all (fun e => (s.core c).quiet sl e.1 e.2) then .park s (.quietOf c sl)
          else .next (((s.abortFrame c sl f code own).releaseEnded t.unit).setX x rd 0)

/-! ## Meanings -/

/-- R338: Calls into a resident service through a gate table entry. -/
def execGate (rs1 : BitVec 5) (s : State) : Result :=
  issue (encR 0x60#7 0#5 rs1 0#3 0#5 0xB#7) (fun _ _ => gateReq [rs1]) (gateBody rs1) s

/-- R340: Returns from a gate frame to the caller. -/
def execGret (s : State) : Result :=
  issue (encR 0x61#7 0#5 0#5 0#3 0#5 0xB#7) (fun _ _ => gateReq []) gretBody s

/-- R343: Unwinds the innermost gate frame of a target group with an error. -/
def execGabort (rd rs1 rs2 : BitVec 5) (s : State) : Result :=
  issue (encR 0x62#7 rs2 rs1 0#3 rd 0xB#7)
    (fun x s => { gateReq [rd, rs1, rs2] with ctl := false, bad := (s.spl x).mode = .u }) (gabortBody rd rs1 rs2) s

end Sys2Proof.Machine
end

