-- ==== Sys2Proof/Machine/LaneMemory.lean ====
section
/-! DEFINITION. The lane memory instructions and DISCARD (10 R199, R203-R207, 17 Table 17.3), and the steps by which accesses
are performed and return (06 R125, 10 R185-R201, 13 R256-R262). -/

namespace Sys2Proof.Machine

/-! ## The addresses of the active lanes -/

/-- A lane access of an instruction: lane, address, bytes. -/
abbrev LaneAddr := Nat × Word64

def misalignedLane (n : Nat) (as_ : List LaneAddr) : Option LaneAddr := as_.find? (fun a => a.2.toNat % n ≠ 0)

/-- The lines of the window that local addresses touch, and that are absent (10 R199). -/
def State.absentLines (s : State) (u : Nat) (n : Nat) (as_ : List LaneAddr) : List Nat :=
  let un := s.unit u
  (as_.flatMap (fun a => [a.2.toNat, a.2.toNat + n - 1].filterMap (fun b => (un.localByte b).map lineOf))).filter
    (fun l => !s.linePresent l)

/-- The first address that an S-mode access cannot reach (10 R187, R203). -/
def State.firstUnmapped (s : State) (g : Group) (md : Mode) (k : Kind) (as_ : List LaneAddr) : Option LaneAddr :=
  as_.find? (fun a => match s.translate g.asid a.2 k md (sumBit g) (mxrBit g) with
    | .ok _ _ => false
    | _ => true)

/-- The place of a privileged access, fixed at issue. -/
def State.fixedPlace (s : State) (g : Group) (md : Mode) (k : Kind) (va : Word64) : Option (Place × BitVec 2) :=
  if md = .u then none
  else match s.translate g.asid va k md (sumBit g) (mxrBit g) with
    | .ok pl attr => some (pl, attr)
    | _ => none

/-- The operation is outstanding. Accesses to the local and the weight space that are protection violations are not performed; the
lowest such lane freezes the group at the instruction's boundary (03 Table 3.3, 18 Table 18.4). -/
def State.enterChecked (s : State) (x : Ctx) (o : Op) : Res :=
  match o.accs.findSome? (fun a => (s.offLimits x.c o a).map (fun cause => (cause, a.addr))) with
  | none => .next (s.enter x o)
  | some (cause, addr) =>
    .frozen (s.enter x { o with accs := o.accs.map (fun a =>
      if (s.offLimits x.c o a).isSome then { a with done := true, wrote := true } else a) }) cause addr

/-- What a lane memory instruction is. -/
structure LaneMem where
  space : BitVec 2
  n     : Nat
  load  : Bool
  store : Bool
  what  : Nat → AccWhat
  vd    : BitVec 6
  hint  : BitVec 2 := 0
  acq   : Bool := false
  rel   : Bool := false

/-- The common course of a lane memory instruction: control-space window, which for a U-mode split is out of every lease (22 R404), alignment, presence, S-mode translation, weight
writes of S-mode, then the operation is outstanding (R203). -/
def laneMemBody (i : LaneMem) (addr : Group → Nat → Word64) (x : Ctx) (s : State) : Res :=
  let g := s.grp x
  let md := (g.split x.sp).mode
  let full (l : Nat) : Word64 := if i.space = 0 then addr g l else ((addr g l).setWidth 32).setWidth 64
  let as_ : List LaneAddr := (g.active x.sp).map (fun l => (l, full l))
  let k : Kind := if i.store then .write else .read
  let glob := i.space = 0 && md ≠ .u
  match (if glob then as_.find? (fun a => inWindow a.2) else none) with
  | some a => .trap (if i.store then 7 else 5) a.2
  | none =>
    match misalignedLane i.n (if i.space = 0 && md = .u then as_.filter (fun a => !inWindow a.2) else as_) with
    | some a => .trap (if i.store then 6 else 4) a.2
    | none =>
      let gone := if i.space = 1 then s.absentLines g.unit i.n as_ else []
      if !gone.isEmpty then (if x.handler then .trap 26 (x.word.setWidth 64) else .park s (.lines gone))
      else
        match (if glob then s.firstUnmapped g md k as_ else none) with
        | some a => .trap (if i.store then 15 else 13) a.2
        | none =>
          match (if i.space = 2 && i.store && md ≠ .u then as_.head? else none) with
          | some a => .trap 32 a.2
          | none =>
            if !s.roomFor x i.load i.store then .wait
            else
              s.enterChecked x { s.opOf x with
                load := i.load, store := i.store, vd := i.vd, hint := i.hint, acq := i.acq,
                behind := if i.rel then s.nextId else (s.spl x).rel
                accs := as_.map (fun a => {
                  lane := a.1, space := i.space, addr := a.2, size := i.n, what := i.what a.1,
                  place := if i.space = 0 then s.fixedPlace g md k a.2 else none }) }

/-- 17 Table 17.3: spaces other than global inside a gate frame. -/
def spaceFence (space : BitVec 2) : Option (Nat × Nat) := if space = 0 then none else some (11, 0)

/-- A lane value to store: the low n bytes, of two registers where n is 8. -/
def laneBytes (g : Group) (vd : BitVec 6) (n l : Nat) : List Byte :=
  if n = 8 then leBytes (g.v32 vd l).toNat 4 ++ leBytes (g.v32 (vd + 1) l).toNat 4 else leBytes (g.v32 vd l).toNat n

/-- LLD and LST: address x[xs] + sext(v[VO]) + IMM6 · 4 (R204). -/
def lmBody (store : Bool) (imm : BitVec 6) (wid : BitVec 1) (space : BitVec 2) (vd : BitVec 6) (xs vo : BitVec 5)
    (x : Ctx) (s : State) : Res :=
  let n := if wid = 1 then 8 else 4
  let g0 := s.grp x
  laneMemBody {
      space := space, n := n, load := !store, store := store, vd := vd
      what := fun l => if store then .write (laneBytes g0 vd n l) else .read }
    (fun g l => g.x x.sp xs + (g.v32 (vo.setWidth 6) l).signExtend 64 + (imm.signExtend 64 <<< 2)) x s

def lmReq (wid : BitVec 1) (space : BitVec 2) (vd : BitVec 6) (xs vo : BitVec 5) (x : Ctx) (s : State) : Req :=
  { xs := [xs], dev := true, bad := space = 3
    vs := [vd.toNat, vo.toNat] ++ (if wid = 1 then [vd.toNat + 1] else [])
    fence := spaceFence space, cycles := laneCycles (s.grp x) none }

/-- LLDC and LSTC: bytes of an access by ww (R205). -/
def hintedBytes (ww : BitVec 2) : Nat := 2 ^ ww.toNat

def hintedBody (store : Bool) (md : Option Word32) (ww hh : BitVec 2) (vd : BitVec 6) (xs : BitVec 5) (va : BitVec 6)
    (x : Ctx) (s : State) : Res :=
  let n := hintedBytes ww
  let g0 := s.grp x
  laneMemBody {
      space := 0, n := n, load := !store, store := store, vd := vd, hint := hh
      what := fun l => if store then .write (laneBytes g0 vd n l) else .read }
    (fun g l => g.x x.sp xs + (g.route x.sp va (mdA md) l).signExtend 64) x s

def hintedReq (md : Option Word32) (ww hh : BitVec 2) (vd : BitVec 6) (xs : BitVec 5) (va : BitVec 6) (x : Ctx)
    (s : State) : Req :=
  { laneReq shMatch md [vd, va] x s with xs := [xs], bad := ww = 3 || hh = 3 }

/-! ## Steps of the memory system -/

/-- The operation an event names, if the core has it. -/
def onOp (c id : Nat) (s : State) (f : Op → State) : Result :=
  match (s.core c).op id with
  | some o => .next (f o)
  | none => .next s

/-! ## Accesses with an error (18 R349-R351, log 16) -/

/-- An access that `perform` would carry out now is carried out with lost data: a read or a read-modify-write returns zero, a write is not
performed. `zero` clears what it reads. -/
def State.loseData (s : State) (c : Nat) (o : Op) (i : Nat) (a : Acc) (zero : State → State) : State :=
  if a.what.writes && !(match a.what with
    | .atom _ _ _ => true
    | _ => false) then s.putAcc c o i { a with done := true }
  else (zero s).putAcc c o i { a with done := true, val := some 0 }

/-- The access is a plain write, whose loss is WDROP. -/
def AccWhat.drops : AccWhat → Bool
  | .write _ => true
  | .discard => true
  | _ => false

/-- The home before it translates an access: its TLB holds the page, or has to walk (10 R187). -/
def State.atHome (s : State) (o : Op) (a : Acc) (fill : Bool) : State :=
  if a.place.isSome then s else if fill then s.refill o.asid a.addr else s.evict o.asid a.addr

/-- AN ACCESS AT ITS HOME: `err` 0 none, 1 and 4 a corrected error whose test passes or fails, 2 and 3 one that cannot be corrected
whose test passes or fails, 5 and 6 retries of a link exhausted whose test passes or fails, 7 an L2 line that cannot be corrected, in a way
whose test fails. A peer or host access that fails there is one whose link failed (log 16). -/
def State.homeAccess (s : State) (c : Nat) (o : Op) (i : Nat) (a : Acc) (fill : Bool) (err : BitVec 3) : State :=
  let s := s.atHome o a fill
  let t := s.perform c o i fill
  let performed := match (t.core c).op o.id with
    | some p => !a.done && (p.accs[i]?).any (fun b => b.done)
    | none => false
  let who : Consumer := some (c, o.slot, o.unit)
  match s.target c o a with
  | .place pl attr =>
    let cached := a.what = .read && attr = 0 && fill && (s.l1Line c o.asid a.addr).isSome
    if err = 0 || !performed || cached then t
    else
      match pl with
      | .hbm pa =>
        let die := pa / 2 ^ 38
        let addr := BitVec.ofNat 64 pa
        if err = 1 || err = 4 then t.countError die 1 (frameOf pa) addr 1 false (err = 1) who
        else if err = 2 || err = 3 || err = 7 then
          (if a.what = .read then (s.zeroLine pa).perform c o i fill else s.loseData c o i a (fun s => s.zeroLine pa)).countError die
            (if err = 7 then 2 else 1) (if err = 7 then errPart 2 pa else frameOf pa) addr (if a.what.drops then 3 else 2) a.what.drops (err = 2) who
        else (s.loseData c o i a id).countError (dieOf c) 10 (flockOf c * 2) a.addr 5 a.what.drops (err = 5) who
      | pl =>
        let port := portOf pl a.addr
        if err = 1 || err = 4 then t.countError port.1 11 port.2 a.addr 1 false (err = 1) who
        else (s.loseData c o i a id).countError port.1 11 port.2 a.addr 5 a.what.drops (err ≠ 3 && err ≠ 6) who
  | _ => t

/-- A read of a scratchpad or of the weight store with `err` 0 none, 1 a corrected error, 2 one that cannot be corrected, 3 and 4 retries of
the mesh exhausted, whose link passes or fails its test: every read of the instruction in the protected unit, 8 bytes, is performed with it and gets zero, which counts 1. -/
def State.localRead (s : State) (c : Nat) (o : Op) (i : Nat) (a : Acc) (err : BitVec 3) : State :=
  let t := s.perform c o i false
  let done (s : State) (i : Nat) (a : Acc) : Bool := match (s.core c).op o.id with
    | some p => !a.done && (p.accs[i]?).any (fun b => b.done)
    | none => false
  let part (a : Acc) : Option (Nat × Nat) := match s.target c o a with
    | .scratch b => some (4, b)
    | .weight b => some (3, b)
    | _ => none
  match part a with
  | none => t
  | some (kind, b) =>
    let die := dieOf c
    let who : Consumer := some (c, o.slot, o.unit)
    let p := errPart kind b
    if err = 0 || !done t i a then t
    else if err = 1 then t.countError die kind p a.addr 1 false true who
    else
      let same (a : Acc) : Bool := !a.done && !a.what.writes && a.space ≠ 0 && (match part a with
        | some (k, b') => k = kind && b' / 8 = b / 8
        | none => false)
      let z := ((List.range o.accs.length).zip o.accs).foldl (fun (z : State) q =>
        if same q.2 then
          match (z.core c).op o.id with
          | some o' =>
            let w := z.perform c o' q.1 false
            if done w q.1 q.2 then w.putAcc c ((w.core c).op o.id |>.getD o') q.1 { q.2 with done := true, val := some 0 } else z
          | none => z
        else z) s
      if err = 2 then z.countError die kind p a.addr 2 false true who
      else z.countError die 10 (flockOf c * 2) a.addr 5 false (err ≠ 4) who

/-- The first write of an operation to a scratchpad that may be performed now is lost; a read-modify-write reads zero. -/
def State.loseLocal (s : State) (c : Nat) (o : Op) : State :=
  match ((List.range o.accs.length).zip o.accs).find? (fun q => !q.2.done && q.2.what.writes && q.2.space ≠ 0) with
  | none => s
  | some (i, a) =>
    match s.target c o a with
    | .scratch b =>
      if s.mayWrite c ((s.core c).before o) o i then
        (s.loseData c o i a id).countError (dieOf c) 4 (errPart 4 b) a.addr (if a.what.drops then 3 else 2) a.what.drops true
          (some (c, o.slot, o.unit))
      else s
    | _ => s

/-! ## Meanings -/

/-- R204: Lane load from the global, local or weight space. -/
def execLld (imm : BitVec 6) (wid : BitVec 1) (space : BitVec 2) (vd : BitVec 6) (xs vo : BitVec 5) (s : State) : Result :=
  issue (encLM imm wid xs space vo vd 7#7) (lmReq wid space vd xs vo)
    (lmBody false imm wid space vd xs vo) s

/-- R204: Lane store to the global, local or weight space. -/
def execLst (imm : BitVec 6) (wid : BitVec 1) (space : BitVec 2) (vd : BitVec 6) (xs vo : BitVec 5) (s : State) : Result :=
  issue (encLM imm wid xs space vo vd 0x27#7) (lmReq wid space vd xs vo)
    (lmBody true imm wid space vd xs vo) s

/-- R205: Hinted global lane load of a byte, half or word. -/
def execLldc (md : Option (BitVec 32)) (ww hh : BitVec 2) (vd : BitVec 6) (xs : BitVec 5) (va : BitVec 6) (s : State) : Result :=
  issue (encLX (mBit md) (2#3 ++ ww ++ hh) xs va vd 0x7B#7) (hintedReq md ww hh vd xs va)
    (hintedBody false md ww hh vd xs va) s

/-- R205: Hinted global lane store of a byte, half or word. -/
def execLstc (md : Option (BitVec 32)) (ww hh : BitVec 2) (vd : BitVec 6) (xs : BitVec 5) (va : BitVec 6) (s : State) : Result :=
  issue (encLX (mBit md) (3#3 ++ ww ++ hh) xs va vd 0x7B#7) (hintedReq md ww hh vd xs va)
    (hintedBody true md ww hh vd xs va) s

/-- R206: Lane atomic read-modify-write in global or local space. -/
def execLatom (md : Option (BitVec 32)) (loc : BitVec 1) (oo : BitVec 2) (op : BitVec 3) (vd : BitVec 6) (xs : BitVec 5) (va : BitVec 6) (s : State) : Result :=
  issue (encLX (mBit md) (1#1 ++ loc ++ oo ++ op) xs va vd 0x7B#7)
    (fun x s =>
      let r := laneReq shMatch md [vd, va] x s
      { r with
        xs := [xs], vs := r.vs ++ (if op = 7 then [vd.toNat + 1] else [])
        fence := spaceFence (loc.setWidth 2) })
    (fun x s =>
      let g0 := s.grp x
      laneMemBody {
          space := loc.setWidth 2, n := 4, load := true, store := true, vd := vd, acq := oo = 1 || oo = 3, rel := oo = 2 || oo = 3
          what := fun l => .atom op (g0.v32 vd l) (g0.v32 (vd + 1) l) }
        (fun g l => g.x x.sp xs + (g.route x.sp va (mdA md) l).signExtend 64) x s) s

/-- R207: Enqueues discard marks for up to 65,536 pages. -/
def execDiscard (rd rs1 rs2 : BitVec 5) (s : State) : Result :=
  issue (encR 0x27#7 rs2 rs1 0#3 rd 0xB#7) (fun _ _ => { xs := [rd, rs1, rs2], dev := true, eng := 2 })
    (fun x s =>
      let g := s.grp x
      let md := (g.split x.sp).mode
      let base := g.x x.sp rs1
      let c := min (g.x x.sp rs2).toNat 65536
      let as_ : List LaneAddr := (List.range c).map (fun i => (0, base + BitVec.ofNat 64 (4096 * i)))
      match (if md = .u then none else as_.find? (fun a => inWindow a.2)) with
      | some a => .trap 7 a.2
      | none =>
        if base.toNat % 4096 ≠ 0 && !(md = .u && inWindow base) then .trap 6 base
        else
          match (if md = .u then none else s.firstUnmapped g md .write as_) with
          | some a => .trap 15 a.2
          | none =>
            if !s.roomFor x false true then .wait
            else
              .next ((s.enter x { s.opOf x with
                store := true
                accs := as_.map (fun a => {
                  addr := a.2, size := 4096, what := .discard, place := s.fixedPlace g md .write a.2 }) }).setX x rd
                (BitVec.ofNat 64 c))) s

/-- R60: A global access arrives at its home NI, is translated and lease-checked, and is performed, forwarded to a peer or host, or ends the unit with LEASE. -/
def execHomeRequest (c op idx : Nat) (fill : Bool) (err : BitVec 3) (s : State) : Result :=
  onOp c op s (fun o =>
    match o.accs[idx]? with
    | some a => if a.space = 0 then s.homeAccess c o idx a fill err else s
    | none => s)

/-- R125: A store is performed at its home or scratchpad bank and the store counter falls. With `op.2` the first of its writes to a
scratchpad that is performed here is lost (18 R349). -/
def execStorePerformed (c : Nat) (op : Nat × Bool) (s : State) : Result :=
  onOp c op.1 s (fun o =>
    let s := if op.2 then s.loseLocal c o else s
    let s := (List.range o.accs.length).foldl (fun s i =>
      match (s.core c).op op.1 with
      | some o => if (o.accs[i]?).any (fun a => a.what.writes && a.space ≠ 0) then s.perform c o i false else s
      | none => s) s
    match (s.core c).op op.1 with
    | some o =>
      if o.store && o.accs.all (fun a => a.done || !a.what.writes) then (s.putOp c { o with store := false }).reapOp c op.1
      else s
    | none => s)

/-- R125: Data for an outstanding load returns and is written per lane; the load counter falls once every active lane is written, and waiting
or parked splits re-test. `lane` is the lane, and 32 or 64 more than it for the first or the second element of a pair alone (05 R105); of a
hart load that has been performed the register is written. -/
def execLoadReturn (c op lane : Nat) (err : BitVec 3) (s : State) : Result :=
  let part : BitVec 2 := if lane / 32 = 1 then 1 else if lane / 32 = 2 then 2 else 3
  let lane := lane % 32
  onOp c op s (fun o =>
    let s := (List.range o.accs.length).foldl (fun s i =>
      match (s.core c).op op with
      | some o =>
        match o.accs[i]? with
        | some a => if a.lane = lane && !a.what.writes && a.space ≠ 0 then s.localRead c o i a err else s
        | none => s
      | none => s) s
    match (s.core c).op op with
    | some o =>
      if !o.load then s.landHart c o
      else
        let land_ (s : State) (a : Acc) : State :=
          if a.lane = lane && a.done && !a.wrote then s.landPart c o a (part &&& ~~~a.part) else s
        let s := o.accs.foldl land_ s
        let accs := o.accs.map (fun a => if a.lane = lane && a.done then a.landed part else a)
        (s.putOp c { o with accs := accs, load := !accs.all (fun a => a.wrote) }).reapOp c op
    | none => s)

/-- R190: Every die acknowledges the invalidations of an SFENCE.VMA and the issuing split continues. -/
def execSfenceVmaComplete (c sl sp : Nat) (s : State) : Result :=
  match s.group c sl with
  | some g =>
    let p := g.split sp
    if p.sfence = some false then
      .next ((s.setGroup c sl (g.setSplit sp { p with sfence := some true })).setCore c
        { (s.setGroup c sl (g.setSplit sp { p with sfence := some true })).core c with waiting := false })
    else .next s
  | none => .next s

/-- R201: When time mod 3,200 equals 50g, refresh group g becomes unavailable and accesses to it wait. -/
def execRefreshWindowStart (g : BitVec 6) (s : State) : Result :=
  let t := s.cycle / 6
  let start := 50 * g.toNat
  .next { s with cycle := max s.cycle (6 * (if t % 3200 ≤ start then t - t % 3200 + start else t - t % 3200 + 3200 + start)) }

/-- R201: A refresh window ends after 32 ticks and waiting weight reads and writes complete. -/
def execRefreshWindowEnd (g : BitVec 6) (s : State) : Result :=
  let t := s.cycle / 6
  let stop := 50 * g.toNat + 32
  .next { s with cycle := max s.cycle (6 * (if t % 3200 ≤ stop then t - t % 3200 + stop else t - t % 3200 + 3200 + stop)) }

end Sys2Proof.Machine
end

