-- ==== Sys2Proof/Machine/Crypto.lean ====
section
/-! DEFINITION. The functions of named standards that the security controller and the migration engine use: SHA-256 and SHA-384 (FIPS
180-4), HMAC and HKDF (RFC 2104, RFC 5869), ECDSA and ECDH on P-384 (FIPS 186-5, SP 800-186), LMS (RFC 8554, SP 800-208), AES-256-GCM (FIPS 197,
SP 800-38D). Strings are lists of bytes (21 R383-R400, 20 R376, log 7). -/

namespace Sys2Proof.Machine

/-! ## Big-endian numbers -/

/-- The n high-order-first bytes of a value, as the standards write numbers (21 R388). -/
def beBytes (v n : Nat) : List Byte := (leBytes v n).reverse
def beValue (d : List Byte) : Nat := leValue d.reverse
def digestBytes (d : BitVec 384) : List Byte := beBytes d.toNat 48
/-- The bytes of an ASCII string. -/
def ascii (x : String) : List Byte := x.toList.map (fun c => BitVec.ofNat 8 c.toNat)

/-- A string in blocks of n bytes. -/
def messageBlocks (n : Nat) (d : List Byte) : List (List Byte) := (List.range ((d.length + n - 1) / n)).map (fun i => (d.drop (n * i)).take n)
def xorBytes (a b : List Byte) : List Byte := List.zipWith (fun x y => x ^^^ y) a b

/-! ## SHA-2 -/

def roundK0 : List (BitVec 64) := [
  0x428A2F98D728AE22, 0x7137449123EF65CD, 0xB5C0FBCFEC4D3B2F, 0xE9B5DBA58189DBBC,
  0x3956C25BF348B538, 0x59F111F1B605D019, 0x923F82A4AF194F9B, 0xAB1C5ED5DA6D8118,
  0xD807AA98A3030242, 0x12835B0145706FBE, 0x243185BE4EE4B28C, 0x550C7DC3D5FFB4E2,
  0x72BE5D74F27B896F, 0x80DEB1FE3B1696B1, 0x9BDC06A725C71235, 0xC19BF174CF692694,
  0xE49B69C19EF14AD2, 0xEFBE4786384F25E3, 0x0FC19DC68B8CD5B5, 0x240CA1CC77AC9C65]
def roundK1 : List (BitVec 64) := [
  0x2DE92C6F592B0275, 0x4A7484AA6EA6E483, 0x5CB0A9DCBD41FBD4, 0x76F988DA831153B5,
  0x983E5152EE66DFAB, 0xA831C66D2DB43210, 0xB00327C898FB213F, 0xBF597FC7BEEF0EE4,
  0xC6E00BF33DA88FC2, 0xD5A79147930AA725, 0x06CA6351E003826F, 0x142929670A0E6E70,
  0x27B70A8546D22FFC, 0x2E1B21385C26C926, 0x4D2C6DFC5AC42AED, 0x53380D139D95B3DF,
  0x650A73548BAF63DE, 0x766A0ABB3C77B2A8, 0x81C2C92E47EDAEE6, 0x92722C851482353B]
def roundK2 : List (BitVec 64) := [
  0xA2BFE8A14CF10364, 0xA81A664BBC423001, 0xC24B8B70D0F89791, 0xC76C51A30654BE30,
  0xD192E819D6EF5218, 0xD69906245565A910, 0xF40E35855771202A, 0x106AA07032BBD1B8,
  0x19A4C116B8D2D0C8, 0x1E376C085141AB53, 0x2748774CDF8EEB99, 0x34B0BCB5E19B48A8,
  0x391C0CB3C5C95A63, 0x4ED8AA4AE3418ACB, 0x5B9CCA4F7763E373, 0x682E6FF3D6B2B8A3,
  0x748F82EE5DEFB2FC, 0x78A5636F43172F60, 0x84C87814A1F0AB72, 0x8CC702081A6439EC]
def roundK3 : List (BitVec 64) := [
  0x90BEFFFA23631E28, 0xA4506CEBDE82BDE9, 0xBEF9A3F7B2C67915, 0xC67178F2E372532B,
  0xCA273ECEEA26619C, 0xD186B8C721C0C207, 0xEADA7DD6CDE0EB1E, 0xF57D4F7FEE6ED178,
  0x06F067AA72176FBA, 0x0A637DC5A2C898A6, 0x113F9804BEF90DAE, 0x1B710B35131C471B,
  0x28DB77F523047D84, 0x32CAAB7B40C72493, 0x3C9EBE0A15C9BEBC, 0x431D67C49C100D4C,
  0x4CC5D4BECB3E42B6, 0x597F299CFC657E2A, 0x5FCB6FAB3AD6FAEC, 0x6C44198C4A475817]
/-- The round constants of SHA-512; those of SHA-256 are the upper halves of the first 64. -/
def roundK : List (BitVec 64) := roundK0 ++ roundK1 ++ roundK2 ++ roundK3

/-- What tells the two hash functions apart: the shift amounts of the sigma functions. -/
structure Sigma where
  big0 : Nat × Nat × Nat
  big1 : Nat × Nat × Nat
  small0 : Nat × Nat × Nat
  small1 : Nat × Nat × Nat

def sigma512 : Sigma := { big0 := (28, 34, 39), big1 := (14, 18, 41), small0 := (1, 8, 7), small1 := (19, 61, 6) }
def sigma256 : Sigma := { big0 := (2, 13, 22), big1 := (6, 11, 25), small0 := (7, 18, 3), small1 := (17, 19, 10) }

def bigSigma {w : Nat} (r : Nat × Nat × Nat) (x : BitVec w) : BitVec w := x.rotateRight r.1 ^^^ x.rotateRight r.2.1 ^^^ x.rotateRight r.2.2
def smallSigma {w : Nat} (r : Nat × Nat × Nat) (x : BitVec w) : BitVec w := x.rotateRight r.1 ^^^ x.rotateRight r.2.1 ^^^ x >>> r.2.2

/-- One word of the message schedule from the sixteen before it, and the window moved on. -/
def nextW {w : Nat} (g : Sigma) (m : List (BitVec w)) : List (BitVec w) :=
  m.drop 1 ++ [smallSigma g.small1 (m.getD 14 0) + m.getD 9 0 + smallSigma g.small0 (m.getD 1 0) + m.getD 0 0]

/-- One round: the eight working variables, in order. -/
def shaRound {w : Nat} (g : Sigma) (v : List (BitVec w)) (k m : BitVec w) : List (BitVec w) :=
  let at_ (i : Nat) : BitVec w := v.getD i 0
  let ch := (at_ 4 &&& at_ 5) ^^^ (~~~(at_ 4) &&& at_ 6)
  let maj := (at_ 0 &&& at_ 1) ^^^ (at_ 0 &&& at_ 2) ^^^ (at_ 1 &&& at_ 2)
  let t1 := at_ 7 + bigSigma g.big1 (at_ 4) + ch + k + m
  [t1 + bigSigma g.big0 (at_ 0) + maj, at_ 0, at_ 1, at_ 2, at_ 3 + t1, at_ 4, at_ 5, at_ 6]

/-- One block of sixteen words. -/
def shaBlock {w : Nat} (g : Sigma) (ks h : List (BitVec w)) (m : List (BitVec w)) : List (BitVec w) :=
  let r := ks.foldl (fun (q : List (BitVec w) × List (BitVec w)) k => (shaRound g q.1 k (q.2.getD 0 0), nextW g q.2)) (h, m)
  List.zipWith (fun x y => x + y) h r.1

/-- A message padded to whole blocks of b bytes, its length in bits in the last n. -/
def shaPad (b n : Nat) (d : List Byte) : List Byte :=
  d ++ [0x80] ++ List.replicate ((2 * b - 1 - n - d.length % b) % b) 0 ++ beBytes (8 * d.length) n

/-- The hash with words of w bits. -/
def shaHash {w : Nat} (g : Sigma) (ks iv : List (BitVec w)) (d : List Byte) : List (BitVec w) :=
  (messageBlocks (2 * w) (shaPad (2 * w) (w / 4) d)).foldl (fun h b =>
    shaBlock g ks h ((messageBlocks (w / 8) b).map (fun x => BitVec.ofNat w (beValue x)))) iv

def iv384 : List (BitVec 64) := [
  0xCBBB9D5DC1059ED8, 0x629A292A367CD507, 0x9159015A3070DD17, 0x152FECD8F70E5939,
  0x67332667FFC00B31, 0x8EB44A8768581511, 0xDB0C2E0D64F98FA7, 0x47B5481DBEFA4FA4]
def iv256 : List (BitVec 32) := [0x6A09E667, 0xBB67AE85, 0x3C6EF372, 0xA54FF53A, 0x510E527F, 0x9B05688C, 0x1F83D9AB, 0x5BE0CD19]

/-- SHA-384. -/
def sha384 (d : List Byte) : BitVec 384 :=
  BitVec.ofNat 384 (beValue (((shaHash sigma512 roundK iv384 d).take 6).flatMap (fun x => beBytes x.toNat 8)))

/-- SHA-256, 32 bytes. -/
def sha256 (d : List Byte) : List Byte :=
  (shaHash sigma256 ((roundK.take 64).map (fun k => k.extractLsb' 32 32)) iv256 d).flatMap (fun x => beBytes x.toNat 4)

/-! ## HMAC and HKDF -/

/-- HMAC-SHA-384 with a key of at most 128 bytes. -/
def hmac384 (key msg : List Byte) : List Byte :=
  let k := key ++ List.replicate (128 - key.length) 0
  digestBytes (sha384 (k.map (fun b => b ^^^ 0x5C) ++ digestBytes (sha384 (k.map (fun b => b ^^^ 0x36) ++ msg))))

/-- HKDF-SHA-384 expansion: n blocks of 48 bytes after block `t` numbered i. -/
def hkdfBlocks (prk info : List Byte) : Nat → Nat → List Byte → List Byte
  | 0, _, _ => []
  | n + 1, i, t =>
    let b := hmac384 prk (t ++ info ++ leBytes i 1)
    b ++ hkdfBlocks prk info n (i + 1) b

def hkdfExpand (prk info : List Byte) (len : Nat) : List Byte := (hkdfBlocks prk info ((len + 47) / 48) 1 []).take len

/-- HKDF-SHA-384 without a salt. -/
def hkdf384 (ikm info : List Byte) (len : Nat) : List Byte := hkdfExpand (hmac384 (List.replicate 48 0) ikm) info len

/-! ## P-384 -/

/-- b to the e modulo m, for e below 2 to the fuel. -/
def powMod (m : Nat) : Nat → Nat → Nat → Nat
  | 0, _, _ => 1 % m
  | f + 1, b, e =>
    let h := powMod m f (b * b % m) (e / 2)
    if e % 2 = 1 then h * b % m else h

/-- The inverse modulo a prime of at most 384 bits. -/
def invMod (p a : Nat) : Nat := powMod p 384 a (p - 2)

/-- The field, the order of the group, the coefficient b, and the generator. -/
def p384Field : Nat := 2 ^ 384 - 2 ^ 128 - 2 ^ 96 + 2 ^ 32 - 1
def p384Order : Nat := 0xFFFFFFFFFFFFFFFFFFFFFFFFFFFFFFFFFFFFFFFFFFFFFFFFC7634D81F4372DDF581A0DB248B0A77AECEC196ACCC52973
def p384B : Nat := 0xB3312FA7E23EE7E4988E056BE3F82D19181D9C6EFE8141120314088F5013875AC656398D8A2ED19D2A85C8EDD3EC2AEF
def p384G : Nat × Nat :=
  (0xAA87CA22BE8B05378EB1C71EF320AD746E1D3B628BA79B9859F741E082542A385502F25DBF55296C3A545E3872760AB7,
   0x3617DE4A96262C6F5D9E98BF9292DC29F8F41DBD289A147CE9DA3113B5F0B8C00A60B1CE1D7E819D7A431D7C90EA0E5F)

/-- A point of the curve; none is the point at infinity. -/
abbrev Point := Option (Nat × Nat)

def onCurve (q : Nat × Nat) : Bool :=
  let p := p384Field
  decide (q.1 < p) && decide (q.2 < p) && q.2 * q.2 % p = (q.1 * q.1 * q.1 + (p - 3) * q.1 + p384B) % p

/-- The third point of the line with this slope through two points, mirrored. -/
def chord (l : Nat) (a b : Nat × Nat) : Point :=
  let p := p384Field
  let x := (l * l + 2 * p - a.1 - b.1) % p
  some (x, (l * (p + a.1 - x) + p - a.2) % p)

def addPoints : Point → Point → Point
  | none, b => b
  | a, none => a
  | some a, some b =>
    let p := p384Field
    if a.1 = b.1 then
      if a.2 = b.2 && a.2 ≠ 0 then chord ((3 * a.1 * a.1 + p - 3) * invMod p (2 * a.2) % p) a b else none
    else chord ((p + b.2 - a.2) * invMod p ((p + b.1 - a.1) % p) % p) a b

/-- k times a point, for k below 2 to the fuel. -/
def mulPoint : Nat → Nat → Point → Point
  | 0, _, _ => none
  | f + 1, k, q =>
    let h := mulPoint f (k / 2) (addPoints q q)
    if k % 2 = 1 then addPoints h q else h

def pointBytes (q : Point) : List Byte := match q with
  | some (x, y) => beBytes x 48 ++ beBytes y 48
  | none => beBytes 0 96
def pointOfBytes (d : List Byte) : Point :=
  let q := (beValue (d.take 48), beValue ((d.drop 48).take 48))
  if onCurve q then some q else none

/-- The public key of a private key, x and y in 96 bytes. -/
def ecdsaPub (d : BitVec 384) : List Byte := pointBytes (mulPoint 384 d.toNat (some p384G))

/-- The ECDSA signature r and s, 96 bytes, of a hash, by a private key and a secret number; where the number gives no signature, the next
one is used. -/
def ecdsaSignWith (d h : Nat) : Nat → Nat → List Byte
  | 0, _ => beBytes 0 96
  | f + 1, k =>
    let n := p384Order
    let r := ((mulPoint 384 k (some p384G)).elim 0 Prod.fst) % n
    let s := invMod n k * (h + r * d) % n
    if k % n = 0 || r = 0 || s = 0 then ecdsaSignWith d h f (k + 1) else beBytes r 48 ++ beBytes s 48

def ecdsaSign (d h : BitVec 384) (k : Nat) : List Byte := ecdsaSignWith d.toNat h.toNat 4 (k % (p384Order - 1) + 1)

/-- The signature of a hash verifies under a public key. -/
def ecdsaVerify (pub : List Byte) (h : BitVec 384) (sig : List Byte) : Bool :=
  let n := p384Order
  let r := beValue (sig.take 48)
  let s := beValue ((sig.drop 48).take 48)
  match pointOfBytes pub with
  | none => false
  | some q =>
    if r = 0 || s = 0 || n ≤ r || n ≤ s then false
    else
      let w := invMod n s
      match addPoints (mulPoint 384 (h.toNat * w % n) (some p384G)) (mulPoint 384 (r * w % n) (some q)) with
      | some (x, _) => x % n = r
      | none => false

/-- The x coordinate that two parties share: 48 bytes, none where the other's key is no point of the curve. -/
def ecdhShare (d : Nat) (pub : List Byte) : Option (List Byte) :=
  match pointOfBytes pub with
  | some q => (mulPoint 384 d (some q)).map (fun p => beBytes p.1 48)
  | none => none

/-! ## LMS with LMS_SHA256_M24_H20 and LMOTS_SHA256_N24_W4 (21 R387) -/

/-- The types of a tree and of its one-time signatures, as public keys and signatures write them. -/
def lmsTypes : List Byte := beBytes 0xD 4 ++ beBytes 7 4

def lmsHash (d : List Byte) : List Byte := (sha256 d).take 24

/-- n steps of hash chain i of leaf q, from step j on. -/
def lmsChain (id : List Byte) (q i : Nat) : Nat → Nat → List Byte → List Byte
  | 0, _, t => t
  | n + 1, j, t => lmsChain id q i n (j + 1) (lmsHash (id ++ beBytes q 4 ++ beBytes i 2 ++ beBytes j 1 ++ t))

/-- The 51 digits of 4 bits of a hash and its checksum. -/
def lmsDigits (h : List Byte) : List Nat :=
  let d := h.flatMap (fun b => [b.toNat / 16, b.toNat % 16])
  let s := (d.map (fun x => 15 - x)).foldl (fun a b => a + b) 0
  d ++ [s / 256 % 16, s / 16 % 16, s % 16]

def lmsSecret (seed id : List Byte) (q i : Nat) : List Byte := lmsHash (id ++ beBytes q 4 ++ beBytes i 2 ++ [0xFF] ++ seed)

/-- The public key of leaf q from the ends of its chains. -/
def lmsLeafKey (id : List Byte) (q : Nat) (ys : List (List Byte)) : List Byte := lmsHash (id ++ beBytes q 4 ++ beBytes 0x8080 2 ++ ys.flatten)
def lmsLeaf (id : List Byte) (q : Nat) (key : List Byte) : List Byte := lmsHash (id ++ beBytes (2 ^ 20 + q) 4 ++ beBytes 0x8282 2 ++ key)
def lmsInner (id : List Byte) (r : Nat) (a b : List Byte) : List Byte := lmsHash (id ++ beBytes r 4 ++ beBytes 0x8383 2 ++ a ++ b)

/-- Node r of the tree, h levels above the leaves. -/
def lmsNode (seed id : List Byte) : Nat → Nat → List Byte
  | 0, r =>
    let q := r - 2 ^ 20
    lmsLeaf id q (lmsLeafKey id q ((List.range 51).map (fun i => lmsChain id q i 15 0 (lmsSecret seed id q i))))
  | h + 1, r => lmsInner id r (lmsNode seed id h (2 * r)) (lmsNode seed id h (2 * r + 1))

/-- The root of the tree of a seed and an identifier. -/
def lmsRoot (seed : BitVec 192) (id : BitVec 128) : List Byte := lmsNode (beBytes seed.toNat 24) (beBytes id.toNat 16) 20 1

def lmsMessage (id : List Byte) (q : Nat) (c msg : List Byte) : List Nat :=
  lmsDigits (lmsHash (id ++ beBytes q 4 ++ beBytes 0x8181 2 ++ c ++ msg))

/-- The signature of a message with leaf q and a randomiser of 24 bytes: 1,740 bytes. -/
def lmsSign (seed : BitVec 192) (id : BitVec 128) (q : Nat) (c : BitVec 192) (msg : List Byte) : List Byte :=
  let i := beBytes id.toNat 16
  let sd := beBytes seed.toNat 24
  let cb := beBytes c.toNat 24
  let ds := lmsMessage i q cb msg
  beBytes q 4 ++ lmsTypes.drop 4 ++ cb ++ (List.range 51).flatMap (fun k => lmsChain i q k (ds.getD k 0) 0 (lmsSecret sd i q k)) ++
    lmsTypes.take 4 ++ (List.range 20).flatMap (fun h =>
      let r := (2 ^ 20 + q) / 2 ^ h
      lmsNode sd i h (if r % 2 = 0 then r + 1 else r - 1))

/-- The root that a path leads to from node r. -/
def lmsClimb (id : List Byte) : List (List Byte) → Nat → List Byte → List Byte
  | [], _, t => t
  | p :: ps, r, t => lmsClimb id ps (r / 2) (if r % 2 = 0 then lmsInner id (r / 2) t p else lmsInner id (r / 2) p t)

/-- A signature of a message verifies under a public key of 48 bytes. -/
def lmsVerify (pub msg sig : List Byte) : Bool :=
  let id := (pub.drop 8).take 16
  let q := beValue (sig.take 4)
  let ds := lmsMessage id q ((sig.drop 8).take 24) msg
  let ys := (List.range 51).map (fun i => lmsChain id q i (15 - ds.getD i 0) (ds.getD i 0) ((sig.drop (32 + 24 * i)).take 24))
  let path := (List.range 20).map (fun i => (sig.drop (1260 + 24 * i)).take 24)
  decide (q < 2 ^ 20) && lmsClimb id path (2 ^ 20 + q) (lmsLeaf id q (lmsLeafKey id q ys)) = (pub.drop 24).take 24

/-! ## AES-256-GCM -/

def xtime (a : Byte) : Byte := a <<< 1 ^^^ (if a.getLsbD 7 then 0x1B else 0)

/-- The product in the field of AES, over the bits of b from bit n - 1 down. -/
def gfMul (a b : Byte) : Nat → Byte
  | 0 => 0
  | n + 1 => xtime (gfMul a (b >>> 1) n) ^^^ (if b.getLsbD 0 then a else 0)

/-- The product of the squares of a, n of them: with n = 7 its power 254, the inverse. -/
def gfSquares (a : Byte) : Nat → Byte
  | 0 => 1
  | n + 1 => gfMul (gfMul a a 8) (gfSquares (gfMul a a 8) n) 8

/-- The S-box: the inverse, 0 for 0, and the affine map. -/
def subByte (a : Byte) : Byte :=
  let b := gfSquares a 7
  b ^^^ b.rotateLeft 1 ^^^ b.rotateLeft 2 ^^^ b.rotateLeft 3 ^^^ b.rotateLeft 4 ^^^ 0x63

/-- The key schedule: the words, the latest first, with n more to come; i numbers the next. -/
def expandKey : Nat → Nat → Byte → List (List Byte) → List (List Byte)
  | 0, _, _, ws => ws
  | n + 1, i, rc, ws =>
    let t := ws.getD 0 []
    let u := if i % 8 = 0 then xorBytes ((t.drop 1 ++ t.take 1).map subByte) [rc, 0, 0, 0]
      else if i % 8 = 4 then t.map subByte else t
    expandKey n (i + 1) (if i % 8 = 0 then xtime rc else rc) (xorBytes (ws.getD 7 []) u :: ws)

/-- The fifteen round keys of 16 bytes. -/
def roundKeys (key : BitVec 256) : List (List Byte) :=
  let ws := (expandKey 52 8 1 (messageBlocks 4 (beBytes key.toNat 32)).reverse).reverse
  (List.range 15).map (fun i => ((ws.drop (4 * i)).take 4).flatten)

/-- The rows of a block, which stands column by column, moved on. -/
def shiftRows (b : List Byte) : List Byte := (List.range 16).map (fun i => b.getD ((i + 4 * (i % 4)) % 16) 0)
def mixColumn (c : List Byte) : List Byte :=
  (List.range 4).map (fun i =>
    let a (j : Nat) : Byte := c.getD ((i + j) % 4) 0
    xtime (a 0) ^^^ (xtime (a 1) ^^^ a 1) ^^^ a 2 ^^^ a 3)

/-- One block under AES-256. -/
def aesBlock (ks : List (List Byte)) (b : List Byte) : List Byte :=
  let b := xorBytes b (ks.getD 0 [])
  let b := (List.range 13).foldl (fun b i =>
    xorBytes ((messageBlocks 4 (shiftRows (b.map subByte))).flatMap mixColumn) (ks.getD (i + 1) [])) b
  xorBytes (shiftRows (b.map subByte)) (ks.getD 14 [])

/-- The product in the field of GCM, whose bit 0 is the leftmost: x times y over n more bits of y. -/
def ghashMul : Nat → BitVec 128 → BitVec 128 → BitVec 128
  | 0, _, _ => 0
  | n + 1, x, y =>
    (if y.getLsbD 127 then x else 0) ^^^ ghashMul n (x >>> 1 ^^^ (if x.getLsbD 0 then 0xE1000000000000000000000000000000 else 0)) (y <<< 1)

def ghash (h : BitVec 128) (d : List Byte) : BitVec 128 :=
  (messageBlocks 16 d).foldl (fun y b => ghashMul 128 h (y ^^^ BitVec.ofNat 128 (beValue b))) 0

def padTo16 (d : List Byte) : List Byte := d ++ List.replicate ((16 - d.length % 16) % 16) 0

/-- The key stream of a nonce over n bytes, from counter 2 on. -/
def gcmStream (ks : List (List Byte)) (nonce : BitVec 96) (n : Nat) : List Byte :=
  ((List.range ((n + 15) / 16)).flatMap (fun i => aesBlock ks (beBytes nonce.toNat 12 ++ beBytes (i + 2) 4))).take n

def gcmTag (ks : List (List Byte)) (nonce : BitVec 96) (aad ct : List Byte) : List Byte :=
  let h : BitVec 128 := BitVec.ofNat 128 (beValue (aesBlock ks (List.replicate 16 0)))
  let g := ghash h (padTo16 aad ++ padTo16 ct ++ beBytes (8 * aad.length) 8 ++ beBytes (8 * ct.length) 8)
  xorBytes (beBytes g.toNat 16) (aesBlock ks (beBytes nonce.toNat 12 ++ beBytes 1 4))

/-- Sealing a text under a key, a nonce and associated data: the ciphertext and the tag of 16 bytes. -/
def aesGcmSeal (key : BitVec 256) (nonce : BitVec 96) (aad text : List Byte) : List Byte × List Byte :=
  let ks := roundKeys key
  let ct := xorBytes text (gcmStream ks nonce text.length)
  (ct, gcmTag ks nonce aad ct)

/-- Opening: none where the tag does not fit. -/
def aesGcmOpen (key : BitVec 256) (nonce : BitVec 96) (aad ct tag : List Byte) : Option (List Byte) :=
  let ks := roundKeys key
  if gcmTag ks nonce aad ct = tag then some (xorBytes ct (gcmStream ks nonce ct.length)) else none

end Sys2Proof.Machine
end

