-- ==== Sys2Proof/Machine/Heap.lean ====
section
/-! DEFINITION. Kernel images, the code heap, the forwarding table and instruction caches; arbitration, stall windows and timers as events (01 R12-R20, 05 R79-R86, 06 R122-R124, 16 R325). -/

namespace Sys2Proof.Machine

/-! ## Load checks (01 Table 1.5) -/

structure ImageHdr where
  hw0     : Word32
  hw1     : Word32
  entry   : Nat
  text    : Nat
  textLen : Nat
  data    : Nat
  dataLen : Nat
  rel     : Nat
  relCnt  : Nat
  lease   : Nat
  chan    : Nat
  gate    : Nat
  ngate   : Nat

def imageHdr (d : List Byte) : ImageHdr :=
  { hw0 := BitVec.ofNat 32 (fieldAt d 4 4), hw1 := BitVec.ofNat 32 (fieldAt d 8 4), entry := fieldAt d 16 8
    text := fieldAt d 24 4, textLen := fieldAt d 28 4, data := fieldAt d 32 4, dataLen := fieldAt d 36 4
    rel := fieldAt d 40 4, relCnt := fieldAt d 44 4, lease := fieldAt d 48 4, chan := fieldAt d 52 4, gate := fieldAt d 56 4
    ngate := fieldAt d 60 4 % 512 }

def ImageHdr.nlease (h : ImageHdr) : Nat := (h.hw1.extractLsb' 8 8).toNat
def ImageHdr.nchan (h : ImageHdr) : Nat := (h.hw1.extractLsb' 4 4).toNat
def ImageHdr.groups (h : ImageHdr) : Nat := (h.hw0.extractLsb' 0 9).toNat

def dwordsAt (d : List Byte) (o n : Nat) : List Word64 := (List.range n).map (fun i => wordAt d (o + 8 * i))
def ImageHdr.leases (h : ImageHdr) (d : List Byte) : List (BitVec 128) :=
  (List.range h.nlease).map (fun i => BitVec.ofNat 128 (fieldAt d (h.lease + 16 * i) 16))
def ImageHdr.chans (h : ImageHdr) (d : List Byte) : List Word64 := dwordsAt d h.chan h.nchan
def ImageHdr.gates (h : ImageHdr) (d : List Byte) : List Word64 := dwordsAt d h.gate h.ngate
def ImageHdr.rels (h : ImageHdr) (d : List Byte) : List Word64 := dwordsAt d h.rel h.relCnt

/-- Check 2 of Table 1.5; an empty section or table must lie inside the image too (log 33). -/
def ImageHdr.aligned (h : ImageHdr) (size : Nat) : Bool :=
  h.entry % 4 = 0 && h.text % 64 = 0 && h.textLen % 4 = 0 && h.textLen ≠ 0 && h.data % 64 = 0 && h.rel % 8 = 0 &&
  h.lease % 16 = 0 && h.chan % 8 = 0 && h.gate % 8 = 0 && decide (h.text + h.textLen ≤ size) &&
  decide (h.data + h.dataLen ≤ size) && decide (h.rel + 8 * h.relCnt ≤ size) && decide (h.lease + 16 * h.nlease ≤ size) &&
  decide (h.chan + 8 * h.nchan ≤ size) && decide (h.gate + 8 * h.ngate ≤ size)

def leaseOk (e : BitVec 128) : Bool :=
  e.extractLsb' 64 40 ≠ 0#40 && e.extractLsb' 64 12 = 0#12 && (e.getLsbD 56 || e.extractLsb' 0 12 = 0#12)

def relKind (r : Word64) : Nat := field r.toNat 32 4
def relOff (r : Word64) : Nat := field r.toNat 0 32
def ImageHdr.relOk (h : ImageHdr) (r : Word64) : Bool :=
  (relKind r = 1 || relKind r = 2) && relOff r % 8 = 0 && decide (relOff r + 8 ≤ h.dataLen)

def distinct (l : List Nat) : Bool := l.eraseDups.length = l.length

/-- The code of the first check that fails, in table order. -/
def loadCheck (d : List Byte) : Option Nat :=
  let h := imageHdr d
  if d.length < 64 || fieldAt d 0 4 ≠ 0x33534C4D || fieldAt d 12 2 ≠ 1 then some 1
  else if !h.aligned d.length then some 2
  else if h.groups < 1 || 384 < h.groups || 49152 < (h.hw1.extractLsb' 16 16).toNat || 64 < h.nlease || 8 < h.nchan ||
      256 < h.ngate then some 3
  else if h.hw0.getLsbD 18 && (384 < h.groups || 1 < (h.hw0.extractLsb' 16 2).toNat) then some 4
  else if !(h.leases d).all leaseOk then some 5
  else if !distinct ((h.chans d).map (fun c => field c.toNat 0 3)) || !distinct ((h.gates d).map (fun c => field c.toNat 0 8)) then
    some 6
  else if !(h.rels d).all h.relOk then some 7
  else if h.textLen ≤ h.entry || (h.chans d).any (fun c => decide (h.textLen ≤ field c.toNat 32 32)) ||
      (h.gates d).any (fun c => decide (h.textLen ≤ field c.toNat 32 32)) then some 8
  else none

/-! ## Loading (05 R79-R81) -/

/-- The data section with its relocations applied (01 R19). -/
def relocate (h : ImageHdr) (d : List Byte) (off : Nat) : List Byte :=
  (h.rels d).foldl (fun data r =>
    let base := if relKind r = 1 then heapBase + off else heapBase + off + 0x40000000
    let v := leBytes (fieldAt data (relOff r) 8 + base) 8
    data.take (relOff r) ++ v ++ data.drop (relOff r + 8)) ((d.drop h.data).take h.dataLen)

/-- The load of a checked image into an extent: text and data copied and mapped, caches invalidated. -/
def State.loadAt (s : State) (job : BitVec 16) (d : List Byte) (off len : Nat) : State :=
  let h := imageHdr d
  let asid := (s.job job).asid
  let s := s.mapPages asid heapLeaf (len / 4096) (heapBase + off) ((d.drop h.text).take h.textLen)
  let s := s.mapPages asid dataLeaf (len / 4096) (heapBase + 0x40000000 + off) (relocate h d off)
  let s := s.pageModes asid (heapBase + off) len (imageIlock h.hw0)
  let s : State := { s with extents := s.extents ++ [{ job := job, asid := asid, off := off, len := len, text := h.textLen }] }
  s.icacheDrop (fun _ => true) asid (heapBase + off) len

def kernelOf (job : BitVec 16) (d : List Byte) (off : Nat) : Kernel :=
  let h := imageHdr d
  { job := job, text := off, textLen := h.textLen, dataLen := h.dataLen, hw0 := h.hw0, hw1 := h.hw1, entry := h.entry
    leases := h.leases d, chans := h.chans d, gates := h.gates d }

/-- The checks of a load in order: Table 1.5, then codes 9 and 10; the extent where all pass. -/
def State.loadPlan (s : State) (job : BitVec 16) (d : List Byte) : Except Nat (Nat × Nat) :=
  match loadCheck d with
  | some c => .error c
  | none =>
    let h := imageHdr d
    let len := pageUp (max h.textLen h.dataLen)
    match s.freeExtent job len with
    | none => .error 9
    | some off => if (s.job job).gen = BitVec.allOnes 32 then .error 10 else .ok (off, len)

def State.nextGen (s : State) (job : BitVec 16) : State :=
  let j := s.job job
  s.setJob job { j with gen := j.gen + 1 }

/-! ## The forwarding table (05 R82) -/

/-- Free entries, lowest first, as die 0 holds them; all dies hold the same. -/
def State.freeFwd (s : State) : List Nat :=
  (List.range 1024).filter (fun i => fwdKind (Map.getD 0 (s.die 0).fwd i) = 0#2)

def fwdEntry (kind len : Nat) (asid : BitVec 16) (new old : Nat) : BitVec 128 :=
  BitVec.ofNat 128 (kind * 2 ^ 126 + len % 2 ^ 28 * 2 ^ 96 + asid.toNat * 2 ^ 64 + new % 2 ^ 28 * 2 ^ 32 + old % 2 ^ 28)

def State.setFwd (s : State) (i : Nat) (e : BitVec 128) : State :=
  (List.range 8).foldl (fun s d => let x := s.die d; s.setDie d { x with fwd := Map.setD 0 x.fwd i e }) s

/-! ## Compaction and reclaiming (05 R84, R86) -/

/-- A range that a compaction moves: its old offset, its new one, its length. -/
abbrev Move := Nat × Nat × Nat

/-- An extent lies wholly in a moved range, superseded text too; or it has nothing of it. -/
def Extent.inside (e : Extent) (m : Move) : Bool := decide (m.1 ≤ e.off) && decide (e.off + e.len ≤ m.1 + m.2.2)
def Extent.outside (e : Extent) (m : Move) : Bool := decide (m.1 + m.2.2 ≤ e.off) || decide (e.off + e.len ≤ m.1)

/-- A heap offset inside a moved range, at its new place. -/
def moveOff (ms : List Move) (h : Nat) : Nat :=
  match ms.find? (fun m => decide (m.1 ≤ h) && decide (h < m.1 + m.2.2)) with
  | some m => m.2.1 + (h - m.1)
  | none => h

/-- A heap address inside a moved range, at its new place. -/
def movedTo (ms : List Move) (pc : Word64) : Word64 := if inHeap pc then heapAddr (moveOff ms (heapOff pc)) else pc

/-- The saved text addresses of the groups, join cells and channels of an address space; the generation that a group or a unit
carries stays (05 R81, R84). -/
def State.rewriteText (s : State) (job asid : BitVec 16) (f : Word64 → Word64) : State :=
  let grp (g : Group) : Group :=
    if g.asid = asid then { g with splits := g.splits.map (fun e => (e.1, { e.2 with pc := f e.2.pc })) } else g
  { s with
    cores := s.cores.map (fun c => (c.1, { c.2 with
      slots := c.2.slots.map (fun e => (e.1, { e.2 with group := e.2.group.map grp }))
      channels := if (c.2.chanUnit.map (fun u => (s.unit u).job)) = some job then
          c.2.channels.map (fun e => (e.1, { e.2 with handler := f e.2.handler })) else c.2.channels }))
    joins := s.joins.map (fun e =>
      if (s.unit e.2.unit).job = job then (e.1, { e.2 with cont := (f (e.2.cont.setWidth 64)).setWidth 48 }) else e) }

/-- Pages of a window mapped again at a new address on the same frames. -/
def State.aliasPages (s : State) (asid : BitVec 16) (old new : Nat) (n : Nat) : State :=
  (List.range n).foldl (fun s i => match Map.find s.pins (pinKey asid (old + 4096 * i)) with
    | some e => { s with pins := Map.put s.pins (pinKey asid (new + 4096 * i)) e }
    | none => s) s

/-- The pages of a moved range keep the issue mode of their image (05 R104). -/
def State.copyModes (s : State) (asid : BitVec 16) (old new n : Nat) : State :=
  { s with ilkPages := (List.range n).foldl (fun m i =>
      Map.setD false m (pinKey asid (new + 4096 * i)) (Map.getD false s.ilkPages (pinKey asid (old + 4096 * i)))) s.ilkPages }

/-- The image of a kernel whose text lies in a moved range names its new place. -/
def Kernel.move (k : Kernel) (job : BitVec 16) (m : Move) : Kernel :=
  if k.job = job && m.1 ≤ k.text && k.text < m.1 + m.2.2 then { k with text := k.text - m.1 + m.2.1 } else k

/-- One range of a compaction: copy, data alias, MOVE entry, invalidation (05 R84, steps 2 and 3). -/
def State.moveRange (s : State) (job : BitVec 16) (m : Move) (i : Nat) : State :=
  let old := m.1
  let new := m.2.1
  let len := m.2.2
  let asid := (s.job job).asid
  let gen := (s.job job).gen + 1
  let text := ((s.devPlaces asid (heapAddr old) len false).getD []).flatMap (fun p => s.readPlace p.1 p.2)
  let s := s.mapPages asid heapLeaf (len / 4096) (heapBase + new) text
  let s := s.aliasPages asid (heapBase + 0x40000000 + old) (heapBase + 0x40000000 + new) (len / 4096)
  let s := s.copyModes asid (heapBase + old) (heapBase + new) (len / 4096)
  let s := s.setFwd i (fwdEntry 1 len asid new old)
  let s := s.icacheDrop (fun _ => true) asid (heapBase + old) len
  let moves (e : Extent) : Bool := e.job = job && e.inside m
  let moved := (s.extents.filter moves).map (fun e => { e with off := e.off - old + new })
  { s with
    extents := s.extents.map (fun (e : Extent) => if moves e then { e with old := some gen } else e) ++ moved
    kernels := s.kernels.map (fun (k : Nat × Kernel) => (k.1, k.2.move job m))
    launches := s.launches.map (fun (l : Nat × Launch) => (l.1, { l.2 with image := l.2.image.map (fun k => k.move job m) })) }

/-- COMPACTION: every range is copied and forwarded, then the saved addresses are rewritten through the new entries, then the job's
generation advances, once (05 R84). -/
def State.compact (s : State) (job : BitVec 16) (ms : List Move) (free : List Nat) : State :=
  let t := (ms.zip free).foldl (fun t p => t.moveRange job p.1 p.2) s
  (t.rewriteText job (s.job job).asid (movedTo ms)).nextGen job

/-- The ranges are page-aligned and lie in the window; an old one cuts no extent of the job, and a new one meets no extent of the job and
no other new one. -/
def State.movesFit (s : State) (job : BitVec 16) (ms : List Move) : Bool :=
  let apart (a n b m : Nat) : Bool := decide (a + n ≤ b) || decide (b + m ≤ a)
  ms.all (fun m => m.1 % 4096 = 0 && m.2.1 % 4096 = 0 && m.2.2 % 4096 = 0 && decide (m.1 + m.2.2 ≤ 2 ^ 28) &&
    decide (m.2.1 + m.2.2 ≤ 2 ^ 28) && s.extents.all (fun e => e.job ≠ job || ((e.inside m || e.outside m) && apart m.2.1 m.2.2 e.off e.len))) &&
  ((List.range ms.length).all (fun i => (List.range i).all (fun j =>
    apart (ms.getD i (0, 0, 0)).2.1 (ms.getD i (0, 0, 0)).2.2 (ms.getD j (0, 0, 0)).2.1 (ms.getD j (0, 0, 0)).2.2)))

/-- Some group of a job, placed, saved, or still to be placed by an admitted launch, carries an older generation (05 R86). -/
def State.olderGroup (s : State) (job : BitVec 16) (gen : Word32) : Bool :=
  s.cores.any (fun c => c.2.slots.any (fun e => match e.2.group with
    | some g => (s.unit g.unit).job = job && decide (g.gen.toNat < gen.toNat)
    | none => false)) ||
  s.images.any (fun e => e.2.unit.job = job && decide (e.2.unit.gen.toNat < gen.toNat)) ||
  s.launches.any (fun e => e.2.job = job && e.2.image.isSome && decide (e.2.gen.toNat < gen.toNat))

/-- A launch lease in force covers a page of an extent or of its data alias (03 R58). -/
def State.extentLeased (s : State) (e : Extent) : Bool :=
  let hits (r : Range) (a : Nat) : Bool := decide (r.base.toNat < a + e.len) && decide (a < r.base.toNat + r.size)
  s.ranges.any (fun r => r.launch ≠ 0 && r.asid = e.asid && (hits r (heapBase + e.off) || hits r (heapBase + 0x40000000 + e.off)))

/-! ## `icinv` (05 Table 5.2) -/

def icinvBusy (w : Word64) : Bool := w.getLsbD 63

/-- Timer expiry: the cycle at which `time` reaches a comparison value. -/
def State.timerAt (s : State) (c sl : Nat) : Option Nat :=
  match s.group c sl with
  | some g => if g.csr.stimecmp = BitVec.allOnes 64 then none else some (g.csr.stimecmp.toNat * 6)
  | none => none

/-- R20: The executive checks a kernel image against Table 1.5 and codes 9–10, copies text and data into a code heap extent, applies relocations, invalidates instruction caches and returns a kernel handle. Before bring-up has started the executive
nothing loads (22 R411). -/
def execImageLoad (job : BitVec 16) (img : List (BitVec 8)) (s : State) : Result :=
  if !s.power.exec || !s.registered job then .next s
  else
    match s.loadPlan job img with
    | .error c => .next { s with reply := [BitVec.ofNat 64 c] }
    | .ok (off, len) =>
      let t := (s.loadAt job img off len).nextGen job
      .next { t with
        kernels := Map.put t.kernels t.nextId (kernelOf job img off), reply := [0, BitVec.ofNat 64 t.nextId]
        nextId := t.nextId + 1 }

/-- R85: The host's replace call loads a new image under an existing handle, installs POINT entries on all eight dies and advances the job's text generation. -/
def execKernelReplace (handle : BitVec 64) (img : List (BitVec 8)) (points : List (Nat × Nat)) (s : State) : Result :=
  match Map.find s.kernels handle.toNat with
  | none => .next s
  | some k =>
    let free := s.freeFwd
    if free.length < points.length then .next { s with reply := [11] }
    else
      match s.loadPlan k.job img with
      | .error c => .next { s with reply := [BitVec.ofNat 64 c] }
      | .ok (off, len) =>
        let asid := (s.job k.job).asid
        let gen := (s.job k.job).gen + 1
        let t := s.loadAt k.job img off len
        let t := (points.zip free).foldl (fun t p => t.setFwd p.2 (fwdEntry 2 0 asid (off + p.1.2) (k.text + p.1.1))) t
        let t : State := { t with
          extents := t.extents.map (fun (e : Extent) => if e.job = k.job && e.off = k.text && e.old.isNone then { e with old := some gen } else e)
          kernels := Map.put t.kernels handle.toNat (kernelOf k.job img off), reply := [0, handle] }
        .next (t.nextGen k.job)

/-- R84: The executive parks groups, copies text ranges, installs MOVE entries, invalidates the old ranges, rewrites saved PCs, advances the generation and unparks the groups.
The k-th entries of `old`, `new` and `len` are one range. -/
def execHeapCompaction (job : BitVec 16) (old new len : List Nat) (s : State) : Result :=
  let moves := old.zip (new.zip len)
  let free := s.freeFwd
  if s.registered job && (s.job job).gen ≠ BitVec.allOnes 32 && s.movesFit job moves && decide (moves.length ≤ free.length) then
    .next (s.compact job moves free)
  else .next s

/-- R86: Once no group of an older generation remains, the executive removes forwarding entries, invalidates the range and unmaps it; not
while a launch leases a page of it (03 R58). -/
def execTextReclaim (job : BitVec 16) (old : BitVec 28) (s : State) : Result :=
  match s.extents.find? (fun e => e.job = job && e.off = old.toNat && e.old.isSome) with
  | some e => if s.olderGroup job (e.old.getD 0) || s.extentLeased e then .next s else .next (s.reclaim e)
  | none => .next s

/-- R82: A write to a forwarding table dword installs or removes an entry; a fetch that overlaps it sees the old or the new entry whole. -/
def execFwdTableWrite (die : BitVec 3) (idx : BitVec 10) (high : Bool) (v : BitVec 64) (s : State) : Result :=
  let d := s.die die.toNat
  let e := Map.getD 0 d.fwd idx.toNat
  let e : BitVec 128 := if high then (v &&& 0xCFFFFFFF0000FFFF) ++ e.extractLsb' 0 64
    else e.extractLsb' 64 64 ++ (v &&& 0x0FFFFFFF0FFFFFFF)
  .next (s.setDie die.toNat { d with fwd := Map.setD 0 d.fwd idx.toNat e })

/-- R82: A write to icinv starts invalidation of the named heap pages in every flock of the die; it is ignored while BUSY is set. -/
def execIcinvWrite (die : BitVec 3) (v : BitVec 64) (s : State) : Result :=
  let d := s.die die.toNat
  if icinvBusy d.icinv then .next s
  else .next (s.setDie die.toNat { d with icinv := (v &&& 0x0000FFFF0FFFFFFF) ||| 0x8000000000000000 })

/-- R82: The instruction cache invalidation finishes and BUSY clears. -/
def execIcinvComplete (die : BitVec 3) (s : State) : Result :=
  let d := s.die die.toNat
  if !icinvBusy d.icinv then .next s
  else
    let n := field d.icinv.toNat 0 12
    let t := s.icacheDrop (fun f => f / 1280 = die.toNat) (d.icinv.extractLsb' 32 16)
      (heapBase + 4096 * field d.icinv.toNat 12 16) (4096 * (if n = 0 then 4096 else n))
    .next (t.setDie die.toNat { d with icinv := d.icinv &&& 0x7FFFFFFFFFFFFFFF })

/-- R83: A fetch that misses the flock instruction cache looks up the forwarding table, then redirects the PC or completes the fill, or raises instruction access fault. -/
def execIcacheMissFill (c sl sp : Nat) (s : State) : Result :=
  match s.group c sl with
  | none => .next s
  | some g =>
    let p := g.split sp
    let key := tagKey (flockOf c) g.asid p.pc
    if !g.uses sp || p.wake.isSome || (Map.find s.icache key).isSome then .next s
    else
      match s.fetch c g p.mode p.pc with
      | .redirect pc => .next { s.setGroup c sl (g.setSplit sp { p with pc := pc }) with cycle := s.cycle + 8 }
      | .fault _ => .next s
      | .word _ =>
        match s.translate g.asid (p.pc &&& ~~~63#64) .fetch p.mode false false with
        | .ok pl _ =>
          let x : Ctx := { c := c, sl := sl, sp := sp }
          match s.flawAt x pl true with
          | some f => .next ((s.meetFlaw x p.pc pl false f).fillIcache (flockOf c) key (List.replicate 64 0))
          | none => .next (s.fillIcache (flockOf c) key (s.readPlace pl 64))
        | _ => .next s

/-- R123: When the issue slot is free, the core chooses the eligible split by priority, rotation and lowest PC, updates aging counters, and issues that split's clause. -/
def execIssueArbitration (c : Nat) (s : State) : Result :=
  .next (s.arbitrate c)

/-- R105: A native-mode stall hint window ends and the split becomes eligible again. -/
def execStallWindowExpire (c sl sp : Nat) (s : State) : Result :=
  match s.group c sl with
  | some g => if g.uses sp then .next (s.setGroup c sl (g.setSplit sp { g.split sp with window := false })) else .next s
  | none => .next s

/-- R323: time reaches stimecmp or mtimecmp and the timer interrupt becomes pending. -/
def execTimerCompare (c sl : Nat) (s : State) : Result :=
  match s.timerAt c sl with
  | some n => .next { s with cycle := max s.cycle n }
  | none => .next s

/-- R325: A write to sireq sets SSIP in the named group slot, or is dropped. -/
def execSireqWrite (_die : BitVec 3) (v : BitVec 64) (s : State) : Result :=
  match coreOf (v.extractLsb' 0 18) with
  | none => .next s
  | some c =>
    let sl := field v.toNat 18 3
    match (if 3 < sl then none else s.group c sl) with
    | some g => .next (s.setGroup c sl { g with csr := { g.csr with sip := g.csr.sip ||| 2 } })
    | none => .next s

end Sys2Proof.Machine
end

