-- ==== Sys2Proof/Machine/Records.lean ====
section
/-! DEFINITION. The record format of saved images and of the JOB record: headers, order, and bodies as lists of parts (16 R332, R333,
20 R375, log 12). -/

namespace Sys2Proof.Machine

/-! ## Bodies -/

/-- A part of a record's body: how it is written, and how it is read back into what stands there. Bytes that a shorter body lacks read
as zero (16 R333). -/
structure Lay (α : Type) where
  enc : α → List Byte
  dec : α → List Byte → α × List Byte

/-- The parts of a body in order. -/
def encAll {α : Type} (l : List (Lay α)) (a : α) : List Byte := l.flatMap (fun f => f.enc a)
def decRest {α : Type} (l : List (Lay α)) (a : α) (d : List Byte) : α × List Byte := l.foldl (fun r f => f.dec r.1 r.2) (a, d)
/-- Reading a body: what follows the parts the reader knows is ignored. -/
def decAll {α : Type} (l : List (Lay α)) (a : α) (d : List Byte) : α := (decRest l a d).1

/-- A number of n bytes. -/
def Lay.num {α : Type} (n : Nat) (get : α → Nat) (set : α → Nat → α) : Lay α :=
  { enc := fun a => leBytes (get a) n, dec := fun a d => (set a (leValue (d.take n)), d.drop n) }

/-- A register of w bits in n bytes. -/
def Lay.reg {α : Type} (n : Nat) {w : Nat} (get : α → BitVec w) (set : α → BitVec w → α) : Lay α :=
  Lay.num n (fun a => (get a).toNat) (fun a v => set a (BitVec.ofNat w v))

/-- A flag in one byte. -/
def Lay.flag {α : Type} (get : α → Bool) (set : α → Bool → α) : Lay α :=
  Lay.num 1 (fun a => if get a then 1 else 0) (fun a v => set a (v % 2 = 1))

/-- A part the reader ignores. -/
def Lay.info {α : Type} (n : Nat) (get : α → Nat) : Lay α := Lay.num n get (fun a _ => a)

/-- A file of numbers of n bytes each, from entry lo on. -/
def Lay.file {α : Type} (n lo count : Nat) (get : α → Nat → Nat) (set : α → Nat → Nat → α) : Lay α :=
  { enc := fun a => (List.range count).flatMap (fun i => leBytes (get a (lo + i)) n)
    dec := fun a d => (List.range count).foldl (fun r i => (set r.1 (lo + i) (leValue (r.2.take n)), r.2.drop n)) (a, d) }

/-- A run of bytes. -/
def Lay.bytes {α : Type} (n : Nat) (get : α → List Byte) (set : α → List Byte → α) : Lay α :=
  { enc := fun a => (List.range n).map (fun i => (get a).getD i 0)
    dec := fun a d => (set a ((List.range n).map (fun i => d.getD i 0)), d.drop n) }

/-- A list: its length in 4 bytes, then its elements; an element is read into the one that stands in its place, else into z. -/
def Lay.list {α β : Type} (get : α → List β) (set : α → List β → α) (z : β) (l : List (Lay β)) : Lay α :=
  { enc := fun a => leBytes (get a).length 4 ++ (get a).flatMap (encAll l)
    dec := fun a d =>
      let n := min (leValue (d.take 4)) d.length
      let r := (List.range n).foldl (fun (r : List β × List Byte) i =>
        let q := decRest l ((get a).getD i z) r.2
        (r.1 ++ [q.1], q.2)) ([], d.drop 4)
      (set a r.1, r.2) }

/-- A list of numbers of 8 bytes. -/
def Lay.nums {α : Type} (get : α → List Nat) (set : α → List Nat → α) : Lay α :=
  Lay.list get set 0 [Lay.num 8 id (fun _ v => v)]

/-- Parts of a component. -/
def Lay.at_ {α β : Type} (get : α → β) (set : α → β → α) (l : List (Lay β)) : Lay α :=
  { enc := fun a => encAll l (get a), dec := fun a d => let r := decRest l (get a) d; (set a r.1, r.2) }

/-! ## Records (16 Table 16.8) -/

/-- Records by tag and KEY, which is the header's upper half: SUB, SPLIT, SLOT and CORE, the number of a recruit beyond 8 bits in the upper
byte of SUB, of which no tag needs more than the lower one (log 12). -/
abbrev Records := Map (List Byte)

def recKey (tag sub split slot core : Nat) : Nat :=
  tag * 2 ^ 32 + core / 256 * 2 ^ 24 + sub * 2 ^ 16 + split * 2 ^ 11 + slot * 2 ^ 8 + core % 256

def keyTag (k : Nat) : Nat := k / 2 ^ 32
def keySub (k : Nat) : Nat := field k 16 8
def keySplit (k : Nat) : Nat := field k 11 3
def keySlot (k : Nat) : Nat := field k 8 3
def keyCore (k : Nat) : Nat := field k 0 8 + field k 24 8 * 256

/-- The record version of this edition (log 12). -/
def recVersion : Nat := 1

/-- A record: header, body, and zeros up to a multiple of 8. -/
def recBytes (k : Nat) (body : List Byte) : List Byte :=
  leBytes (keyTag k) 2 ++ leBytes recVersion 1 ++ leBytes 0 1 ++ leBytes body.length 4 ++ leBytes (k % 2 ^ 32) 4 ++ leBytes 0 4 ++
    body ++ leBytes 0 ((8 - body.length % 8) % 8)

/-- The records in ascending TAG order, and in ascending KEY order within a tag. -/
def Records.write (r : Records) : List Byte := r.flatMap (fun e => recBytes e.1 e.2)

/-- The KEY of a header, without the reserved bits above SPLIT (00 R8). -/
def keyOf (d : List Byte) : Nat := fieldAt d 8 4 - field (fieldAt d 8 4) 14 2 * 2 ^ 14

/-- Reads records up to the end of the bytes; none where one is cut off. The number counts every record, a repeated one too. -/
def readRecords : Nat → List Byte → Option (Nat × Records)
  | 0, _ => none
  | _ + 1, [] => some (0, [])
  | f + 1, d =>
    let n := fieldAt d 4 4
    if d.length < 16 + (n + 7) / 8 * 8 then none
    else
      (readRecords f (d.drop (16 + (n + 7) / 8 * 8))).map (fun r =>
        (r.1 + 1, Map.put r.2 (fieldAt d 0 2 * 2 ^ 32 + keyOf d) ((d.drop 16).take n)))

def Records.parse (d : List Byte) : Option (Nat × Records) := readRecords (d.length + 1) d

def Records.has (r : Records) (tag sub split slot core : Nat) : Bool := (Map.find r (recKey tag sub split slot core)).isSome

end Sys2Proof.Machine
end

