-- ==== Sys2Proof/Machine/Images.lean ====
section
/-! DEFINITION. The saved image of a unit: the parts of its cores, how their numbers are carried over to other cores, and the records it
is written as and read from (16 R331-R333, Tables 16.7-16.9, 12 Table 12.6, log 12). -/

namespace Sys2Proof.Machine

/-! ## Carrying a unit over to other cores (16 R331) -/

/-- How numbers of cores, scratchpad bytes and join cells become new ones, and how far the numbers of entries, steps and errands
are moved. -/
structure Rebind where
  cores : List (Nat × Nat)
  shift : Nat := 0
  /-- the scratchpad base before and now -/
  base  : Nat
  now   : Nat

def Rebind.core (r : Rebind) (c : Nat) : Nat := ((r.cores.find? (fun p => p.1 = c)).map Prod.snd).getD c
def Rebind.byte (r : Rebind) (b : Nat) : Nat := r.core (b / 32768) * 32768 + (b % 32768 + r.now - r.base)
def Rebind.line (r : Rebind) (l : Nat) : Nat := r.byte (l * 64) / 64
def Rebind.hart (r : Rebind) (h : Nat) : Nat := hartId (r.core (h / 8)) (h % 8)

def Rebind.wake (r : Rebind) : Wake → Wake
  | .quietOf c sl => .quietOf (r.core c) sl
  | .lines ls => .lines (ls.map r.line)
  | .copyRoom q n ls => .copyRoom q n (ls.map r.line)
  | .objPhase b p => .objPhase (r.byte b) p
  | .answer n => .answer (n + r.shift)
  | w => w

def Rebind.item (r : Rebind) : QItem → QItem
  | .entry e => .entry { e with id := e.id + r.shift, after := e.after.map (· + r.shift), loop := e.loop.map (· + r.shift) }
  | .join ids => .join (ids.map (· + r.shift))

def Rebind.step (r : Rebind) (t : Step) : Step :=
  { t with
    id := t.id + r.shift, waits := t.waits.map (· + r.shift)
    loop := t.loop.map (fun l => { l with redo := l.redo.map (fun p => (p.1 + r.shift, p.2 + r.shift)) }) }

/-- A cell key where the forkers' cells went. -/
def Rebind.cell (r : Rebind) (i : Image) (k : Nat) : Nat :=
  match (i.cores ++ i.recruits).find? (fun e => flockOf e.at_ = k / 64 && (Map.find e.joins (k % 64)).isSome) with
  | some e => flockOf (r.core e.at_) * 64 + k % 64
  | none => k

def Rebind.group (r : Rebind) (i : Image) (g : Group) : Group :=
  { g with splits := g.splits.map (fun (e : Nat × Split) => (e.1, { e.2 with
      wake := e.2.wake.map r.wake, held := e.2.held.map (fun q => (q.1, r.wake q.2)), joined := e.2.joined.map (r.cell i), skipBrk := true })) }

def Rebind.slot (r : Rebind) (i : Image) (w : Slot) : Slot :=
  { w with
    group := w.group.map (r.group i)
    refusals := w.refusals.map (fun e => (e.1, { e.2 with core := r.core e.2.core, arr := e.2.arr + r.shift })) }

def Rebind.coreImage (r : Rebind) (i : Image) (e : CoreImage) : CoreImage :=
  { e with
    at_ := r.core e.at_
    core := { e.core with
      slots := e.core.slots.map (fun w => (w.1, r.slot i w.2)), queues := e.core.queues.map (fun q => (q.1, q.2.map r.item))
      steps := e.core.steps.map r.step, tiles := e.core.tiles.map (fun t => { t with id := t.id + r.shift }) }
    scratch := e.scratch.foldl (fun m b => m.set (r.byte b.1) b.2) []
    lineP := e.lineP.foldl (fun m b => Map.put m (r.line b.1) b.2) []
    lineH := e.lineH.foldl (fun m b => Map.put m (r.line b.1) b.2) []
    joins := e.joins.map (fun j => (j.1, { j.2 with ocore := r.core j.2.ocore }))
    flights := e.flights.map (fun f => { f with core := r.core f.core, id := f.id + r.shift }) }

/-- A number that no entry, step, errand or refusal of a saved core reaches. -/
def CoreImage.bound (e : CoreImage) : Nat :=
  let k := e.core
  let ids := (k.queues.flatMap Prod.snd).flatMap (fun i => match i with
      | .entry x => x.id :: x.after
      | .join l => l) ++
    k.steps.flatMap (fun t => t.id :: t.waits ++ (t.loop.map (fun l => l.redo.flatMap (fun p => [p.1, p.2]))).getD []) ++
    k.tiles.map (fun t => t.id) ++ e.flights.map (fun f => f.id) ++ k.slots.flatMap (fun w => w.2.refusals.map (fun m => m.2.arr))
  ids.foldl max 0 + 1

def Image.bound (i : Image) : Nat := ((i.cores ++ i.recruits).map CoreImage.bound).foldl max 0

/-- An image whose cores have other numbers, and whose scratchpad window another base. -/
def Image.renumber (i : Image) (r : Rebind) : Image :=
  { i with
    unit := { i.unit with
      sbase := r.now
      nodes := i.unit.nodes.foldl (fun m e => Map.put m (r.core e.1) { e.2 with parent := r.core e.2.parent }) [] }
    cores := i.cores.map (r.coreImage i), recruits := i.recruits.map (r.coreImage i)
    sheep := i.sheep.map (fun h => { h with
      batches := h.batches.map (fun (b : Batch) => { b with holder := r.hart b.holder }), armed := h.armed.map r.hart }) }

/-- The number that stands in a record for unit core j, and for the recruits after number 96: one in a flock of its own that no core
has. -/
def imageCore (j : Nat) : Nat := 2 ^ 20 + 16 * j
def imageIndex (c : Nat) : Nat := (c - 2 ^ 20) / 16

def Image.ats (i : Image) : List Nat := i.cores.map (fun e => e.at_) ++ i.recruits.map (fun e => e.at_)
def Image.names (i : Image) : List Nat :=
  (List.range i.cores.length).map imageCore ++ (List.range i.recruits.length).map (fun r => imageCore (96 + r))

/-- The image with the numbers of its records, and back with the numbers of its cores. -/
def Image.canon (i : Image) : Image := i.renumber { cores := i.ats.zip i.names, base := i.unit.sbase, now := 0 }
def Image.uncanon (i : Image) (ats : List Nat) (base : Nat) : Image := i.renumber { cores := i.names.zip ats, base := 0, now := base }

/-! ## Codes of values that are no numbers -/

def Wake.code : Wake → List Nat
  | .counters t c s l => [1, t.toNat, c.toNat, s.toNat, l.toNat]
  | .fence s l d => [2, s.toNat, l.toNat, if d then 1 else 0]
  | .quiet => [3]
  | .quietOf c sl => [4, c, sl]
  | .lines ls => 5 :: ls
  | .copyRoom q n ls => 6 :: q :: n :: ls
  | .objPhase b p => [7, b, p.toNat]
  | .barPhase b p => [8, b.toNat, p.toNat]
  | .interrupt => [9]
  | .event => [10]
  | .sheepIdle => [11]
  | .answer i => [12, i]
  | .stepRoom => [13]
  | .loopFree m => [14, m.toNat]
  | .bell => [15]
  | .token b => [16, b]
  | .anyToken => [17]
  | .pendZero t => [18, t]

def Wake.ofCode (l : List Nat) : Option Wake :=
  let a (i : Nat) : Nat := l.getD i 0
  match a 0 with
  | 1 => some (.counters (.ofNat 3 (a 1)) (.ofNat 3 (a 2)) (.ofNat 3 (a 3)) (.ofNat 3 (a 4)))
  | 2 => some (.fence (.ofNat 3 (a 1)) (.ofNat 3 (a 2)) (a 3 = 1))
  | 3 => some .quiet
  | 4 => some (.quietOf (a 1) (a 2))
  | 5 => some (.lines (l.drop 1))
  | 6 => some (.copyRoom (a 1) (a 2) (l.drop 3))
  | 7 => some (.objPhase (a 1) (.ofNat 16 (a 2)))
  | 8 => some (.barPhase (.ofNat 4 (a 1)) (.ofNat 16 (a 2)))
  | 9 => some .interrupt
  | 10 => some .event
  | 11 => some .sheepIdle
  | 12 => some (.answer (a 1))
  | 13 => some .stepRoom
  | 14 => some (.loopFree (.ofNat 8 (a 1)))
  | 15 => some .bell
  | 16 => some (.token (a 1))
  | 17 => some .anyToken
  | 18 => some (.pendZero (a 1))
  | _ => none

def Token.code : Token → List Nat
  | .vector sl new => [1, sl, if new then 1 else 0]
  | .engine => [2]
  | .nobody => [3]
def Token.ofCode (l : List Nat) : Token :=
  if l.getD 0 0 = 1 then .vector (l.getD 1 0) (l.getD 2 0 = 1) else if l.getD 0 0 = 2 then .engine else .nobody

def BankState.code : BankState → Nat
  | .free => 0 | .f => 1 | .el => 2 | .eh => 3
def BankState.ofCode (n : Nat) : BankState := if n = 1 then .f else if n = 2 then .el else if n = 3 then .eh else .free

/-- An optional number as a list. -/
def optCode (o : Option Nat) : List Nat := match o with
  | some n => [n]
  | none => []
def optOf (l : List Nat) : Option Nat := l.head?

/-- The notification of a freeze: its cause, if it has one, and its value. -/
def freezeCode (o : Option (Option Nat × Word64)) : List Nat := match o with
  | some (c, v) => [(c.map (fun n => n + 1)).getD 0, v.toNat]
  | none => []
def freezeOf (l : List Nat) : Option (Option Nat × Word64) := match l with
  | c :: v :: _ => some (if c = 0 then none else some (c - 1), .ofNat 64 v)
  | _ => none

/-! ## UNIT, SHEEP, TRACE -/

def Unit.setBar (x : Unit) (b : Nat) (f : UBar → UBar) : Unit :=
  { x with bars := Map.setD {} x.bars b (f ((Map.find x.bars b).getD {})) }

/-- Tag 1. The arrival marks of the groups stand in their SPLIT records; of those that have finished, here. -/
def unitLay (ilock : Bool) : List (Lay Unit) := [
  .num 4 (fun x => x.ngroups) (fun x n => { x with ngroups := n }),
  .reg 4 (fun x => x.gen) (fun x v => { x with gen := v }),
  .info 4 (fun _ => if ilock then 1 else 0),
  .file 2 0 16 (fun x b => (x.bar (.ofNat 4 b)).phase.toNat) (fun x b v => x.setBar b (fun y => { y with phase := .ofNat 16 v })),
  .file 1 0 16 (fun x b => if (x.bar (.ofNat 4 b)).left then 1 else 0) (fun x b v => x.setBar b (fun y => { y with left := v = 1 })),
  .file 4 0 16 (fun x b => (x.bar (.ofNat 4 b)).count) (fun x b v => x.setBar b (fun y => { y with count := v })),
  .reg 8 (fun x => x.status) (fun x v => { x with status := v }),
  .reg 8 (fun x => x.faddr) (fun x v => { x with faddr := v }),
  .num 8 (fun x => x.ftime) (fun x n => { x with ftime := n }),
  .num 4 (fun x => x.counter) (fun x n => { x with counter := n }),
  .num 2 (fun x => x.vregs) (fun x n => { x with vregs := n }),
  .reg 8 (fun x => x.param) (fun x v => { x with param := v }),
  .nums (fun x => x.finished) (fun x l => { x with finished := l }),
  .list (fun x => x.nodes) (fun x l => { x with nodes := l }) (0, { parent := 0, pending := 0 }) [
    .num 2 (fun e => imageIndex e.1) (fun e n => (imageCore n, e.2)),
    .num 2 (fun e => imageIndex e.2.parent) (fun e n => (e.1, { e.2 with parent := imageCore n })),
    .num 4 (fun e => e.2.pending) (fun e n => (e.1, { e.2 with pending := n })),
    .reg 8 (fun e => e.2.status) (fun e v => (e.1, { e.2 with status := v })),
    .reg 8 (fun e => e.2.faddr) (fun e v => (e.1, { e.2 with faddr := v })),
    .num 8 (fun e => e.2.ftime) (fun e n => (e.1, { e.2 with ftime := n }))]]

/-- Tag 13: the window in push order, the body table, the batches with their holders, ARMED, SWEEPS. -/
def sheepLay : List (Lay Sheep) := [
  .list (fun h => h.window) (fun h l => { h with window := l }) 0 [.reg 16 id (fun _ v => v)],
  .nums (fun h => h.batches.flatMap (fun b => b.bodies.map BitVec.toNat)) (fun h _ => h),
  .list (fun h => h.batches) (fun h l => { h with batches := l }) { holder := 0, count := 0, bodies := [] } [
    .num 8 (fun b => b.holder) (fun b n => { b with holder := n }),
    .num 4 (fun b => b.count) (fun b n => { b with count := n }),
    .nums (fun b => b.bodies.map BitVec.toNat) (fun b l => { b with bodies := l.map (BitVec.ofNat 24) })],
  .nums (fun h => h.armed) (fun h l => { h with armed := l }),
  .reg 2 (fun h => h.sweeps) (fun h v => { h with sweeps := v })]

/-- Tag 16, for each unit core: TCTL, TUNIT, TENTRY, TBRK. -/
def traceLay : List (Lay CoreImage) :=
  let k (get : Core → Word64) (set : Core → Word64 → Core) : Lay CoreImage :=
    .reg 8 (fun e => get e.core) (fun e v => { e with core := set e.core v })
  [k (fun k => k.tctl) (fun k v => { k with tctl := v }), k (fun k => k.tunit) (fun k v => { k with tunit := v }),
   k (fun k => k.tentry) (fun k v => { k with tentry := v }), k (fun k => k.tbrk) (fun k v => { k with tbrk := v })]

/-! ## Groups and splits -/

/-- Tag 4, up to the counters. -/
def groupLay : List (Lay Group) := [
  .reg 1 (fun g => g.prio) (fun g v => { g with prio := v }),
  .file 4 0 4 (fun g k => (g.split k).aging) (fun g k v => if g.uses k then g.setSplit k { g.split k with aging := v } else g),
  .flag (fun g => g.aur) (fun g v => { g with aur := v }),
  .flag (fun g => g.xdiv) (fun g v => { g with xdiv := v }),
  .flag (fun g => g.lw16) (fun g v => { g with lw16 := v }),
  .info 1 (fun g => g.splits.foldl (fun m e => m + 2 ^ e.1) 0),
  .reg 4 (fun g => g.exited) (fun g v => { g with exited := v }),
  .file 4 1 7 (fun g k => (Map.getD 0 g.m k).toNat) (fun g k v => { g with m := Map.setD 0 g.m k (.ofNat 32 v) }),
  .file 8 128 384 (fun g n => (Map.getD 0 g.y n).toNat) (fun g n v => { g with y := Map.setD 0 g.y n (.ofNat 64 v) })]

/-- Tag 4, what the model's edition appends. -/
def groupTail : List (Lay Group) := [
  .num 4 (fun g => g.index) (fun g n => { g with index := n }),
  .nums (fun g => optCode (g.recruit.map BitVec.toNat)) (fun g l => { g with recruit := (optOf l).map (BitVec.ofNat 64) }),
  .reg 4 (fun g => g.gen) (fun g v => { g with gen := v }),
  .flag (fun g => g.ilock) (fun g v => { g with ilock := v }),
  .num 1 (fun g => g.vregs) (fun g n => { g with vregs := n }),
  .reg 1 (fun g => g.wsgrp) (fun g v => { g with wsgrp := v }),
  .reg 1 (fun g => g.gsel) (fun g v => { g with gsel := v }),
  .reg 2 (fun g => g.dom) (fun g v => { g with dom := v }),
  .reg 5 (fun g => g.tbase) (fun g v => { g with tbase := v }),
  .reg 1 (fun g => g.tlast) (fun g v => { g with tlast := v }),
  .reg 8 (fun g => g.instret) (fun g v => { g with instret := v }),
  .nums (fun g => optCode g.trapped) (fun g l => { g with trapped := optOf l }),
  .flag (fun g => g.halted) (fun g v => { g with halted := v }),
  .nums (fun g => freezeCode g.frozen) (fun g l => { g with frozen := freezeOf l }),
  .num 1 (fun g => g.frames.length) (fun g n => { g with frames := (List.range n).map (fun i => g.frames.getD i {}) })]

/-- Tag 5: the split's own registers. -/
def splitLay : List (Lay Split) := [
  .reg 4 (fun p => p.m0) (fun p v => { p with m0 := v }),
  .reg 4 (fun p => p.lanes) (fun p v => { p with lanes := v }),
  .reg 1 (fun p => p.depth) (fun p v => { p with depth := v }),
  .file 4 0 16 (fun p n => (Map.getD 0 p.stack n).toNat) (fun p n v => { p with stack := Map.setD 0 p.stack n (.ofNat 32 v) }),
  .flag (fun p => p.pp) (fun p v => { p with pp := v }),
  .reg 1 (fun p => p.crem) (fun p v => { p with crem := v }),
  .reg 4 (fun p => p.gfmt) (fun p v => { p with gfmt := v }),
  .nums (fun p => (p.wake.map Wake.code).getD []) (fun p l => { p with wake := Wake.ofCode l }),
  .flag (fun p => p.atLjalr) (fun p v => { p with atLjalr := v }),
  .reg 2 (fun p => p.marks) (fun p v => { p with marks := v }),
  .reg 1 (fun p => p.cremEngc) (fun p v => { p with cremEngc := v }),
  .reg 1 (fun p => p.idx) (fun p v => { p with idx := v }),
  .flag (fun p => p.resume) (fun p v => { p with resume := v }),
  .flag (fun p => p.window) (fun p v => { p with window := v }),
  .reg 1 (fun p => p.ansRd) (fun p v => { p with ansRd := v }),
  .nums (fun p => (p.arrived.map (fun a => [a.1.toNat, a.2.toNat])).getD [])
    (fun p l => { p with arrived := match l with
      | b :: ph :: _ => some (.ofNat 4 b, .ofNat 16 ph)
      | _ => none }),
  .nums (fun p => optCode p.joined) (fun p l => { p with joined := optOf l }),
  .nums (fun p => optCode (p.joinCont.map BitVec.toNat)) (fun p l => { p with joinCont := (optOf l).map (BitVec.ofNat 64) }),
  .nums (fun p => optCode (p.trapFrom.map (fun q => (modeCode q).toNat))) (fun p l => { p with trapFrom := (optOf l).map (fun n => modeOf (.ofNat 2 n)) }),
  .list (fun p => p.held) (fun p l => { p with held := l }) (.u, .quiet) [
    .num 1 (fun e => (modeCode e.1).toNat) (fun e n => (modeOf (.ofNat 2 n), e.2)),
    .nums (fun e => e.2.code) (fun e l => (e.1, (Wake.ofCode l).getD .quiet))]]

/-- Tag 5: PC, mode and x1-x31 of split k, then the rest. -/
def groupSplitLay (k : Nat) : List (Lay Group) := [
  .reg 8 (fun g => (g.split k).pc) (fun g v => g.setSplit k { g.split k with pc := v }),
  .num 1 (fun g => (modeCode (g.split k).mode).toNat) (fun g n => g.setSplit k { g.split k with mode := modeOf (.ofNat 2 n) }),
  .file 8 1 31 (fun g r => (Map.getD 0 g.y (32 * k + r)).toNat) (fun g r v => { g with y := Map.setD 0 g.y (32 * k + r) (.ofNat 64 v) }),
  .at_ (fun g => g.split k) (fun g p => g.setSplit k p) splitLay]

/-- Tag 6: v0 to v(V-1), each as its words, lane 0 first. -/
def lanesLay (vregs : Nat) : List (Lay Group) :=
  [.file 4 0 (32 * vregs) (fun g n => (Map.getD 0 g.v n).toNat) (fun g n v => { g with v := Map.setD 0 g.v n (.ofNat 32 v) })]

/-- Tag 7. -/
def scsrLay : List (Lay SCsr) := [
  .reg 8 (fun c => c.sstatus) (fun c v => { c with sstatus := v }), .reg 8 (fun c => c.sepc) (fun c v => { c with sepc := v }),
  .reg 8 (fun c => c.scause) (fun c v => { c with scause := v }), .reg 8 (fun c => c.stval) (fun c v => { c with stval := v }),
  .reg 8 (fun c => c.sscratch) (fun c v => { c with sscratch := v }), .reg 8 (fun c => c.stvec) (fun c v => { c with stvec := v }),
  .reg 8 (fun c => c.sie) (fun c v => { c with sie := v }), .reg 8 (fun c => c.sip) (fun c v => { c with sip := v }),
  .reg 8 (fun c => c.stimecmp) (fun c v => { c with stimecmp := v }),
  .reg 4 (fun c => c.scounteren) (fun c v => { c with scounteren := v }),
  .reg 8 (fun c => c.senvcfg) (fun c v => { c with senvcfg := v }), .reg 8 (fun c => c.satp) (fun c v => { c with satp := v })]

/-- Tag 14: a gate frame with its shadow (17 R337). -/
def frameLay : List (Lay GateFrame) := [
  .file 8 1 32 (fun f r => (Map.getD 0 f.shadow r).toNat) (fun f r v => { f with shadow := Map.setD 0 f.shadow r (.ofNat 64 v) }),
  .reg 8 (fun f => f.ret) (fun f v => { f with ret := v }), .reg 2 (fun f => f.asid) (fun f v => { f with asid := v }),
  .reg 2 (fun f => f.dom) (fun f v => { f with dom := v }), .reg 5 (fun f => f.tbase) (fun f v => { f with tbase := v }),
  .reg 1 (fun f => f.tlast) (fun f v => { f with tlast := v }), .reg 1 (fun f => f.gidx) (fun f v => { f with gidx := v }),
  .reg 4 (fun f => f.xarg) (fun f v => { f with xarg := v }), .reg 4 (fun f => f.xres) (fun f v => { f with xres := v }),
  .reg 2 (fun f => f.larg) (fun f v => { f with larg := v }), .reg 1 (fun f => f.lwin) (fun f v => { f with lwin := v }),
  .reg 6 (fun f => f.fault) (fun f v => { f with fault := v }), .reg 4 (fun f => f.m0) (fun f v => { f with m0 := v }),
  .file 4 1 7 (fun f k => (Map.getD 0 f.m k).toNat) (fun f k v => { f with m := Map.setD 0 f.m k (.ofNat 32 v) }),
  .reg 1 (fun f => f.depth) (fun f v => { f with depth := v }),
  .file 4 0 16 (fun f n => (Map.getD 0 f.stack n).toNat) (fun f n v => { f with stack := Map.setD 0 f.stack n (.ofNat 32 v) }),
  .flag (fun f => f.faulted) (fun f v => { f with faulted := v })]

/-! ## Queues, messages, tasks -/

def emptyEntry : Entry := { id := 0, slot := 0, who := 0, mode := .u, asid := 0, unit := 0, raw := 0 }

/-- What an engine holds about an entry, beside its 32-byte request. -/
def QItem.nums : QItem → List Nat
  | .join ids => 0 :: ids
  | .entry e => [1, e.id, e.slot, e.who.toNat, (modeCode e.mode).toNat, e.asid.toNat, if e.fetched then 1 else 0,
      if e.err then 1 else 0, if e.cut then 1 else 0, (freezeCode e.dead).length] ++ freezeCode e.dead ++ e.after
def QItem.raw : QItem → BitVec 256
  | .entry e => e.raw
  | .join _ => 0
def QItem.old : QItem → Entry
  | .entry e => e
  | .join _ => emptyEntry

def QItem.ofNums (i : QItem) (l : List Nat) : QItem :=
  let a (n : Nat) : Nat := l.getD n 0
  if a 0 = 0 then .join (l.drop 1)
  else .entry { i.old with
    id := a 1, slot := a 2, who := .ofNat 4 (a 3), mode := modeOf (.ofNat 2 (a 4)), asid := .ofNat 16 (a 5), fetched := a 6 = 1
    err := a 7 = 1, cut := a 8 = 1, dead := freezeOf ((l.drop 10).take (a 9)), after := l.drop (10 + a 9) }

/-- Tag 8: each entry as its 32-byte request or fill, with joins. -/
def itemLay : List (Lay QItem) := [
  .reg 32 QItem.raw (fun i v => .entry { i.old with raw := v }),
  .nums QItem.nums QItem.ofNums]

def msgLay : List (Lay Msg) := [
  .reg 4 (fun m => m.tag) (fun m v => { m with tag := v }), .reg 8 (fun m => m.hdr) (fun m v => { m with hdr := v }),
  .nums (fun m => m.pay.map BitVec.toNat) (fun m l => { m with pay := l.map (BitVec.ofNat 64) }),
  .num 4 (fun m => m.core) (fun m n => { m with core := n }), .num 1 (fun m => m.slot) (fun m n => { m with slot := n }),
  .reg 2 (fun m => m.job) (fun m v => { m with job := v }), .num 8 (fun m => m.unit) (fun m n => { m with unit := n }),
  .reg 1 (fun m => m.reply) (fun m v => { m with reply := v }), .num 8 (fun m => m.arr) (fun m n => { m with arr := n })]

def channelLay : List (Lay (Nat × Channel)) := [
  .num 1 Prod.fst (fun e n => (n, e.2)),
  .reg 8 (fun e => e.2.handler) (fun e v => (e.1, { e.2 with handler := v })),
  .flag (fun e => e.2.bound) (fun e v => (e.1, { e.2 with bound := v })),
  .reg 1 (fun e => e.2.prio) (fun e v => (e.1, { e.2 with prio := v })),
  .num 1 (fun e => e.2.depth) (fun e n => (e.1, { e.2 with depth := n })),
  .list (fun e => e.2.mailbox) (fun e l => (e.1, { e.2 with mailbox := l })) {} msgLay]

/-- What a slot's sends have left: SEQ, the sends outstanding, the refusals. -/
def areaLay : List (Lay Slot) := [
  .reg 2 (fun w => w.seq) (fun w v => { w with seq := v }), .num 4 (fun w => w.sends) (fun w n => { w with sends := n }),
  .list (fun w => w.refusals) (fun w l => { w with refusals := l }) (0, {}) [
    .reg 1 Prod.fst (fun e v => (v, e.2)), .at_ Prod.snd (fun e m => (e.1, m)) msgLay]]

def taskRecLay : List (Lay Slot) := [
  .reg 8 (fun w => w.tenq) (fun w v => { w with tenq := v }), .reg 8 (fun w => w.tdeq) (fun w v => { w with tdeq := v }),
  .reg 8 (fun w => w.tsrch) (fun w v => { w with tsrch := v }), .reg 8 (fun w => w.tfn) (fun w v => { w with tfn := v }),
  .flag (fun w => w.tvalid) (fun w v => { w with tvalid := v })]

def taskLay : List (Lay Task) := [
  .reg 8 (fun t => t.fn) (fun t v => { t with fn := v }), .reg 8 (fun t => t.arg) (fun t v => { t with arg := v }),
  .reg 8 (fun t => t.tenq) (fun t v => { t with tenq := v })]

def Errand.code : Errand → List Nat
  | .steal v n => [0, v, n]
  | .flush op => [1, op.toNat]
  | .cancel a ctl => [2, a.toNat, ctl.toNat]
  | _ => [3]
def Errand.ofCode (l : List Nat) : Errand :=
  let a (i : Nat) : Nat := l.getD i 0
  if a 0 = 0 then .steal (a 1) (a 2) else if a 0 = 1 then .flush (.ofNat 2 (a 1)) else .cancel (.ofNat 64 (a 1)) (.ofNat 64 (a 2))

/-- Errands that are answered and not taken up. -/
def flightLay : List (Lay Flight) := [
  .nums (fun f => [f.id, f.slot, f.split, f.asid.toNat, (modeCode f.mode).toNat, f.rd.toNat, f.since.toNat, f.pc.toNat,
      if f.arrived then 1 else 0])
    (fun f l => { f with
      id := l.getD 0 0, slot := l.getD 1 0, split := l.getD 2 0, asid := .ofNat 16 (l.getD 3 0), mode := modeOf (.ofNat 2 (l.getD 4 0))
      rd := .ofNat 5 (l.getD 5 0), since := .ofNat 64 (l.getD 6 0), pc := .ofNat 64 (l.getD 7 0), arrived := l.getD 8 0 = 1 }),
  .nums (fun f => f.what.code) (fun f l => { f with what := .ofCode l }),
  .nums (fun f => ((f.answer.getD []).map BitVec.toNat)) (fun f l => { f with answer := some (l.map (BitVec.ofNat 64)) })]

def emptyFlight (c : Nat) : Flight :=
  { id := 0, core := c, slot := 0, split := 0, unit := 0, job := 0, asid := 0, mode := .u, rd := 0, what := .steal 0 0 }

/-! ## The matrix engine -/

def mslotLay : List (Lay (Nat × MSlot)) := [
  .num 1 Prod.fst (fun e n => (n, e.2)),
  .nums (fun e => optCode e.2.owner) (fun e l => (e.1, { e.2 with owner := optOf l })),
  .reg 1 (fun e => e.2.tag) (fun e v => (e.1, { e.2 with tag := v })),
  .bytes 1024 (fun e => e.2.bytes.bytes 0 1024) (fun e d => (e.1, { e.2 with bytes := Memory.setBytes [] 0 d })),
  .bytes 64 (fun e => e.2.side.bytes 0 64) (fun e d => (e.1, { e.2 with side := Memory.setBytes [] 0 d }))]

def bankLay : List (Lay (Nat × Bank)) := [
  .num 1 Prod.fst (fun e n => (n, e.2)),
  .num 1 (fun e => e.2.state.code) (fun e n => (e.1, { e.2 with state := .ofCode n })),
  .file 4 0 256 (fun e i => (Map.getD 0 e.2.words i).toNat) (fun e i v => (e.1, { e.2 with words := Map.setD 0 e.2.words i (.ofNat 32 v) })),
  .flag (fun e => e.2.loss) (fun e v => (e.1, { e.2 with loss := v })),
  .nums (fun e => e.2.token.code) (fun e l => (e.1, { e.2 with token := .ofCode l }))]

/-- 12 Table 12.6; ASRC and BSRC of what is left are ANEXT and BNEXT. -/
def LoopRec.bytes (l : LoopRec) (t : Step) : List Byte :=
  l.asrc.toNat |> fun a => leBytes a 8 ++ leBytes l.bsrc.toNat 8 ++ leBytes l.actl.toNat 8 ++ leBytes l.bctl.toNat 8 ++
    leBytes l.ainc.toNat 8 ++ leBytes l.binc.toNat 8 ++
    leBytes (l.left + (if l.odd then 2 ^ 16 else 0) + (if t.z then 2 ^ 17 else 0) + t.bank * 2 ^ 18 +
      (l.sa0 + l.sa1 * 8 + l.sb0 * 64 + l.sb1 * 512) * 2 ^ 23) 8 ++ leBytes t.slot 8

/-- An MLOOP from its saved record; mode and address space are its issuer's. -/
def LoopRec.ofBytes (d : List Byte) (md : Mode) (asid : BitVec 16) : LoopRec :=
  let w := fieldAt d 0x30 8
  { asrc := wordAt d 0, bsrc := wordAt d 8, actl := wordAt d 16, bctl := wordAt d 24, ainc := wordAt d 32, binc := wordAt d 40
    left := field w 0 16, odd := w.testBit 16, sa0 := field w 23 3, sa1 := field w 26 3, sb0 := field w 29 3, sb1 := field w 32 3
    mode := md, asid := asid }

def Step.withLoop (t : Step) (d : List Byte) (md : Mode) (asid : BitVec 16) : Step :=
  let w := fieldAt d 0x30 8
  { t with loop := some (LoopRec.ofBytes d md asid), z := w.testBit 17, bank := field w 18 5, slot := fieldAt d 0x38 8 }

def pairsOf : List Nat → List (Nat × Nat)
  | a :: b :: r => (a, b) :: pairsOf r
  | _ => []

/-- A step of the step queue: an MMA as the numbers it names, an MLOOP with its sequencer record. -/
def stepLay : List (Lay Step) := [
  .nums (fun t => [t.id, t.slot, t.fa.toNat, t.fb.toNat, t.sa, t.sb, t.bank, if t.z then 1 else 0] ++
      (t.loop.map (fun l => [(modeCode l.mode).toNat, l.asid.toNat])).getD [])
    (fun t l =>
      let t : Step := { t with
        id := l.getD 0 0, slot := l.getD 1 0, fa := .ofNat 5 (l.getD 2 0), fb := .ofNat 5 (l.getD 3 0), sa := l.getD 4 0
        sb := l.getD 5 0, bank := l.getD 6 0, z := l.getD 7 0 = 1, begun := false, loop := none }
      if 8 < l.length then t.withLoop [] (modeOf (.ofNat 2 (l.getD 8 0))) (.ofNat 16 (l.getD 9 0)) else t),
  .bytes 64 (fun t => (t.loop.map (fun l => l.bytes t)).getD [])
    (fun t d => match t.loop with
      | some l => t.withLoop d l.mode l.asid
      | none => t),
  .nums (fun t => t.waits) (fun t l => { t with waits := l }),
  .nums (fun t => (t.loop.map (fun l => l.redo.flatMap (fun p => [p.1, p.2]))).getD [])
    (fun t l => { t with loop := t.loop.map (fun r => { r with redo := pairsOf l }) })]

def rtileLay (u : Nat) : List (Lay (Nat × RTile)) := [
  .num 1 Prod.fst (fun e n => (n, e.2)),
  .flag (fun e => e.2.unit.isSome) (fun e v => (e.1, { e.2 with unit := if v then some u else none })),
  .reg 2 (fun e => e.2.pend) (fun e v => (e.1, { e.2 with pend := v })), .reg 2 (fun e => e.2.drops) (fun e v => (e.1, { e.2 with drops := v })),
  .reg 4 (fun e => e.2.tag) (fun e v => (e.1, { e.2 with tag := v })),
  .num 2 (fun e => ((e.2.loose.head?).map (fun p => p.2.toNat)).getD 0)
    (fun e n => (e.1, { e.2 with loose := if n = 0 then [] else [(u, .ofNat 16 n)] })),
  .list (fun e => e.2.sums) (fun e l => (e.1, { e.2 with sums := l })) (0, 0, 0, false) [
    .num 2 Prod.fst (fun s n => (n, s.2)), .reg 16 (fun s => s.2.1) (fun s v => (s.1, v, s.2.2)),
    .reg 4 (fun s => s.2.2.1) (fun s v => (s.1, s.2.1, v, s.2.2.2)), .flag (fun s => s.2.2.2) (fun s v => (s.1, s.2.1, s.2.2.1, v))]]

def emptyStep : Step := { id := 0, slot := 0, unit := 0, fa := 0, fb := 0, sa := 0, sb := 0, bank := 0, z := false }

/-- Tag 9. -/
def matrixLay (u : Nat) : List (Lay Core) := [
  .list (fun k => k.mslots) (fun k l => { k with mslots := l }) (0, {}) mslotLay,
  .list (fun k => k.banks) (fun k l => { k with banks := l }) (0, {}) bankLay,
  .list (fun k => k.steps) (fun k l => { k with steps := l }) emptyStep stepLay,
  .list (fun k => k.rtiles) (fun k l => { k with rtiles := l }) (0, {}) (rtileLay u),
  .list (fun k => k.tiles) (fun k l => { k with tiles := l }) { id := 0, slot := 0, who := 0 } [
    .num 8 (fun t => t.id) (fun t n => { t with id := n }), .num 1 (fun t => t.slot) (fun t n => { t with slot := n }),
    .reg 1 (fun t => t.who) (fun t v => { t with who := v })]]

/-! ## The records of a core -/

def CoreImage.grp (e : CoreImage) (sl : Nat) : Group := ((e.core.slot sl).group).getD {}
def CoreImage.setGrp (e : CoreImage) (sl : Nat) (g : Group) : CoreImage :=
  { e with core := e.core.setSlot sl { e.core.slot sl with group := some g } }

/-- Parts of the group in a slot, of the slot, and of the core. -/
def inGroup (sl : Nat) (l : List (Lay Group)) : Lay CoreImage := .at_ (fun e => e.grp sl) (fun e g => e.setGrp sl g) l
def inSlot (sl : Nat) (l : List (Lay Slot)) : Lay CoreImage :=
  .at_ (fun e => e.core.slot sl) (fun e w => { e with core := e.core.setSlot sl w }) l
def inCore (l : List (Lay Core)) : Lay CoreImage := .at_ (fun e => e.core) (fun e k => { e with core := k }) l

/-- Outstanding operations that a split of a slot counts, by class. -/
def Core.counts (k : Core) (sl n : Nat) : Nat :=
  let sp := n / 4
  if n % 4 = 0 then k.loadCount sl sp else if n % 4 = 1 then k.storeCount sl sp else if n % 4 = 2 then k.copyCount sl sp
  else k.tileCount sl sp

/-- 1 where the group is parked at a TTAKE, 2 at a BTAKE. -/
def Group.parkedFor (g : Group) : Nat :=
  if g.splits.any (fun e => e.2.wake = some .bell) then 2
  else if g.splits.any (fun e => match e.2.wake with
    | some (.token _) => true
    | some .anyToken => true
    | _ => false) then 1 else 0

/-- The body of a record of a core, by its tag, SUB, SPLIT and SLOT; `u` is the unit. -/
def coreLay (u tag sub split slot : Nat) : List (Lay CoreImage) :=
  match tag with
  | 2 => [
    .num 4 (fun e => e.base) (fun e n => { e with base := n }), .num 4 (fun e => e.size) (fun e n => { e with size := n }),
    .flag (fun e => e.core.chanUnit.isSome) (fun e v => { e with core := { e.core with chanUnit := if v then some u else none } }),
    .flag (fun e => e.core.dequeUnit.isSome) (fun e v => { e with core := { e.core with dequeUnit := if v then some u else none } }),
    .nums (fun e => e.slots) (fun e l => { e with slots := l })]
  | 3 => [
    .bytes 4096 (fun e => e.scratch.bytes (e.at_ * 32768 + sub * 4096) 4096)
      (fun e d => { e with scratch := Memory.setBytes (e.scratch.clear (e.at_ * 32768 + sub * 4096) 4096) (e.at_ * 32768 + sub * 4096) d }),
    .file 1 0 64 (fun e n => Map.getD 0 e.lineP (e.at_ * 512 + sub * 64 + n) % 8 +
        (if Map.getD false e.lineH (e.at_ * 512 + sub * 64 + n) then 8 else 0))
      (fun e n v => { e with
        lineP := Map.setD 0 e.lineP (e.at_ * 512 + sub * 64 + n) (v % 8)
        lineH := Map.setD false e.lineH (e.at_ * 512 + sub * 64 + n) (v.testBit 3) })]
  | 4 => [
    .info 1 (fun _ => slot), inGroup slot groupLay, .file 2 0 16 (fun e n => e.core.counts slot n) (fun e _ _ => e),
    .flag (fun e => e.core.bell = some slot) (fun e v =>
      { e with core := { e.core with bell := if v then some slot else e.core.bell } }),
    .info 4 (fun e => (List.range 32).foldl (fun m b => m + (if (e.core.bank b).newFor slot then 2 ^ b else 0)) 0),
    .info 1 (fun e => (e.grp slot).parkedFor), inGroup slot groupTail]
  | 5 => [inGroup slot (groupSplitLay split)]
  | 6 => [
    { enc := fun e => encAll (lanesLay (e.grp slot).vregs) (e.grp slot)
      dec := fun e d => (e.setGrp slot (decAll (lanesLay (e.grp slot).vregs) (e.grp slot) d), []) }]
  | 7 => [inGroup slot [.at_ (fun g => g.csr) (fun g c => { g with csr := c }) scsrLay]]
  | 8 => [.list (fun e => e.core.queue sub) (fun e l => { e with core := { e.core with queues := Map.put e.core.queues sub l } }) (.join []) itemLay]
  | 9 => [inCore (matrixLay u)]
  | 10 => [
    inCore [.list (fun k => k.channels) (fun k l => { k with channels := l }) (0, {}) channelLay],
    inSlot 0 areaLay, inSlot 1 areaLay, inSlot 2 areaLay, inSlot 3 areaLay, inSlot 4 areaLay,
    inSlot 4 [
      .nums (fun w => optCode (w.activation.map BitVec.toNat)) (fun w l => { w with activation := (optOf l).map (BitVec.ofNat 3) }),
      .reg 8 (fun w => w.actHdr) (fun w v => { w with actHdr := v }), .reg 8 (fun w => w.actPc) (fun w v => { w with actPc := v })],
    inGroup 4 (groupSplitLay 0 ++ lanesLay 16 ++ groupLay ++ groupTail),
    inGroup 4 [.list (fun g => g.frames) (fun g l => { g with frames := l }) {} frameLay]]
  | 11 => [
    inCore [.list (fun k => k.deque) (fun k l => { k with deque := l }) { fn := 0, arg := 0, tenq := 0 } taskLay],
    .nums (fun e => optCode e.core.stealBox) (fun e l => { e with core := { e.core with stealBox := optOf l } }),
    inSlot 0 taskRecLay, inSlot 1 taskRecLay, inSlot 2 taskRecLay, inSlot 3 taskRecLay, inSlot 4 taskRecLay,
    .list (fun e => e.flights) (fun e l => { e with flights := l.map (fun f => { f with core := e.at_ }) }) (emptyFlight 0) flightLay]
  | 12 =>
    let cell (e : CoreImage) : JoinCell := (Map.find e.joins sub).getD { unit := u, named := sub, cont := 0, count := 0, ocore := e.at_, oslot := 0 }
    let put (e : CoreImage) (j : JoinCell) : CoreImage := { e with joins := Map.put e.joins sub { j with unit := u, ocore := e.at_ } }
    [.at_ cell put [
      .num 8 (fun j => 1 + j.count * 2 + j.cont.toNat * 2 ^ 16)
        (fun j n => { j with count := field n 1 7, cont := .ofNat 48 (n / 2 ^ 16) })],
     .num 8 (fun e => e.pos % 16 * 2 ^ 2 + (cell e).oslot * 2 ^ 6)
       (fun e n => { put e { cell e with oslot := field n 6 2 } with pos := field n 2 4 }),
     .at_ cell put [
      .info 1 (fun j => imageIndex j.ocore),
      .num 1 (fun j => j.named) (fun j n => { j with named := n })]]
  | 14 => [inGroup slot [.list (fun g => g.frames) (fun g l => { g with frames := l }) {} frameLay]]
  | _ => []

/-- The instances of the records of a core: tag, SUB, SPLIT, SLOT. CORE and SCRATCH stand for unit cores only. -/
def CoreImage.keys (e : CoreImage) (unitCore : Bool) : List (Nat × Nat × Nat × Nat) :=
  let k := e.core
  let here := [0, 1, 2, 3].filter (fun sl => (k.slot sl).group.isSome)
  (if unitCore then (2, 0, 0, 0) :: (List.range (ceilDiv e.size 4096)).map (fun b => (3, b, 0, 0)) else []) ++
  here.flatMap (fun sl => [(4, 0, 0, sl), (6, 0, 0, sl), (7, 0, 0, sl)] ++ (e.grp sl).splits.map (fun p => (5, 0, p.1, sl)) ++
    (if (e.grp sl).frames.isEmpty then [] else [(14, 0, 0, sl)])) ++
  (if k.chanUnit.isSome then [(7, 0, 0, 4), (10, 0, 0, 0)] else []) ++
  (k.queues.filter (fun q => !q.2.isEmpty)).map (fun q => (8, q.1, 0, 0)) ++
  (if k.mslots.isEmpty && k.banks.isEmpty && k.steps.isEmpty && k.rtiles.isEmpty && k.tiles.isEmpty then [] else [(9, 0, 0, 0)]) ++
  (if k.dequeUnit.isSome || !e.flights.isEmpty || k.slots.any (fun w => w.2.tvalid) then [(11, 0, 0, 0)] else []) ++
  e.joins.map (fun j => (12, j.1, 0, 0))

/-- Tag 15: the frozen masters of a core, with cause, value and address (a cause the spec does not name is free, log 3), and the access
that ended the unit, with cause 27 (16 R318). -/
def CoreImage.faults (e : CoreImage) (j : Nat) (lease : Option (Nat × Nat × Word64)) : List (Nat × List Byte) :=
  let body (c : Nat) (v : Word64) : List Byte := leBytes c 8 ++ leBytes v.toNat 8 ++ leBytes v.toNat 8
  let cause (c : Option Nat) : Nat := c.getD ((Config.freeWord j).toNat % 64)
  [0, 1, 2, 3, 4].filterMap (fun sl => match (e.core.slot sl).group with
    | some g => g.frozen.map (fun q => (recKey 15 0 0 sl j, body (cause q.1) q.2))
    | none => none) ++
  e.core.queues.flatMap (fun q => q.2.filterMap (fun i => match i with
    | .entry x => x.dead.map (fun d => (recKey 15 (q.1 + 1) 0 5 j, body (cause d.1) d.2))
    | .join _ => none)) ++
  (match lease with
   | some (c, sl, va) => if c = e.at_ then [(recKey 15 0 0 sl j, body 27 va)] else []
   | none => [])

/-! ## The records of an image -/

/-- The cores of an image with their numbers in its records: unit core j, and 96 + r for recruit r (log 12). -/
def Image.indexed (i : Image) : List (Nat × CoreImage) :=
  (List.range i.cores.length).zip i.cores ++ ((List.range i.recruits.length).map (fun r => 96 + r)).zip i.recruits

/-- THE RECORDS of an image. -/
def Image.records (i : Image) : Records :=
  let u := i.number
  let z := i.canon
  let lease := i.unit.lease.map (fun l => (((i.ats.zip i.names).find? (fun p => p.1 = l.1)).map Prod.snd |>.getD l.1, l.2))
  let ilock := i.cores.any (fun e => e.core.slots.any (fun w => w.2.group.any (fun g => g.ilock)))
  let bodies : List (Nat × List Byte) :=
    (recKey 1 0 0 0 0, encAll (unitLay ilock) z.unit) ::
    (z.indexed.flatMap (fun q =>
      (q.2.keys (q.1 < 96)).map (fun n => (recKey n.1 n.2.1 n.2.2.1 n.2.2.2 q.1, encAll (coreLay u n.1 n.2.1 n.2.2.1 n.2.2.2) q.2)) ++
      q.2.faults q.1 lease)) ++
    (match z.sheep with
      | some h => [(recKey 13 0 0 0 0, encAll sheepLay h)]
      | none => []) ++
    [(recKey 16 0 0 0 0, z.cores.flatMap (encAll traceLay))]
  bodies.foldl (fun m e => Map.put m e.1 e.2) []

/-- 16 Table 16.7, with the bytes and the number of the records. -/
def imageHeader (fwver : Word32) (i : Image) (len nrec : Nat) : List Byte :=
  let x := i.unit
  leBytes 0x56534E48 4 ++ leBytes 0 2 ++ leBytes 1 2 ++ leBytes fwver.toNat 4 ++ leBytes 0x31 1 ++ leBytes 0 3 ++
    leBytes len 4 ++ leBytes nrec 4 ++ leBytes x.job.toNat 2 ++ leBytes x.asid.toNat 2 ++ leBytes x.index 4 ++
    leBytes i.desc.toNat 8 ++ leBytes x.cores.length 1 ++
    leBytes ((if x.lw16 then 1 else 0) + (if i.sheep.isSome then 2 else 0)) 1 ++ leBytes 0 22

/-- THE BYTES of an image. -/
def Image.write (i : Image) (fwver : Word32) : List Byte :=
  let r := i.records
  let d := r.write
  imageHeader fwver i (64 + d.length) r.length ++ d

/-! ## Reading an image (16 R333) -/

/-- The split ids in use that a GROUP record names (06 Table 6.4): the byte after PRIO, the aging counters and three flags. -/
def splitsNamed (d : List Byte) : List Nat := [0, 1, 2, 3].filter (fun k => (fieldAt d 20 1).testBit k)

/-- The required records are there for every instance the others imply: of a group, a SPLIT record for each split id in use. -/
def Records.complete (r : Records) (ncore : Nat) (sheep : Bool) : Bool :=
  let own (sl j : Nat) : Bool :=
    r.has 6 0 0 sl j && r.has 7 0 0 sl j && match Map.find r (recKey 4 0 0 sl j) with
      | some d => !(splitsNamed d).isEmpty && (splitsNamed d).all (fun k => r.has 5 0 k sl j)
      | none => false
  let core (j : Nat) : Bool := match Map.find r (recKey 2 0 0 0 j) with
    | some d =>
      (List.range (ceilDiv (fieldAt d 4 4) 4096)).all (fun b => r.has 3 b 0 0 j) &&
        (fieldAt d 8 1 % 2 = 0 || (r.has 10 0 0 0 j && r.has 7 0 0 4 j)) && (fieldAt d 9 1 % 2 = 0 || r.has 11 0 0 0 j)
    | none => false
  let gated (k : Nat) (d : List Byte) : Bool :=
    (decAll (coreLay 0 4 0 0 (keySlot k)) ({ at_ := 0, core := {}, scratch := [], lineP := [], lineH := [], joins := [] } : CoreImage) d
      |>.grp (keySlot k)).frames.isEmpty || r.has 14 0 0 (keySlot k) (keyCore k)
  r.has 1 0 0 0 0 && (List.range ncore).all core && (!sheep || r.has 13 0 0 0 0) &&
    r.all (fun e => match keyTag e.1 with
      | 4 => own (keySlot e.1) (keyCore e.1) && gated e.1 e.2
      | 5 => own (keySlot e.1) (keyCore e.1)
      | 6 => own (keySlot e.1) (keyCore e.1)
      | _ => true)

/-- What of a core stands in records; of what stood there before, only what they name is kept, to be read into. -/
def CoreImage.cut (e : CoreImage) (mine : Records) : CoreImage :=
  let has (t : Nat) (p : Nat → Bool) : Bool := mine.any (fun q => keyTag q.1 = t && p q.1)
  let all : Nat → Bool := fun _ => true
  let slot (sl : Nat) : Slot :=
    let w := e.core.slot sl
    let ids := (mine.filter (fun q => keyTag q.1 = 5 && keySlot q.1 = sl)).map (fun q => keySplit q.1)
    let g := w.group.getD {}
    { w with group :=
        if sl = handlerSlot then (if has 10 all then some (if g.splits.isEmpty then { g with splits := [(0, {})] } else g) else none)
        else if has 4 (fun k => keySlot k = sl) then some { g with splits := ids.foldl (fun m k => Map.put m k (g.split k)) [] } else none }
  let k : Core := { e.core with
    slots := [0, 1, 2, 3, 4].map (fun sl => (sl, slot sl)), queues := e.core.queues.filter (fun q => has 8 (fun n => keySub n = q.1)), bell := none
    chanUnit := none, dequeUnit := none }
  let k := if has 9 all then k else { k with mslots := [], banks := [], steps := [], rtiles := [], tiles := [] }
  let k := if has 10 all then k else { k with channels := [] }
  { e with
    core := if has 11 all then k else { k with deque := [] }
    joins := e.joins.filter (fun j => has 12 (fun n => keySub n = j.1)), flights := if has 11 all then e.flights else [] }

/-- The records of a core, read in tag order. -/
def CoreImage.read (e : CoreImage) (u j : Nat) (r : Records) : CoreImage :=
  let mine := r.filter (fun q => keyCore q.1 = j && decide (2 ≤ keyTag q.1) && keyTag q.1 ≠ 13)
  mine.foldl (fun e q => decAll (coreLay u (keyTag q.1) (keySub q.1) (keySplit q.1) (keySlot q.1)) e q.2) (e.cut mine)

/-- Everything of a core belongs to the unit. -/
def CoreImage.own (e : CoreImage) (u : Nat) (job asid : BitVec 16) : CoreImage :=
  let k := e.core
  { e with
    core := { k with
      slots := k.slots.map (fun w => (w.1, { w.2 with group := w.2.group.map (fun g => { g with unit := u }) }))
      mslots := k.mslots.map (fun m => (m.1, { m.2 with unit := u })), banks := k.banks.map (fun b => (b.1, { b.2 with unit := u }))
      steps := k.steps.map (fun t => { t with unit := u })
      queues := k.queues.map (fun q => (q.1, q.2.map (fun i => match i with
        | .entry x => .entry { x with unit := u }
        | .join l => .join l))) }
    joins := e.joins.map (fun j => (j.1, { j.2 with unit := u }))
    flights := e.flights.map (fun f => { f with unit := u, job := job, asid := asid }) }

/-- An empty core of an image. -/
def blankCore (j : Nat) : CoreImage := { at_ := imageCore j, core := {}, scratch := [], lineP := [], lineH := [], joins := [] }

/-- THE IMAGE that records stand for, read into an image with their numbers. -/
def Image.read (i : Image) (r : Records) (ncore : Nat) : Image :=
  let u := i.number
  let core (l : List CoreImage) (n j : Nat) : CoreImage := ((l.getD n (blankCore j)).read u j r).own u i.unit.job i.unit.asid
  let trace := (Map.find r (recKey 16 0 0 0 0)).getD []
  let cores := (List.range ncore).map (fun j => decAll traceLay (core i.cores j j) (trace.drop (32 * j)))
  let rs := (List.range 928).filter (fun n => r.any (fun e => keyTag e.1 = 4 && keyCore e.1 = 96 + n))
  let x := decAll (unitLay false) i.unit ((Map.find r (recKey 1 0 0 0 0)).getD [])
  { i with
    unit := { x with ssize := ((cores.map (fun e => e.size)).foldl (fun a b => a + b) 0), slots := (cores.head?.map (fun e => e.slots)).getD [] }
    cores := cores, recruits := rs.map (fun n => core i.recruits n (96 + n))
    sheep := (Map.find r (recKey 13 0 0 0 0)).map (decAll sheepLay ((i.sheep).getD { owner := some u })) }

end Sys2Proof.Machine
end

