-- ==== Sys2Proof/Machine/Place.lean ====
section
/-! DEFINITION. Placement of units on cores and their retirement (04 R66-R76, 03 R62). -/

namespace Sys2Proof.Machine

/-! ## Room on cores (04 R68-R72) -/

/-- The units of which a core is a unit core. -/
def State.unitsOn (s : State) (c : Nat) : List (Nat × Unit) := s.units.filter (fun e => e.2.cores.contains c)

/-- 04 R72: it hosts no unit's group, holds no reservation, is not fenced and awaits no test. -/
def State.coreIdle (s : State) (c : Nat) : Bool :=
  let k := s.core c
  (s.unitsOn c).isEmpty && k.reserved.isNone && !k.fenced && !k.testDue

/-- What a unit of a kernel needs of a core it shares. -/
structure Need where
  groups  : Nat
  lane    : Nat
  scratch : Nat
  chans   : Bool

def Kernel.need (k : Kernel) : Need :=
  { groups := k.groups, lane := k.groups * 128 * k.vregs + k.handlerBytes, scratch := k.scratch, chans := !k.chans.isEmpty }

/-- Lane-file bytes a placed single-core unit takes; a unit of several cores takes all. -/
def State.laneBytes (s : State) (u : Nat) (x : Unit) (c : Nat) : Nat :=
  x.slots.length * 128 * x.vregs + (if (s.core c).chanUnit = some u then 2048 else 0)

/-- The lowest free run of a size among allocations in ascending order; 04 R69 asks for one, and does not say which (log 33). -/
def freeRun (n : Nat) : Nat → List (Nat × Nat) → Option Nat
  | b, [] => if b + n ≤ 32768 then some b else none
  | b, (a, m) :: r => if b + n ≤ a then some b else freeRun n (max b (a + m)) r

/-- Where a sharing unit would stand on a core: its slots and the base of its scratchpad (04 R69). -/
def State.shareRoom (s : State) (c : Nat) (n : Need) : Option (List Nat × Nat) :=
  let k := s.core c
  let us := s.unitsOn c
  let free := [0, 1, 2, 3].filter (fun sl => !us.any (fun e => e.2.slots.contains sl))
  let allocs := (us.foldl (fun (m : Map Nat) e => if e.2.ssize = 0 then m else Map.put m e.2.sbase e.2.ssize) [])
  if k.fenced || k.testDue || k.reserved.isSome || us.any (fun e => 1 < e.2.cores.length) ||
      (n.chans && us.any (fun e => k.chanUnit = some e.1)) || free.length < n.groups ||
      32768 < n.lane + (us.map (fun e => s.laneBytes e.1 e.2 c)).sum then none
  else (freeRun n.scratch 0 allocs).map (fun b => (free.take n.groups, b))

def flockCores (die f : Nat) : List Nat := (List.range 16).map (fun i => die * 20480 + f * 16 + i)
def State.flockIdle (s : State) (die f : Nat) : Bool := (flockCores die f).all s.coreIdle

/-- Up to 16 cores: from one flock, wholly idle flocks last; a region that `ok` accepts. -/
def State.smallRegion (s : State) (die n : Nat) (need : Need) (ok : List Nat → Bool) : Option (List Nat) :=
  let here (f : Nat) : Option (List Nat) :=
    if n = 1 then ((flockCores die f).find? (fun c => (s.shareRoom c need).isSome)).map (fun c => [c])
    else
      let idle := (flockCores die f).filter s.coreIdle
      if n ≤ idle.length && ok (idle.take n) then some (idle.take n) else none
  match (List.range 1280).findSome? (fun f => if s.flockIdle die f then none else here f) with
  | some r => some r
  | none => (List.range 1280).findSome? here

/-- More than 16 cores: wholly idle flocks of a row, or a block of two rows, as the model reads the block of 04 R72 (log 33); a region
that `ok` accepts. -/
def State.largeRegion (s : State) (die n : Nat) (ok : List Nat → Bool) : Option (List Nat) :=
  let f := ceilDiv n 16
  let try_ (w h : Nat) : Option (List Nat) :=
    (List.range 1280).findSome? (fun a =>
      if 40 < a % 40 + w || 32 < a / 40 + h then none
      else
        let fs := (List.range h).flatMap (fun y => (List.range w).map (fun x => a + 40 * y + x))
        let cs := (fs.flatMap (flockCores die)).take n
        if fs.all (s.flockIdle die) && ok cs then some cs else none)
  match try_ f 1 with
  | some r => some r
  | none => try_ (ceilDiv f 2) 2

/-- The first region, die by die, after the die that received the placer's last unit (04 R72); none on a die whose write gate
is open (10 R202). -/
def State.region (s : State) (iod n : Nat) (need : Need) : Option (List Nat) :=
  let start := match Map.find s.lastDie iod with
    | some d => d + 1
    | none => 0
  (List.range 8).findSome? (fun i =>
    let die := (start + i) % 8
    if (s.die die).wsOpen then none
    else if n ≤ 16 then s.smallRegion die n need (fun _ => true) else s.largeRegion die n (fun _ => true))

/-! ## Placing a unit (04 R70, R73, R74, R76) -/

/-- Starts the groups of a placed unit: q groups on each unit core in index order. -/
def State.startGroups (s : State) (u : Nat) (l : Launch) (k : Kernel) : State :=
  let x := s.unit u
  let n := x.cores.length
  let q := ceilDiv k.groups n
  let entry := heapAddr (k.text + k.entry)
  (List.range n).foldl (fun s j =>
    let c := x.cores.getD j 0
    let s := s.bindCore u c (heapAddr k.text) k.chans l.ilock
    let s := if 1 < n || !k.chans.isEmpty then s.setCore c { s.core c with dequeUnit := some u } else s
    let ids := (List.range k.groups).filter (fun i => decide (j * q ≤ i) && decide (i < (j + 1) * q))
    (ids.zip (if n = 1 then x.slots else [0, 1, 2, 3])).foldl (fun s e =>
      let g := { s.freshGroup u c e.2 with prio := l.prio, ilock := l.ilock }
      s.startIn c e.2 (startSplits g entry l.param x.index e.1)) s) s

/-- The next unit of a launch takes its region, its tree branch is laid, its groups start. -/
def State.placeUnit (s : State) (id : Nat) (l : Launch) (k : Kernel) (cores : List Nat) : State :=
  let u := s.nextId
  let c0 := cores.headD 0
  let die := dieOf c0
  let room := if cores.length = 1 then (s.shareRoom c0 k.need).getD ([], 0) else ([], 0)
  let x : Unit := {
    launch := id, index := l.next, job := l.job, asid := (s.job l.job).asid, gen := l.gen, cores := cores
    ngroups := k.groups, counter := k.groups, sbase := room.2, ssize := k.scratch, slots := room.1, vregs := k.vregs
    lw16 := k.lw16, param := l.param }
  let x := x.layTree (ceilDiv k.groups cores.length)
  let col := (Map.find l.cols die).getD {}
  let s := s.setLaunch id { l with
    next := l.next + 1, cols := Map.put l.cols die { col with pending := col.pending + 1, forwarded := false } }
  let s := { s.setUnit u x with nextId := u + 1 }
  s.startGroups u l k

/-- The placer's pending launches, in its order (04 R71). -/
def State.pending (s : State) (iod : Nat) : List (Nat × Launch) :=
  let ls := s.launches.filter (fun e =>
    e.2.iod = iod && e.2.stage = .running && decide (e.2.next < e.2.gx * e.2.gy * e.2.gz) && !(s.job e.2.job).unplaced)
  (ls.foldl (fun (m : Map (Nat × Launch)) e => Map.put m ((7 - e.2.prio.toNat) * 2 ^ 64 + e.2.seq) e) []).map Prod.snd

/-! ## Retiring a unit (03 R62, 04 R75, R76, 14 R274, R281) -/

/-- A unit's channels on a core are gone, with their undelivered entries (14 R274). -/
def Core.freeChannels (k : Core) (u : Nat) : Core :=
  if k.chanUnit = some u then
    let k : Core := { k with
      channels := [], chanUnit := none
      slots := k.slots.map (fun e => (e.1, { e.2 with refusals := [], sends := e.2.sends - e.2.refusals.length })) }
    k.setSlot handlerSlot { k.slot handlerSlot with group := none, activation := none }
  else k

def State.freeDeque (s : State) (u c : Nat) : State :=
  let k := s.core c
  if k.dequeUnit = some u then
    let s := match k.stealBox with
      | some id => s.failSteal id 4
      | none => s
    let k := s.core c
    s.setCore c { k with
      dequeUnit := none, deque := [], stealBox := none
      dropped := BitVec.ofNat 32 (min (k.dropped.toNat + k.deque.length) (2 ^ 32 - 1)) }
  else s

/-- A batch of a hart that ends, and its armed bit (15 R302). -/
def Sheep.forget (h : Sheep) (p : Nat → Bool) : Sheep :=
  { h with batches := h.batches.filter (fun b => !p b.holder), armed := h.armed.filter (fun a => !p a) }

/-- A scratchpad line lies in the unit's window. -/
def Unit.hasLine (x : Unit) (ln : Nat) : Bool :=
  x.cores.contains (ln / 512) &&
    (1 < x.cores.length || (decide (x.sbase ≤ ln % 512 * 64) && decide (ln % 512 * 64 < x.sbase + x.ssize)))

/-- What a unit held on its cores and on its recruits' is free again; its lines are present for the next unit (log 10). -/
def State.freeUnit (s : State) (u : Nat) : State :=
  let x := s.unit u
  let s := x.cores.foldl (fun s c =>
    let s := s.freeDeque u c
    s.setCore c ((s.core c).freeChannels u)) s
  let s : State := { s with cores := s.cores.map (fun (e : Nat × Core) => (e.1, { e.2.freeMatrix u with
    reserved := if e.2.reserved = some u then none else e.2.reserved })) }
  let s := s.dropSteals u
  let s := (s.freeSheep u).endStepOf u
  { s with
    joins := s.joins.filter (fun e => e.2.unit ≠ u)
    lineP := s.lineP.filter (fun e => !x.hasLine e.1), lineH := s.lineH.filter (fun e => !x.hasLine e.1)
    flights := s.flights.filter (fun f => f.unit ≠ u)
    units := Map.del s.units u }

/-- R72: The placer finds a region of idle cores for the next unit, reserves it, lays the tree branch and starts the groups; a lost reservation or a missing region makes it search again later. -/
def execUnitPlace (iod : BitVec 1) (s : State) : Result :=
  let ready := (s.pending iod.toNat).findSome? (fun e =>
    match e.2.image with
    | none => none
    | some k => (s.region iod.toNat k.cores k.need).map (fun r => (e.1, e.2, k, r)))
  match ready with
  | some (id, l, k, r) =>
    let t := { s with lastDie := Map.put s.lastDie iod.toNat (dieOf (r.headD 0)) }
    .next (t.placeUnit id l k r)
  | none => .next s

/-- R62: When the unit counter reaches zero, the unit root sends its combined status word up the completion tree and the unit's resources are freed. -/
def execUnitRetire (u : Nat) (s : State) : Result :=
  match Map.find s.units u with
  | none => .next s
  | some x =>
    if s.unitOver u x then
      let x := x.collect
      let w := if s.usedFenced u x then x.status ||| flagFenced else x.status
      let t := (s.suspectLevels u x).freeUnit u
      let d : DoneMsg := { id := t.nextId, launch := x.launch, die := dieOf (x.cores.headD 0), status := w, faddr := x.faddr
                           ftime := x.ftime }
      .next { t with dones := t.dones ++ [d], nextId := t.nextId + 1 }
    else .next s

end Sys2Proof.Machine
end

