-- ==== Sys2Proof/Machine/Tasks.lean ====
section
/-! DEFINITION. Active messages, task deques, range forks, and scheduling from kernels (14 R274-R296). -/

namespace Sys2Proof.Machine

/-! ## Errands (14 R285, R290) -/

/-- Every operation of a slot with a lower id is performed. -/
def Core.earlierDone (k : Core) (sl id : Nat) : Bool :=
  k.ops.all (fun o => !(o.slot = sl && decide (o.id < id)) || o.accs.all (fun a => a.done))

/-- A split sends an errand. -/
def State.ask (s : State) (x : Ctx) (what : Errand) (rd : BitVec 5) : State :=
  let g := s.grp x
  { s with
    flights := s.flights ++ [{
      id := s.nextId, core := x.c, slot := x.sl, split := x.sp, unit := g.unit, job := (s.unit g.unit).job, asid := g.asid
      mode := (g.split x.sp).mode, pc := (g.split x.sp).pc, rd := rd, what := what, since := s.time }]
    nextId := s.nextId + 1 }

/-- An errand whose result the split's register waits for. -/
def State.askFor (s : State) (x : Ctx) (what : Errand) (rd : BitVec 5) : State :=
  let p := s.spl x
  (s.setSpl x { p with pend := p.pend ++ [{ rd := rd, val := none, id := s.nextId, bank := x.sp }] }).ask x what rd

def State.flight (s : State) (n : Nat) : Option Flight := s.flights.find? (fun f => f.id = n)
def State.dropFlight (s : State) (n : Nat) : State := { s with flights := s.flights.filter (fun f => f.id ≠ n) }
def State.putFlight (s : State) (f : Flight) : State :=
  { s with flights := s.flights.map (fun g => if g.id = f.id then f else g) }

/-- An instruction that parked its split completes: the split goes on after it, or at a continuation. -/
def State.completeParked (s : State) (c sl sp : Nat) (cont : Option Word64) : State :=
  match s.group c sl with
  | none => s
  | some g =>
    let p := g.split sp
    let g : Group := { g with instret := g.instret + 1 }
    let g := g.setSplit sp { p with
      pc := cont.getD (p.pc + 4), crem := p.crem - 1, wake := none, pp := false, resume := true, joined := none
      joinCont := none, atLjalr := false, skipBrk := false }
    (s.setGroup c sl g).mergeTest c sl

/-- The errand that the instruction at the split's pc has sent: issued again after a trap, it takes it up. -/
def State.parkedErrand (s : State) (x : Ctx) (p : Split) (what : Errand) : Option Flight :=
  s.flights.find? (fun f => f.core = x.c && f.slot = x.sl && f.split = x.sp && f.mode = p.mode && f.pc = p.pc && f.what = what)

/-- An instruction that parks until its errand is answered; `finish` writes the result. -/
def parkAsk (x : Ctx) (s : State) (what : Errand) (rd : BitVec 5) (finish : State → List Word64 → State) : Res :=
  match s.parkedErrand x (s.spl x) what with
  | some f =>
    match (if f.arrived then f.answer else none) with
    | some vs => .next (finish (s.dropFlight f.id) vs)
    | none => .park s (.answer f.id)
  | none => if x.handler then .trap 26 (x.word.setWidth 64) else .park (s.ask x what rd) (.answer s.nextId)

/-- The split of an errand waits, parked, for its answer; one that is frozen takes the answer up when its group unfreezes (16 R315). -/
def State.parkedOn (s : State) (f : Flight) : Bool :=
  match s.group f.core f.slot with
  | some g => (g.split f.split).wake = some (.answer f.id) && (g.trapped.isNone || g.trapped = some f.split)
  | none => false

/-! ## MSEND, MCHAN, HEND (14 R275-R279, R286-R288) -/

def tagCoord (t : BitVec 24) : Option Nat := coreOf (t.extractLsb' 6 18)
def coreTag (c sl : Nat) (ch : BitVec 3) : BitVec 24 := coordOf c ++ BitVec.ofNat 3 sl ++ ch

/-- The header of a message or refusal (Table 14.1). -/
def msgHeader (uf seq : BitVec 16) (kind : BitVec 2) (tag : BitVec 24) : Word64 :=
  uf ++ seq ++ 0#4 ++ kind ++ 0#2 ++ tag

def msendBody (rd rs1 rs2 : BitVec 5) (x : Ctx) (s : State) : Res :=
  let d := s.x x rs1
  let w := s.slot x.c x.sl
  if d.extractLsb' 3 3 ≠ 4#3 || (tagCoord (d.extractLsb' 0 24)).isNone then .trap 28 d
  else if 8 ≤ w.sends then .next (s.setX x rd (-1))
  else
    let g := s.grp x
    let m : Msg := {
      tag := d.extractLsb' 0 24, hdr := msgHeader (d.extractLsb' 48 16) w.seq 0 (coreTag x.c x.sl (d.extractLsb' 24 3))
      pay := (List.range 4).map (fun i => s.x x (rs2 + BitVec.ofNat 5 i)), core := x.c, slot := x.sl
      job := (s.unit g.unit).job, unit := g.unit, reply := d.extractLsb' 24 3 }
    let s := s.setSlot x.c x.sl { w with seq := w.seq + 1, sends := w.sends + 1 }
    let s : State := { s with mails := s.mails ++ [{ id := s.nextId, refusal := false, msg := m }], nextId := s.nextId + 1 }
    .next (s.setX x rd (w.seq.setWidth 64))

def mchanBody (rd rs1 rs2 : BitVec 5) (x : Ctx) (s : State) : Res :=
  let k := s.core x.c
  if k.chanUnit ≠ some (s.grp x).unit then .next (s.setX x rd (-1))
  else
    let v := s.x x rs2
    let h := s.x x rs1
    let n : BitVec 3 := v.extractLsb' 0 3
    let ch := k.channel n.toNat
    let ch := if v.getLsbD 16 then { ch with bound := false }
      else if h ≠ 0 then { ch with handler := h &&& ~~~3#64, bound := true } else ch
    let dep := (v.extractLsb' 8 5).toNat
    let ch := { ch with
      prio := if v.getLsbD 7 then v.extractLsb' 4 3 else ch.prio
      depth := if dep = 0 then ch.depth else min dep 16 }
    .next ((s.setCore x.c (k.setChannel n.toNat ch)).setX x rd ((coreTag x.c 4 n).setWidth 64))

/-- The handler slot becomes idle. -/
def hendBody (x : Ctx) (s : State) : Res :=
  let w := s.slot x.c x.sl
  let g := s.grp x
  let p := g.split x.sp
  let g : Group := { g with instret := g.instret + 1 }
  let g := g.setSplit x.sp { p with
    left := 0, engc := 7, fmt := none, stall := 0, pp := false, crem := 0, armed := false, resume := false }
  .gone (s.setSlot x.c x.sl { w with group := some g, activation := none })

/-- A send no longer counts in the slot that sent it (14 R276). -/
def State.sendDone (s : State) (m : Msg) : State :=
  let w := s.slot m.core m.slot
  s.setSlot m.core m.slot { w with sends := w.sends - 1 }

/-- Whether a unit of a job owns the channels of a core and is not pre-empted (14 R276, R277). -/
def State.ownsChannels (s : State) (c : Nat) (job : BitVec 16) : Bool :=
  match (s.core c).chanUnit with
  | some u => (Map.find s.units u).isSome && (s.unit u).job = job && !(s.unit u).saving && !(s.unit u).ended
  | none => false

/-- A message arrives at its core: accepted, or refused. -/
def State.msgArrive (s : State) (m : Msg) : State :=
  match tagCoord m.tag with
  | none => s
  | some c =>
    let ch := (s.core c).channel (m.tag.extractLsb' 0 3).toNat
    let refuse (kind : BitVec 2) : State :=
      let r := { m with hdr := msgHeader (m.hdr.extractLsb' 48 16) (m.hdr.extractLsb' 32 16) kind m.tag }
      { s with mails := s.mails ++ [{ id := s.nextId, refusal := true, msg := r }], nextId := s.nextId + 1 }
    if !s.ownsChannels c m.job || !ch.bound then refuse 2
    else if ch.depth ≤ ch.mailbox.length then refuse 1
    else
      (s.setCore c ((s.core c).setChannel (m.tag.extractLsb' 0 3).toNat { ch with mailbox := ch.mailbox ++ [m] })).sendDone m

/-- A refusal arrives back at the sender: dropped, or placed in its slot's area. -/
def State.refusalBack (s : State) (m : Msg) : State :=
  let k := s.core m.core
  if k.chanUnit ≠ some m.unit || !(k.channel m.reply.toNat).bound then
    (s.sendDone m).addStatus m.unit m.core flagMsgdrop 0
  else
    let w := s.slot m.core m.slot
    { s.setSlot m.core m.slot { w with refusals := w.refusals ++ [(m.reply, { m with arr := s.nextId })] } with
      nextId := s.nextId + 1 }

/-- The oldest refusal for a channel on a core: its slot and message. -/
def Core.refusalFor (k : Core) (ch : BitVec 3) : Option (Nat × Msg) :=
  [0, 1, 2, 3, 4].foldl (fun (best : Option (Nat × Msg)) sl =>
    match (k.slot sl).refusals.find? (fun r => r.1 = ch), best with
    | some r, some b => if r.2.arr < b.2.arr then some (sl, r.2) else some b
    | some r, none => some (sl, r.2)
    | none, b => b) none

/-- The channel whose entry starts next: the highest PRIO, then the lowest number (14 R278). -/
def Core.nextChannel (k : Core) : Option Nat :=
  let ready := (List.range 8).filter (fun n =>
    let ch := k.channel n
    ch.bound && (!ch.mailbox.isEmpty || (k.refusalFor (BitVec.ofNat 3 n)).isSome))
  let top := ready.foldl (fun m n => max m (k.channel n).prio.toNat) 0
  ready.find? (fun n => (k.channel n).prio.toNat = top)

/-- The start state of an activation (Table 14.2). -/
def Group.activate (g : Group) (u : Unit) (handler : Word64) (ch : Nat) (m : Msg) : Group :=
  let lanes : Word32 := if g.lw16 then 0xFFFF else 0xFFFFFFFF
  let p := g.split 0
  let g := ({ g with exited := 0, gen := u.gen, trapped := none }.setSplit 0
    { pc := handler, m0 := lanes, lanes := lanes, pend := p.pend, traps := p.traps, rel := p.rel }).setAsid u.asid
  let vs := [m.hdr] ++ (List.range 4).map (fun i => m.pay.getD i 0) ++
    [BitVec.ofNat 64 ch, BitVec.ofNat 64 u.index, u.param]
  (vs.zip (List.range 8)).foldl (fun g e => g.setX 0 (BitVec.ofNat 5 (10 + e.2)) e.1) g

/-- The entry leaves its mailbox or its area; a refusal's send no longer counts. -/
def State.takeEntry (s : State) (c n : Nat) : Option (State × Msg) :=
  let k := s.core c
  match k.refusalFor (BitVec.ofNat 3 n) with
  | some (sl, m) =>
    let w := k.slot sl
    some ((s.setSlot c sl { w with refusals := w.refusals.filter (fun r => r.2.arr ≠ m.arr) }).sendDone m, m)
  | none =>
    let ch := k.channel n
    match ch.mailbox with
    | m :: r => some (s.setCore c (k.setChannel n { ch with mailbox := r }), m)
    | [] => none

/-- STARTING AN ACTIVATION on a core whose handler slot is idle. -/
def State.startActivation (s : State) (c : Nat) : State :=
  let k := s.core c
  let w := k.slot handlerSlot
  match k.chanUnit, w.group, w.activation, k.nextChannel with
  | some u, some g, none, some n =>
    let x := s.unit u
    if x.saving || x.ended || x.halted || g.halted then s
    else
      match s.takeEntry c n with
      | none => s
      | some (s, m) =>
        let w := s.slot c handlerSlot
        let g := g.activate x (k.channel n).handler n m
        (s.setSlot c handlerSlot { w with group := some g, activation := some (BitVec.ofNat 3 n), actHdr := m.hdr, actPc := (k.channel n).handler }).dropL1 c x.asid
  | _, _, _, _ => s

/-! ## SPAWN, STEAL, TDONE (14 R281, R282, R289-R291) -/

def spawnBody (rd rs1 rs2 : BitVec 5) (x : Ctx) (s : State) : Res :=
  let k := s.core x.c
  let fn := s.x x rs1
  let arg := s.x x rs2
  let t := s.time
  if k.dequeUnit ≠ some (s.grp x).unit then .next (s.setX x rd 1)
  else
    match k.stealBox with
    | some id =>
      let s' := s.setCore x.c { k with stealBox := none }
      let s' : State := { s' with
        flights := s'.flights.map (fun (f : Flight) => if f.id = id then
          { f with answer := some [fn, arg, t], after := some (x.c, x.sl, s.nextId) } else f)
        nextId := s.nextId + 1 }
      .next (s'.setX x rd 2)
    | none =>
      if 64 ≤ k.deque.length then .next (s.setX x rd 1)
      else .next ((s.setCore x.c { k with deque := k.deque ++ [{ fn := fn, arg := arg, tenq := t }] }).setX x rd 0)

/-- The current-task record of a slot that takes a task. -/
def State.recordTask (s : State) (c sl : Nat) (fn tenq : Word64) : State :=
  s.setSlot c sl { s.slot c sl with tenq := tenq, tdeq := s.time, tfn := fn, tvalid := true }

/-- The answer to a remote STEAL: a task, or a failure and its reason. -/
def State.takeTask (s : State) (c sl sp : Nat) (rd : BitVec 5) (vs : List Word64) : State :=
  match s.group c sl with
  | none => s
  | some g =>
    let s := s.setGroup c sl ((g.setX sp rd (vs.getD 0 0)).setX sp (rd + 1) (vs.getD 1 0))
    match vs[2]? with
    | some t => (s.recordTask c sl (vs.getD 0 0) t).dropL1 c g.asid
    | none => s

def stealBody (rd rs1 rs2 : BitVec 5) (x : Ctx) (s : State) : Res :=
  if rs1 = 0 then
    let k := s.core x.c
    let own := k.dequeUnit = some (s.grp x).unit
    match (if own then k.deque.getLast? else none) with
    | some t =>
      let s := (s.setCore x.c { k with deque := k.deque.dropLast }).recordTask x.c x.sl t.fn t.tenq
      .next ((s.setX x rd t.fn).setX x (rd + 1) t.arg)
    | none => .next ((s.setX x rd 0).setX x (rd + 1) 0)
  else
    let v := s.x x rs1
    match coreOf (v.extractLsb' 0 18) with
    | none => .trap 28 v
    | some c =>
      let lim := (s.x x rs2).toNat % 65536
      parkAsk x s (.steal c (if lim = 0 then 65536 else lim)) rd (fun s vs => s.takeTask x.c x.sl x.sp rd vs)

def addSat64 (a b : Word64) : Word64 := BitVec.ofNat 64 (min (a.toNat + b.toNat) (2 ^ 64 - 1))

def tdoneBody (rd : BitVec 5) (x : Ctx) (s : State) : Res :=
  let w := s.slot x.c x.sl
  if w.tvalid then
    let run := s.time - w.tdeq
    let s := s.setSlot x.c x.sl { w with tsrch := s.time, tvalid := false }
    let k := s.core x.c
    .next ((s.setCore x.c { k with
      tasks := satInc k.tasks, qwait := addSat64 k.qwait (w.tdeq - w.tenq), search := addSat64 k.search (w.tdeq - w.tsrch)
      runTicks := addSat64 k.runTicks run }).setX x rd run)
  else .next (s.setX x rd 0)

/-! ## RFORK, JOIN (14 R283, R284, R292, R293, 04 R77, R78) -/

/-- The flocks of a die at a mesh distance from a flock, ascending. -/
def flocksAt (f d : Nat) : List Nat :=
  (List.range 1280).filter (fun g =>
    (f % 40 - g % 40) + (g % 40 - f % 40) + (f / 40 - g / 40) + (g / 40 - f / 40) = d)

/-- Up to n idle cores in the order of the search (04 R77); none while the die's write gate is open (10 R202). -/
def State.recruitCores (s : State) (c n : Nat) : List Nat :=
  let die := dieOf c
  if (s.die die).wsOpen then []
  else
    let fs := [0, 1, 2, 3, 4].flatMap (flocksAt (c % 20480 / 16))
    ((fs.flatMap (flockCores die)).filter s.coreIdle).take n

/-- The lowest free join cell of a flock. -/
def State.freeCell (s : State) (flock : Nat) : Option Nat :=
  (List.range 64).find? (fun i => (Map.find s.joins (flock * 64 + i)).isNone)

/-- The cell a handle names: of the unit, as it was named when it was allocated (16 R331), else the cell of that number. -/
def State.namedCell (s : State) (u k : Nat) : Option (Nat × JoinCell) :=
  match s.joins.find? (fun e => e.2.unit = u && e.2.named = k) with
  | some e => some e
  | none => (Map.find s.joins k).map (fun j => (k, j))

def joinHandle (n c cell : Nat) : Word64 :=
  BitVec.ofNat 64 (n * 2 ^ 24 + 2 ^ 22 + (coordOf c).toNat / 16 * 2 ^ 8 + cell)

/-- A recruit on a core (14 R284), a child of the forking core in the completion tree (04 R77): one split that owns every lane of its
half (09 R174), with the domain of its job (17 R334). -/
def State.recruit (s : State) (f : Group) (forker c : Nat) (body arg lo hi handle : Word64) : State :=
  let g : Group := { s.freshGroup f.unit c 0 with
    index := f.index, recruit := some handle, gen := f.gen, prio := f.prio, ilock := f.ilock, lw16 := f.lw16, vregs := f.vregs }
  let lanes : Word32 := if f.lw16 then 0xFFFF else 0xFFFFFFFF
  let g := g.setSplit 0 { pc := body, m0 := lanes, lanes := lanes }
  let g := (((g.setX 0 10 arg).setX 0 11 lo).setX 0 12 hi).setX 0 13 handle
  let s := (s.setUnit f.unit ((s.unit f.unit).addChild forker c)).startIn c 0 g
  s.setCore c { s.core c with reserved := some f.unit }

/-- The lower end of subrange i of n (14 R284). -/
def subrange (c n i : Nat) : Word64 := BitVec.ofNat 64 (i * c / n)

/-- Recruits wanted. -/
def recruitsWanted (count grain maxrec : Nat) : Nat := min (ceilDiv count (max grain 1) - 1) maxrec

def rforkBody (rd rs1 : BitVec 5) (x : Ctx) (s : State) : Res :=
  let g := s.grp x
  let u := s.unit g.unit
  let a := (s.x x rs1).toNat % 2 ^ 32
  if a % 32 ≠ 0 then .trap 4 (BitVec.ofNat 64 a)
  else
    match u.localByte a, u.localByte (a + 31) with
    | some b, some _ =>
      if !s.linePresent (lineOf b) then .park s (.lines [lineOf b])
      else if !(s.core x.c).released x.sl x.sp then .wait
      else
        let d := s.scratch.bytes b 32
        let count := fieldAt d 24 4
        let want := recruitsWanted count (fieldAt d 28 2) (fieldAt d 30 1 % 64)
        let flock := flockOf x.c
        match (if want = 0 then none else s.freeCell flock) with
        | none => .next ((s.setX x rd (BitVec.ofNat 64 count)).setX x (rd + 1) 0)
        | some cell =>
          let cs := s.recruitCores x.c want
          let n := cs.length + 1
          if cs.isEmpty then .next ((s.setX x rd (BitVec.ofNat 64 count)).setX x (rd + 1) 0)
          else
            let h := joinHandle n x.c cell
            let j : JoinCell := { unit := g.unit, named := flock * 64 + cell, cont := (wordAt d 8).setWidth 48, count := n, ocore := x.c, oslot := x.sl }
            let s : State := { s with joins := Map.put s.joins (flock * 64 + cell) j }
            let s := (cs.zip (List.range cs.length)).foldl (fun s e =>
              s.recruit g x.c e.1 (wordAt d 0) (wordAt d 16) (subrange count n (e.2 + 1)) (subrange count n (e.2 + 2)) h) s
            .next ((s.setX x rd (subrange count n 1)).setX x (rd + 1) h)
    | _, _ => s.violate x none (BitVec.ofNat 64 a)

/-- The parked forker goes on at its continuation; one that is in a trap finds it when its JOIN is issued again. -/
def State.wakeForker (s : State) (key : Nat) (j : JoinCell) : State :=
  match s.group j.ocore j.oslot with
  | none => s
  | some g =>
    match g.splits.find? (fun e => e.2.joined = some key) with
    | none => s
    | some (k, p) =>
      let cont : Word64 := j.cont.setWidth 64
      let s := s.dropL1 j.ocore g.asid
      if p.wake = some .event && (g.trapped.isNone || g.trapped = some k) then s.completeParked j.ocore j.oslot k (some cont)
      else s.setGroup j.ocore j.oslot (g.setSplit k { p with joinCont := some cont })

def joinBody (rs1 : BitVec 5) (x : Ctx) (s : State) : Res :=
  let g := s.grp x
  let p := g.split x.sp
  let h := s.x x rs1
  if !h.getLsbD 22 then .next s
  else if p.joined.isSome && p.mode = .u then
    match p.joinCont with
    | some pc => .jump (s.setSpl x { p with joined := none, joinCont := none }) pc
    | none => .park s .event
  else
    let key := (coreOf (h.extractLsb' 8 14 ++ 0#4)).map (fun c => flockOf c * 64 + (h.extractLsb' 0 6).toNat)
    match key.bind (s.namedCell g.unit) with
    | none => .trap 28 h
    | some (k, j) =>
      if j.unit ≠ g.unit then .trap 28 h
      else if x.handler then .trap 26 (x.word.setWidth 64)
      else if !(s.core x.c).released x.sl x.sp then .wait
      else
        let forker := j.ocore = x.c && j.oslot = x.sl
        if 1 < j.count then
          let s := { s with joins := Map.put s.joins k { j with count := j.count - 1 } }
          if forker then .park (s.setSpl x { p with joined := some k }) .event
          else .gone (s.finishGroup x.c x.sl)
        else
          let s := { s with joins := Map.del s.joins k }
          if forker then .jump (s.dropL1 x.c g.asid) (j.cont.setWidth 64)
          else .gone ((s.finishGroup x.c x.sl).wakeForker k j)

/-! ## DEPDEC, LAUNCH, CANCEL (14 R294-R296) -/

def depdecBody (rd rs1 : BitVec 5) (x : Ctx) (s : State) : Res :=
  let g := s.grp x
  let p := g.split x.sp
  let a := s.x x rs1
  if a.toNat % 8 ≠ 0 then .trap 6 a
  else if p.mode = .u then .next (s.askFor x (.depdec a none) rd)
  else
    match s.translate g.asid a .write p.mode (sumBit g) (mxrBit g) with
    | .ok pl _ => .next (s.askFor x (.depdec a (some pl)) rd)
    | _ => .trap 15 a

/-- The queue entry LAUNCH builds (03 Table 3.2). -/
def launchEntry (desc ctl : Word64) : Nat :=
  desc.toNat + (field ctl.toNat 8 2) * 2 ^ 64 + (field ctl.toNat 10 1) * 2 ^ 67 + (field ctl.toNat 16 16) * 2 ^ 80

/-- LAUNCH at the IO die: the result and the queue with the entry. -/
def State.enqueue (s : State) (job : BitVec 16) (desc ctl : Word64) : State × Word64 :=
  let n := field ctl.toNat 0 6
  let q := s.queue n
  if field ctl.toNat 8 2 = 3 || q.ctl || q.qjob ≠ job || !(s.job job).qmask.getLsbD n then (s, 3)
  else if !q.en || q.qerr then (s, 2)
  else if (q.prod - q.cons).toNat = 2 ^ q.logn.toNat then (s, 1)
  else
    let a := q.base.toNat + 16 * (q.prod.toNat % 2 ^ q.logn.toNat)
    ((s.engineStore (8 + iodOf n) a (leBytes (launchEntry desc ctl) 16)).setQueue n { q with prod := q.prod + 1 }, 0)

/-- DEPDEC performed at the counter's home; in U-mode it is lease-checked as a write. -/
def State.performDep (s : State) (f : Flight) (a : Word64) (place : Option Place) : State :=
  let pl := match place with
    | some pl => some pl
    | none => (s.checkU f.asid a true).map Prod.fst
  match pl with
  | none => (s.dropFlight f.id).leaseEnd f.unit f.core f.slot a
  | some pl =>
    let r := s.depAt pl
    let t := if r.2 = 0 then r.1.addStatus f.unit f.core flagDepunder 0 else r.1
    ((t.depEnqueue f.asid a r.2).dropFlight f.id).landPend f.core f.slot f.id r.2

/-- CANCEL performed at the device: RES. -/
def State.performCancel (s : State) (a ctl : Word64) : State × Word64 :=
  let job : BitVec 16 := ctl.extractLsb' 48 16
  let op : BitVec 2 := ctl.extractLsb' 8 2
  let r := if ctl.extractLsb' 0 3 = 0#3 then s.unitOp op job (a.extractLsb' 0 18)
    else s.levelOp (ctl.extractLsb' 0 3).toNat op job a
  (r.1, r.2.setWidth 64)

/-- A parked CANCEL's split goes on with its result. -/
def State.answerParked (s : State) (f : Flight) (vs : List Word64) (write : State → State) : State :=
  if s.parkedOn f then (write (s.dropFlight f.id)).completeParked f.core f.slot f.split none
  else if f.split = nobody then s.dropFlight f.id
  else s.putFlight { f with answer := some vs, arrived := true }

/-- Writes the register of an errand's split. -/
def State.errandX (s : State) (f : Flight) (v : Word64) : State :=
  match s.group f.core f.slot with
  | some g => s.setGroup f.core f.slot (g.setX f.split f.rd v)
  | none => s

/-- A DIV or REM result of split sp is written, and its register is free (06 Table 6.11). -/
def State.landDiv (s : State) (c sl sp : Nat) : State :=
  match s.group c sl with
  | none => s
  | some g =>
    match g.findPend (fun q => q.val.isSome && q.bank = sp) with
    | none => s
    | some w => s.landResult c sl g w (w.2.2.val.getD 0)

def pairOk (rd : BitVec 5) : Bool := rd.toNat % 2 = 0 && decide (2 ≤ rd.toNat)

/-- R286: Sends an active message with four payload words. -/
def execMsend (rd rs1 rs2 : BitVec 5) (s : State) : Result :=
  issue (encR 0x30#7 rs2 rs1 0#3 rd 0xB#7)
    (fun _ _ => { engReq 3 [rd, rs1, rs2, rs2 + 1, rs2 + 2, rs2 + 3] with bad := rs2 = 0 || rs2.toNat % 4 ≠ 0 })
    (msendBody rd rs1 rs2) s

/-- R287: Binds, unbinds or configures a channel. -/
def execMchan (rd rs1 rs2 : BitVec 5) (s : State) : Result :=
  issue (encR 0x31#7 rs2 rs1 0#3 rd 0xB#7) (fun _ _ => engReq 3 [rd, rs1, rs2]) (mchanBody rd rs1 rs2) s

/-- R288: Ends the running activation. -/
def execHend (s : State) : Result :=
  issue (encR 0x32#7 0#5 0#5 0#3 0#5 0xB#7) (fun x _ => { engReq 3 [] with ctl := true, slot := !x.handler }) hendBody s

/-- R289: Pushes a task, hands it to a waiting thief, or refuses it. -/
def execSpawn (rd rs1 rs2 : BitVec 5) (s : State) : Result :=
  issue (encR 0x33#7 rs2 rs1 0#3 rd 0xB#7) (fun _ _ => engReq 3 [rd, rs1, rs2]) (spawnBody rd rs1 rs2) s

/-- R290: Pops from the core's own deque or posts a remote steal request and parks. -/
def execSteal (rd rs1 rs2 : BitVec 5) (s : State) : Result :=
  issue (encR 0x34#7 rs2 rs1 0#3 rd 0xB#7) (fun _ _ => { engReq 3 [rd, rd + 1, rs1, rs2] with bad := !pairOk rd }) (stealBody rd rs1 rs2) s

/-- R291: Ends the current task, returns its run time and updates profiling. -/
def execTdone (rd : BitVec 5) (s : State) : Result :=
  issue (encR 0x35#7 0#5 0#5 0#3 rd 0xB#7) (fun _ _ => engReq 3 [rd]) (tdoneBody rd) s

/-- R292: Reads a fork descriptor, allocates a join cell and recruits idle cores. -/
def execRfork (rd rs1 : BitVec 5) (s : State) : Result :=
  issue (encR 0x36#7 0#5 rs1 0#3 rd 0xB#7)
    (fun x _ => { engReq 3 [rd, rd + 1, rs1] with bad := !pairOk rd, slot := x.handler }) (rforkBody rd rs1) s

/-- R293: Decrements a join cell; the last participant continues at CONT. -/
def execJoin (rs1 : BitVec 5) (s : State) : Result :=
  issue (encR 0x37#7 0#5 rs1 0#3 0#5 0xB#7) (fun _ _ => { engReq 3 [rs1] with ctl := true }) (joinBody rs1) s

/-- R294: Releases and decrements a dependence counter at its home. -/
def execDepdec (rd rs1 : BitVec 5) (s : State) : Result :=
  issue (encR 0x42#7 0#5 rs1 0#3 rd 0xB#7) (fun _ _ => engReq 4 [rd, rs1]) (depdecBody rd rs1) s

/-- R295: Appends a queue entry from a kernel. -/
def execLaunch (rd rs1 rs2 : BitVec 5) (s : State) : Result :=
  issue (encR 0x43#7 rs2 rs1 0#3 rd 0xB#7) (fun _ _ => engReq 4 [rd, rs1, rs2])
    (fun x s => .next (s.askFor x (.launch (s.x x rs1) (s.x x rs2)) rd)) s

/-- R296: Cancels or ends a level from S-mode. -/
def execCancel (rd rs1 rs2 : BitVec 5) (s : State) : Result :=
  issue (encR 0x44#7 rs2 rs1 0#3 rd 0xB#7) (fun x s => { engReq 4 [rd, rs1, rs2] with bad := (s.spl x).mode = .u })
    (fun x s => parkAsk x s (.cancel (s.x x rs1) (s.x x rs2)) rd (fun t vs => t.setX x rd (vs.headD 0))) s

/-- R276: A message arrives at its destination core and is appended to the mailbox, or refused with KIND 1 or KIND 2. -/
def execMessageArrival (n : Nat) (s : State) : Result :=
  match s.mails.find? (fun m => m.id = n && !m.refusal) with
  | none => .next s
  | some m =>
    let before := s.mails.any (fun o => !o.refusal && decide (o.id < n) && o.msg.core = m.msg.core && o.msg.slot = m.msg.slot &&
      o.msg.tag = m.msg.tag)
    if before || !(s.core m.msg.core).earlierDone m.msg.slot n then .next s
    else .next ({ s with mails := s.mails.filter (fun o => o.id ≠ n) }.msgArrive m.msg)

/-- R276: A refusal arrives at the sending core and is placed in the sending slot's refusal area, or dropped with MSGDROP. -/
def execRefusalArrival (n : Nat) (s : State) : Result :=
  match s.mails.find? (fun m => m.id = n && m.refusal) with
  | none => .next s
  | some m => .next ({ s with mails := s.mails.filter (fun o => o.id ≠ n) }.refusalBack m.msg)

/-- R278: An idle handler slot starts an activation for the deliverable entry of the highest-priority bound channel. -/
def execActivationStart (c : Nat) (s : State) : Result :=
  .next (s.startActivation c)

/-- R282: A steal request arrives at the victim core's steal mailbox and is stored, or fails when the mailbox is occupied or the core has no deque of the job. -/
def execStealRequestArrival (n : Nat) (s : State) : Result :=
  match s.flight n with
  | some f =>
    match f.what with
    | .steal v _ =>
      let k := s.core v
      if f.posted || f.answer.isSome then .next s
      else if k.stealBox.isSome then .next (s.failSteal n 1)
      else
        match k.dequeUnit with
        | some u =>
          if (s.unit u).job ≠ f.job then .next (s.failSteal n 2)
          else if (s.unit u).saving || (s.unit u).ended then .next (s.failSteal n (if (s.unit u).saving then 5 else 4))
          else .next ((s.putFlight { f with posted := true }).setCore v { k with stealBox := some n })
        | none => .next (s.failSteal n 2)
    | _ => .next s
  | none => .next s

/-- R282: A steal request's timeout expires and the request fails with reason 3. -/
def execStealTimeout (c : Nat) (s : State) : Result :=
  match (s.core c).stealBox.bind s.flight with
  | some f =>
    match f.what with
    | .steal _ lim =>
      let t := { s with cycle := max s.cycle ((f.since.toNat + lim) * 6) }
      .next (t.failSteal f.id 3)
    | _ => .next s
  | none => .next s

/-- R290: A task or a failure reaches the parked thief, which writes its result pair and wakes. -/
def execStealAnswer (n : Nat) (s : State) : Result :=
  match s.flight n with
  | some f =>
    match f.what, f.answer with
    | .steal _ _, some vs =>
      let ready := match f.after with
        | some (c, sl, id) => (s.core c).earlierDone sl id
        | none => true
      if ready && s.parkedOn f then
        .next (((s.dropFlight n).takeTask f.core f.slot f.split f.rd vs).completeParked f.core f.slot f.split none)
      else if ready then .next (s.putFlight { f with arrived := true })
      else .next s
    | _, _ => .next s
  | none => .next s

/-- R285: The result of a DEPDEC, LAUNCH or CANCEL returns from the home or IO die and is written to the scoreboarded result register. -/
def execEngineResultReturn (n : Nat) (s : State) : Result :=
  match s.flight n with
  | some f =>
    match f.what with
    | .depdec a pl => if (s.core f.core).earlierDone f.slot n then .next (s.performDep f a pl) else .next s
    | .launch desc ctl =>
      if (s.core f.core).earlierDone f.slot n then
        let r := s.enqueue f.job desc ctl
        .next ((r.1.dropFlight n).landPend f.core f.slot n r.2)
      else .next s
    | .cancel a ctl =>
      if f.answer.isSome then .next s
      else
        let r := s.performCancel a ctl
        .next (r.1.answerParked f [r.2] (fun t => t.errandX f r.2))
    | _ => .next s
  | none => .next s

/-- R120: A DIV or REM family result becomes available 66 cycles after issue and is written to its scoreboarded destination. -/
def execDivRemResultReturn (c sl sp : Nat) (s : State) : Result :=
  .next (s.landDiv c sl sp)

end Sys2Proof.Machine
end

