-- ==== Sys2Proof/Machine/Save.lean ====
section
/-! DEFINITION. Pre-emption, saved images and resumption of units (16 R327-R333). -/

namespace Sys2Proof.Machine

/-! ## Halting a unit for its save (16 R328, R329, 14 R282) -/

/-- Errands that a pre-emption abandons: the instruction is issued again after the resume (14 R282). -/
def Flight.abandoned (f : Flight) : Bool :=
  f.answer.isNone && (match f.what with
    | .steal _ _ => true
    | _ => false)

/-- A wait for a drain that stands at the Sheepdog, and that no operation still on its way has ended (15 R307, R313). -/
def Flight.undrained (f : Flight) : Bool := f.posted && f.answer.isNone && f.what.sheep

/-- Parked splits that wait for one of these errands go back to their instruction. -/
def Group.unwait (g : Group) (ids : List Nat) : Group :=
  { g with splits := g.splits.map (fun (e : Nat × Split) => match e.2.wake with
    | some (.answer i) => if ids.contains i then (e.1, { e.2 with wake := none }) else e
    | _ => e) }

/-- Steal requests in the unit's mailboxes fail with reason 5, and its own steals fail. -/
def State.stopErrands (s : State) (u : Nat) : State :=
  let s := s.cores.foldl (fun s e => match (if e.2.dequeUnit = some u then e.2.stealBox else none) with
    | some id => s.failSteal id 5
    | none => s) s
  let gone := s.flights.filter (fun f => f.unit = u && f.abandoned)
  let ids := gone.map (fun f => f.id)
  let s := gone.foldl (fun s f => match f.what with
    | .steal _ _ => s.failSteal f.id 5
    | _ => s) s
  { s with
    flights := s.flights.filter (fun f => !ids.contains f.id)
    cores := s.cores.map (fun (e : Nat × Core) => (e.1, { e.2 with
      slots := e.2.slots.map (fun (w : Nat × Slot) => (w.1, { w.2 with group := w.2.group.map (fun g => g.unwait ids) })) })) }

/-- The reservations that splits of these slots hold are lost (06 Table 6.11). -/
def State.dropResvs (s : State) (slots : List (Nat × Nat)) : State :=
  { s with resvs := s.resvs.filter (fun r => !slots.contains (r.2.1, r.2.2.1)) }

/-- The step that the array performs for a unit is completed before its save (12 R237): an MMA at the head whose fills have landed. -/
def Core.markBegun (k : Core) (u : Nat) : Core :=
  match k.steps with
  | [] => k
  | t :: r => { k with steps := { t with
      begun := t.begun || (t.unit = u && t.loop.isNone && !t.waits.any (fun i => (k.idsOf [4]).contains i)) } :: r }

/-- THE HALT of R328: every agent of the unit stands at its first unissued instruction. A unit that is halted and unsaved is not halted
again (16 R327). -/
def State.haltForSave (s : State) (u : Nat) : State :=
  if (s.unit u).saving then s else
  let s := (s.agentsOf u).foldl (fun s a => s.leaveIssue a.1 a.2) s
  let s := (s.handlersOf u).foldl (fun s c => s.leaveIssue c handlerSlot) s
  let s : State := { s with cores := s.cores.map (fun e => (e.1, e.2.markBegun u)) }
  let s := ((s.endStepOf u).stopErrands u).dropResvs (s.agentsOf u ++ (s.handlersOf u).map (fun c => (c, handlerSlot)))
  (s.setUnit u { s.unit u with saving := true }).barSync u

/-- A slot belongs to the unit: 0-3 by its group, or by the refusals of a group that has finished (14 R276), 4 by the channels. -/
def Core.ownsSlot (k : Core) (u sl : Nat) : Bool :=
  if sl = handlerSlot then k.chanUnit = some u
  else match (k.slot sl).group with
    | some g => g.unit = u
    | none => (k.slot sl).refusals.any (fun r => r.2.unit = u)

/-- What is in flight on a core has come to rest (16 R329). -/
def Core.atRest (k : Core) (u : Nat) : Bool :=
  k.ops.all (fun o => o.unit ≠ u) &&
  k.queues.all (fun q => k.queueFrozen q.1 || q.2.all (fun i => match i with
    | .entry e => e.unit ≠ u || !e.fetched
    | .join _ => true)) &&
  k.steps.all (fun t => t.unit ≠ u || (match t.loop with
    | some l => !l.running
    | none => !t.begun)) &&
  k.convs.all (fun t => (k.bank t.bank).unit ≠ u) &&
  k.slots.all (fun w => !k.ownsSlot u w.1 || (match w.2.group with
    | some g => g.splits.all (fun e => e.2.pend.isEmpty)
    | none => true))

/-- THE UNIT IS AT REST. -/
def State.atRest (s : State) (u : Nat) : Bool :=
  s.cores.all (fun e => e.2.atRest u) && s.sends.all (fun t => t.unit ≠ u) && s.mails.all (fun m => m.msg.unit ≠ u) &&
    s.flights.all (fun f => f.unit ≠ u || f.undrained || (f.arrived && !s.parkedOn f))

/-! ## The image (16 R331, R332, 12 R237) -/

/-- A step as it is saved: an MLOOP repeats the fills of its next step, and those of the step after it that it had issued. -/
def Step.saved (t : Step) : Step :=
  { t with
    begun := false
    loop := t.loop.map (fun l => { l with cur := none, ahead := none, running := false, redo := l.cur.toList ++ l.ahead.toList ++ l.redo }) }

/-- The entries of every queue of a core that belong to the unit, or the others. -/
def Core.queueIds (k : Core) (u : Nat) (mine : Bool) : List Nat :=
  (k.queues.flatMap Prod.snd).filterMap (fun i => match i with
    | .entry e => if (e.unit = u) = mine then some e.id else none
    | .join _ => none)

/-- What of a queue belongs to the unit, or to the others, with what joins wait for among their entries `ids`, the fills that an MLOOP
repeats among them (13 R270). -/
def queuePart (u : Nat) (mine : Bool) (ids : List Nat) (q : List QItem) : List QItem :=
  q.filterMap (fun i => match i with
    | .entry e => if (e.unit = u) = mine && !(mine && e.loop.isSome) then some i else none
    | .join js =>
      let l := js.filter ids.contains
      if l.isEmpty then none else some (.join l))

/-- The fills that the unit's MLOOPs will repeat. -/
def Core.redoIds (k : Core) (u : Nat) : List Nat :=
  (k.steps.filter (fun t => t.unit = u)).flatMap (fun t =>
    (t.saved.loop.map (fun l => l.redo.flatMap (fun p => [p.1, p.2]))).getD [])

/-- The parts of a core that belong to the unit. -/
def Core.partOf (k : Core) (u : Nat) : Core :=
  { slots := k.slots.filter (fun w => k.ownsSlot u w.1)
    tiles := k.tiles.filter (fun t => k.ownsSlot u t.slot)
    mslots := k.mslots.filter (fun e => e.2.unit = u), banks := k.banks.filter (fun e => e.2.unit = u)
    rtiles := (k.rtiles.map (fun e => (e.1, e.2.partOf u))).filter (fun e => e.2 ≠ {})
    bell := if k.bell.any (k.ownsSlot u) then k.bell else none
    steps := (k.steps.filter (fun t => t.unit = u)).map Step.saved
    queues := k.queues.map (fun q => (q.1, queuePart u true (k.queueIds u true ++ k.redoIds u) q.2))
    channels := if k.chanUnit = some u then k.channels else [], chanUnit := if k.chanUnit = some u then some u else none
    deque := if k.dequeUnit = some u then k.deque else [], dequeUnit := if k.dequeUnit = some u then some u else none
    tsel := k.tsel, tctl := k.tctl, tunit := k.tunit, tentry := k.tentry, tbrk := k.tbrk }

/-- A core without the unit. -/
def Core.without (k : Core) (u : Nat) : Core :=
  let bell := k.bell.any (k.ownsSlot u)
  let recruit := k.reserved = some u
  let k' : Core := { k with
    slots := k.slots.map (fun w => if k.ownsSlot u w.1 then
      (w.1, { w.2 with group := none, activation := none, refusals := [], sends := w.2.sends - w.2.refusals.length, tvalid := false }) else w)
    tiles := k.tiles.filter (fun t => !k.ownsSlot u t.slot)
    mslots := k.mslots.filter (fun e => e.2.unit ≠ u), banks := k.banks.filter (fun e => e.2.unit ≠ u)
    rtiles := k.rtiles.map (fun e => (e.1, e.2.without u))
    steps := k.steps.filter (fun t => t.unit ≠ u)
    queues := k.queues.map (fun q => (q.1, queuePart u false (k.queueIds u false) q.2))
    channels := if k.chanUnit = some u then [] else k.channels, chanUnit := if k.chanUnit = some u then none else k.chanUnit
    deque := if k.dequeUnit = some u then [] else k.deque, dequeUnit := if k.dequeUnit = some u then none else k.dequeUnit
    reserved := if recruit then none else k.reserved }
  if bell then k'.grantBell else k'

/-- A slot as it is saved: `sip` as it reads, a pending timer interrupt among its bits (16 R330), and the splits that wait for a drain at
their CBFLUSH, which is issued again after the resume. -/
def State.savedSlot (s : State) (u c sl : Nat) (w : Slot) : Slot :=
  let ids := (s.flights.filter (fun f => f.unit = u && f.undrained)).map (fun f => f.id)
  { w with group := w.group.map (fun g =>
      { g.unwait ids with csr := { g.csr with sip := g.csr.sip ||| (s.mip c sl &&& 0x20) } }) }

/-- What the image holds of a core; of unit core j also its scratchpad window. -/
def State.coreImage (s : State) (u c : Nat) (j : Option Nat) : CoreImage :=
  let x := s.unit u
  let line (l : Nat) : Bool := j.isSome && l / 512 = c && x.hasLine l
  let k := (s.core c).partOf u
  { at_ := c, pos := c % 16, core := { k with slots := k.slots.map (fun w => (w.1, s.savedSlot u c w.1 w.2)) }
    scratch := s.scratch.filter (fun e => line (lineOf e.1))
    lineP := s.lineP.filter (fun e => line e.1), lineH := s.lineH.filter (fun e => line e.1)
    joins := (s.joins.filter (fun e => e.2.unit = u && e.2.ocore = c)).map (fun e => (e.1 % 64, e.2))
    base := x.sbase, size := min 32768 (x.ssize - 32768 * j.getD 0), slots := if j = some 0 then x.slots else []
    flights := s.flights.filter (fun f => f.unit = u && f.core = c && !f.undrained) }

/-- The cores of the unit's recruits. -/
def State.recruitsOf (s : State) (u : Nat) : List Nat :=
  (s.cores.filter (fun e => e.2.reserved = some u)).map Prod.fst

/-- The die whose Sheepdog the unit owns. -/
def State.sheepDie (s : State) (u : Nat) : Option Nat :=
  (s.dies.find? (fun e => e.2.sheep.owner = some u)).map Prod.fst

/-- THE IMAGE of a unit at rest. -/
def State.imageOf (s : State) (u : Nat) : Image :=
  let x := s.unit u
  { number := u, unit := { x with saving := false, doomed := false }, size := 0
    desc := ((s.launch x.launch).map (fun l => l.desc)).getD 0
    cores := (List.range x.cores.length).zip x.cores |>.map (fun q => s.coreImage u q.2 (some q.1))
    recruits := (s.recruitsOf u).map (fun c => s.coreImage u c none)
    sheep := (s.sheepDie u).map (fun d => (s.die d).sheep) }

/-- The unit's cores and what it held elsewhere are released; its leases stay (16 R329). -/
def State.releaseUnit (s : State) (u : Nat) : State :=
  let x := s.unit u
  { s with
    cores := s.cores.map (fun (e : Nat × Core) => (e.1, e.2.without u))
    joins := s.joins.filter (fun e => e.2.unit ≠ u)
    lineP := s.lineP.filter (fun e => !x.hasLine e.1), lineH := s.lineH.filter (fun e => !x.hasLine e.1)
    flights := s.flights.filter (fun f => f.unit ≠ u)
    dies := s.dies.map (fun (e : Nat × Die) => if e.2.sheep.owner = some u then (e.1, { e.2 with sheep := {} }) else e)
    units := Map.del s.units u }

/-- SAVING a unit at rest into an area, by the engine of a die: the bytes it takes, and the state once they are written, where they fit. -/
def State.saveUnit (s : State) (die u area avail : Nat) : Nat × Option State :=
  let i := s.imageOf u
  let d := i.write s.sec.fwver
  if avail < d.length then (d.length, none)
  else
    let t := (s.engineStore die area d).releaseUnit u
    let t : State := { t with images := Map.put t.images u { i with area := area, size := d.length } }
    (d.length, some (if (s.unit u).doomed then t.retireImage u 0 else t))

/-! ## Resuming a unit (16 R331, R333) -/

/-- The saved unit that a header names, or what a unit that this module has not saved is read into: the header names its launch, which
is admitted here under its job, and its index, which no placed unit of the launch has (16 R331, 20 R380, log 12). -/
def State.imageBase (s : State) (die ncore : Nat) (h : List Byte) : Option Image :=
  let job : BitVec 16 := BitVec.ofNat 16 (fieldAt h 0x18 2)
  let index := fieldAt h 0x1C 4
  match s.launches.find? (fun e => e.2.job = job && e.2.desc = wordAt h 0x20 && e.2.stage = .running) with
  | none => none
  | some (l, _) =>
    match s.images.find? (fun e => e.2.unit.launch = l && e.2.unit.index = index) with
    | some e => if e.2.cores.length = ncore then some e.2 else none
    | none =>
      if s.units.any (fun e => e.2.launch = l && e.2.index = index) then none
      else some {
        number := s.nextId, size := fieldAt h 0x10 4, desc := wordAt h 0x20, sheep := none
        cores := (List.range ncore).map blankCore
        unit := { launch := l, index := index, job := job, asid := (s.job job).asid, cores := List.replicate ncore (die * 20480)
                  lw16 := fieldAt h 0x29 1 % 2 = 1 } }

/-- THE IMAGE AT AN AREA: the header is in order, its LEN and NREC fit the records, the required records are there, and the cores and
the launch are such as the header says (16 R331, R333); what the records give is read from them. -/
def State.imageAt (s : State) (die area : Nat) : Option Image :=
  let h := s.physRead area 64
  let len := fieldAt h 0x10 4
  let n := fieldAt h 0x28 1
  let sheep := fieldAt h 0x29 1 / 2 % 2 = 1
  if fieldAt h 0 4 ≠ 0x56534E48 || fieldAt h 6 2 ≠ 1 || len < 64 || n = 0 || 96 < n then none
  else
    match Records.parse (s.physRead (area + 64) (len - 64)), s.imageBase die n h with
    | some (nrec, r), some i =>
      if nrec ≠ fieldAt h 0x14 4 || !r.complete n sheep then none
      else some (((i.canon.read r n).uncanon i.ats i.unit.sbase))
    | _, _ => none

/-- The unit's launch is admitted here, under the same job. -/
def State.imageLive (s : State) (i : Image) : Bool :=
  match s.launch i.unit.launch with
  | some l => l.job = i.unit.job && l.stage = .running
  | none => false

/-- The join cells of a saved core are free in the flock of core c. -/
def State.cellsFree (s : State) (i : CoreImage) (c : Nat) : Bool :=
  i.joins.all (fun e => (Map.find s.joins (flockOf c * 64 + e.1)).isNone)

/-- The numbers that a saved core's matrix resources have are free on core c (12 R222). -/
def State.matrixFree (s : State) (i : CoreImage) (c : Nat) : Bool :=
  let k := s.core c
  i.core.mslots.all (fun e => (k.mslot e.1).unit = 0 && !k.deadSlots.getLsbD e.1) &&
    i.core.banks.all (fun e => (k.bank e.1).unit = 0 && !k.deadBanks.getLsbD e.1) &&
    i.core.rtiles.all (fun e => e.2.unit.isNone || (k.rtile e.1).unit.isNone) && (i.core.bell.isNone || k.bell.isNone) &&
    decide (k.steps.length + i.core.steps.length ≤ 4)

/-- Where a unit of one core may resume: the same group slots, and room for its entries in every queue (11 R209). -/
def State.resumeShare (s : State) (i : Image) (c : Nat) : Option Nat :=
  let x := i.unit
  let chans := i.cores.any (fun e => e.core.chanUnit.isSome)
  let need : Need := { groups := x.slots.length, lane := x.slots.length * 128 * x.vregs + (if chans then 2048 else 0)
                       scratch := x.ssize, chans := chans }
  match s.shareRoom c need with
  | some (_, b) =>
    if x.slots.all (fun sl => !(s.unitsOn c).any (fun e => e.2.slots.contains sl)) &&
        (List.range 7).all (fun q => i.cores.all (fun e => (s.core c).entries q + e.core.entries q ≤ 64)) &&
        i.cores.all (fun e => s.matrixFree e c && s.cellsFree e c) then some b else none
  | none => none

/-- The cores and the scratchpad base for a saved unit on a die: the first region of R72 that fits, wholly idle flocks last. -/
def State.resumeRegion (s : State) (die : Nat) (i : Image) : Option (List Nat × Nat) :=
  let n := i.unit.cores.length
  if (s.die die).wsOpen || (i.sheep.isSome && (s.die die).sheep.owner.isSome) then none
  else if n = 1 then
    let here (f : Nat) : Option (List Nat × Nat) :=
      (flockCores die f).findSome? (fun c => (s.resumeShare i c).map (fun b => ([c], b)))
    match (List.range 1280).findSome? (fun f => if s.flockIdle die f then none else here f) with
    | some r => some r
    | none => (List.range 1280).findSome? here
  else
    let ok (cs : List Nat) : Bool := (i.cores.zip cs).all (fun p => s.cellsFree p.1 p.2)
    (if n ≤ 16 then s.smallRegion die n { groups := 0, lane := 0, scratch := 0, chans := false } ok else s.largeRegion die n ok).map
      (fun cs => (cs, 0))

/-- The join cells of two saved cores do not clash where both go to one flock. -/
def cellsApart (a : CoreImage) (ca : Nat) (b : CoreImage) (cb : Nat) : Bool :=
  flockOf ca ≠ flockOf cb || a.joins.all (fun e => b.joins.all (fun f => e.1 ≠ f.1))

/-- Idle cores of the die for the recruits, none of them in the region: for each the lowest with free join cells (log 12). -/
def State.recruitRegion (s : State) (die : Nat) (i : Image) (region : List Nat) : Option (List Nat) :=
  let idle := ((List.range 1280).flatMap (flockCores die)).filter (fun c => s.coreIdle c && !region.contains c)
  i.recruits.foldl (fun got e => got.bind (fun cs =>
    (idle.find? (fun c => !cs.contains c && s.cellsFree e c &&
      ((i.cores ++ i.recruits).zip (region ++ cs)).all (fun p => cellsApart p.1 p.2 e c))).map (fun c => cs ++ [c]))) (some [])

/-- A slot takes back what was saved of it; M-mode CSRs stay the slot's own (16 R326). -/
def Slot.take (old w : Slot) : Slot :=
  { old with
    group := w.group, activation := w.activation, actHdr := w.actHdr, actPc := w.actPc, seq := w.seq
    sends := old.sends + w.refusals.length, refusals := w.refusals
    tenq := w.tenq, tdeq := w.tdeq, tsrch := w.tsrch, tfn := w.tfn, tvalid := w.tvalid }

def Map.union {α : Type} (a b : Map α) : Map α := b.foldl (fun m e => Map.put m e.1 e.2) a

/-- A core takes back its part; the trace registers only a unit core that hosts no other unit (19 R360). -/
def Core.takeBack (k p : Core) (alone : Bool) (recruit : Option Nat) : Core :=
  let k : Core := { k with
    slots := (p.slots.filter (fun w => w.2 ≠ {})).foldl (fun m w => Map.put m w.1 ((k.slot w.1).take w.2)) k.slots
    tiles := k.tiles ++ p.tiles, mslots := Map.union k.mslots p.mslots, banks := Map.union k.banks p.banks
    rtiles := p.rtiles.foldl (fun m e => Map.put m e.1 { (if e.2.unit.isSome then e.2 else k.rtile e.1) with
      loose := Map.union (k.rtile e.1).loose e.2.loose }) k.rtiles
    bell := if p.bell.isSome then p.bell else k.bell, steps := k.steps ++ p.steps
    queues := p.queues.foldl (fun m q => Map.put m q.1 (k.queue q.1 ++ q.2)) k.queues
    channels := if p.chanUnit.isSome then p.channels else k.channels
    chanUnit := if p.chanUnit.isSome then p.chanUnit else k.chanUnit
    deque := if p.dequeUnit.isSome then p.deque else k.deque
    dequeUnit := if p.dequeUnit.isSome then p.dequeUnit else k.dequeUnit
    reserved := if recruit.isSome then recruit else k.reserved }
  if alone && recruit.isNone then { k with tsel := p.tsel, tctl := p.tctl, tunit := p.tunit, tentry := p.tentry, tbrk := p.tbrk } else k

/-- One saved core goes back onto its core: its part, its scratchpad and its join cells. -/
def State.restoreCore (s : State) (i : Image) (e : CoreImage) (recruit : Option Nat) : State :=
  let c := e.at_
  let s := s.setCore c ((s.core c).takeBack e.core (s.unitsOn c).isEmpty recruit)
  let s : State := { s with
    scratch := e.scratch.foldl (fun m b => m.set b.1 b.2)
      (if recruit.isSome then s.scratch
       else if 1 < i.unit.cores.length then s.scratch.clear (c * 32768) 32768 else s.scratch.clear (c * 32768 + i.unit.sbase) i.unit.ssize)
    lineP := Map.union s.lineP e.lineP, lineH := Map.union s.lineH e.lineH
    joins := e.joins.foldl (fun m j => Map.put m (flockOf c * 64 + j.1) { j.2 with ocore := c }) s.joins
    flights := s.flights ++ e.flights }
  s.dropL1 c i.unit.asid

/-- The launch's collectors count the unit on its new die. -/
def State.moveCollector (s : State) (l old new : Nat) : State :=
  match s.launch l with
  | none => s
  | some x =>
    let a := (Map.find x.cols old).getD {}
    let cols := Map.put x.cols old { a with pending := a.pending - 1 }
    let b := (Map.find cols new).getD {}
    s.setLaunch l { x with cols := Map.put cols new { b with pending := b.pending + 1, forwarded := false, sealed := x.sealed } }

/-- A group's issue mode, recomputed at its resume: the launch's LFLAGS; that of the text is looked up at each fetch (05 R104). -/
def State.issueMode (s : State) (c sl : Nat) : State :=
  match s.group c sl with
  | none => s
  | some g => s.setGroup c sl { g with ilock := ((s.launch (s.unit g.unit).launch).map (fun l => l.ilock)).getD false }

/-- RESTORING a saved unit on a die, on these cores; its entries, steps and errands get numbers that none here has. -/
def State.restoreUnit (s : State) (die u : Nat) (i : Image) (cs : List Nat) (base : Nat) (rs : List Nat) : State :=
  let z := i.renumber { cores := i.ats.zip (cs ++ rs), shift := s.nextId, base := i.unit.sbase, now := base }
  let s : State := { s with nextId := s.nextId + i.bound }
  let s := z.cores.foldl (fun s e => s.restoreCore z e none) s
  let s := z.recruits.foldl (fun s e => s.restoreCore z e (some u)) s
  let s := s.setUnit u { z.unit with cores := cs }
  let s := match z.sheep with
    | some h => s.setDie die { s.die die with sheep := h }
    | none => s
  let s : State := { s with images := Map.del s.images u }
  let s := ((s.agentsOf u) ++ (s.handlersOf u).map (fun c => (c, handlerSlot))).foldl (fun s a => (s.issueMode a.1 a.2).mergeTest a.1 a.2) s
  (s.moveCollector i.unit.launch (dieOf (i.unit.cores.headD 0)) die).barSync u

/-- The image a RESUME works on finds room and is restored, or the port stays busy. -/
def State.tryResume (s : State) (die u : Nat) : State :=
  let wait := s.setDie die { s.die die with pbusy := true, presume := some u, pop := 1 }
  let done (s : State) (res : BitVec 2) : State :=
    s.setDie die { s.die die with pbusy := false, presume := none, pop := 1, pres := res }
  match Map.find s.images u with
  | none => done s 3
  | some i =>
    if !s.imageLive i then done s 3
    else
      match s.resumeRegion die i with
      | none => wait
      | some (cs, b) =>
        match s.recruitRegion die i cs with
        | none => wait
        | some rs => done (s.restoreUnit die u i cs b rs) 0

/-- The image that a RESUME has read stands for the unit from now on. One that this module has not saved becomes one of this module:
its launch counts the unit as placed (log 12). -/
def State.adoptImage (s : State) (i : Image) : State :=
  let t : State := { s with images := Map.put s.images i.number i }
  if (Map.find s.images i.number).isSome then t
  else
    let t : State := { t with nextId := t.nextId + 1 }
    match s.launch i.unit.launch with
    | none => t
    | some l =>
      let die := dieOf (i.unit.cores.headD 0)
      let col := (Map.find l.cols die).getD {}
      t.setLaunch i.unit.launch { l with
        next := max l.next (i.unit.index + 1), cols := Map.put l.cols die { col with pending := col.pending + 1, forwarded := false } }

/-! ## The pre-emption port (16 Table 16.5) -/

def Die.pJob (d : Die) : BitVec 16 := d.punit.extractLsb' 48 16
def Die.pCoord (d : Die) : BitVec 18 := d.punit.extractLsb' 0 18

/-- The unit of a job that has the core of a coordinate, if it is live and on the die. -/
def State.preemptable (s : State) (die : Nat) (d : Die) : Option Nat :=
  match s.unitAt d.pJob d.pCoord with
  | some u =>
    let x := s.unit u
    if x.ended || x.counter = 0 || dieOf (x.cores.headD 0) ≠ die then none else some u
  | none => none

/-- R327: pctl GO with OP 0 halts the unit within 120 cycles and then saves it, or reports RES 2 when the area is too small. -/
def execPreempt (die : BitVec 3) (s : State) : Result :=
  let d := s.die die.toNat
  if d.pbusy then .next s
  else
    match s.preemptable die.toNat d with
    | none => .next (s.setDie die.toNat { d with pop := 0, pres := 1 })
    | some u =>
      let t := s.haltForSave u
      .next (t.setDie die.toNat { t.die die.toNat with pop := 0, pbusy := true, psaving := some u })

/-- R331: pctl GO with OP 1 checks an image, places the unit when a region is available, restores every record and lets its agents issue. -/
def execUnitResume (die : BitVec 3) (s : State) : Result :=
  let d := s.die die.toNat
  match d.presume with
  | some u => .next (s.tryResume die.toNat u)
  | none =>
    if d.pbusy then .next s
    else
      match s.imageAt die.toNat d.parea.toNat with
      | some i => .next ((s.adoptImage i).tryResume die.toNat i.number)
      | none => .next (s.setDie die.toNat { d with pop := 1, pres := 3 })

/-- R327: pctl GO with OP 2 or 3 gives RES 3 with no effect. -/
def execPctlReservedOp (die : BitVec 3) (op : BitVec 2) (s : State) : Result :=
  let d := s.die die.toNat
  if d.pbusy || op.toNat < 2 then .next s else .next (s.setDie die.toNat { d with pop := op, pres := 3 })

end Sys2Proof.Machine
end

