-- ==== Sys2Proof/Machine/Migration.lean ====
section
/-! DEFINITION. Snapshots of dirty pages, and migration of a job (10 R196, R197, 20 R370-R382). -/

namespace Sys2Proof.Machine

/-! ## Pages of an address space (10 R195-R197, 20 R372) -/

/-- The HBM frame a page translates to. -/
def State.frameAt (s : State) (asid : BitVec 16) (va : Word64) : Option Nat :=
  match s.leaf asid va with
  | some (p, lv) => if leafUsable va p lv && pteLoc p = 0#3 then some (ptePpn p) else none
  | none => none

/-- The page translates to a tracked frame; and that frame is dirty. -/
def State.trackedAt (s : State) (asid : BitVec 16) (va : Word64) : Bool :=
  (s.frameAt asid va).any (fun f => Map.getD false s.tracked f)
def State.dirtyAt (s : State) (asid : BitVec 16) (va : Word64) : Bool :=
  (s.frameAt asid va).any (fun f => Map.getD false s.tracked f && Map.getD false s.dirty f)

/-- The dirty bits of pages are cleared: the linearisation point of a snapshot (10 R197). -/
def State.clearDirty (s : State) (asid : BitVec 16) (vas : List Word64) : State :=
  { s with dirty := vas.foldl (fun m va => match s.frameAt asid va with
      | some f => if s.trackedAt asid va then Map.setD false m f false else m
      | none => m) s.dirty }

/-! ## The snapshot port (10 R196) -/

def Die.snapAsid (d : Die) : BitVec 16 := d.dsva.extractLsb' 48 16
def Die.snapPages (d : Die) : Nat := field d.dscnt.toNat 0 17
def Die.snapVa (d : Die) (i : Nat) : Word64 := BitVec.ofNat 64 ((field d.dsva.toNat 12 36 + i) * 4096)
def Die.snapBad (d : Die) : Bool :=
  d.snapPages = 0 || 65536 < d.snapPages || 2 ^ 36 < field d.dsva.toNat 12 36 + d.snapPages

/-- The port as the GO of the snapshot in progress found it. -/
def Die.snapReq (d : Die) : Die := { d with dsva := d.dsreq.1, dscnt := d.dsreq.2.1, dsout := d.dsreq.2.2 }

/-- A bitmap as dwords. -/
def bitDwords (bs : List Bool) (n : Nat) : List Byte :=
  (List.range (ceilDiv n 64)).flatMap (fun i =>
    leBytes (((List.range 64).map (fun j => if bs.getD (64 * i + j) false then 2 ^ j else 0)).sum) 8)

/-- The snapshot: the bitmap at OUT, the reported bits cleared. -/
def State.snapshot (s : State) (die : Nat) : State :=
  let d := (s.die die).snapReq
  let n := d.snapPages
  let vas := (List.range n).map (fun i => sextVa (d.snapVa i))
  let bs := vas.map (fun va => homeOf va = die && s.dirtyAt d.snapAsid va)
  let out := bitDwords bs n
  let ok := inHbm d.dsout.toNat && inHbm (d.dsout.toNat + out.length - 1)
  let s := s.clearDirty d.snapAsid (vas.filter (fun va => homeOf va = die))
  let s := s.engineWrite d.dsout.toNat out
  let s := if ok then s else s.logRecord die (errRecord s.time d.dsout 0 3 0 0 noCoord 7 0)
  s.setDie die { s.die die with dsbusy := false, dsres := if ok then 0 else 1 }

/-! ## Migration: the descriptor (20 R371) -/

def Migration.dir (m : Migration) : Nat := if m.phase = 7 || m.phase = 8 || m.phase = 9 then 1 else 0

structure MigDesc where
  raw    : List Byte
  ranges : List (Word64 × Nat)

def State.migDesc (s : State) : MigDesc :=
  let d := s.physRead s.mig.desc.toNat 64
  let at_ := fieldAt d 0x10 8
  { raw := d
    ranges := (List.range (fieldAt d 0x18 2)).map (fun i =>
      let e := s.physRead (at_ + 16 * i) 16
      (wordAt e 0, fieldAt e 8 8)) }

/-- A range entry breaks its layout or crosses 2^48. -/
def rangeBad (r : Word64 × Nat) : Bool :=
  r.1.extractLsb' 48 16 ≠ 0#16 || r.1.extractLsb' 0 12 ≠ 0#12 || r.2 = 0 || 2 ^ 24 ≤ r.2 || 2 ^ 48 < r.1.toNat + 4096 * r.2

def State.descBadMig (s : State) (m : MigDesc) (sender : Bool) : Bool :=
  let d := m.raw
  let id : BitVec 16 := BitVec.ofNat 16 (fieldAt d 0 2)
  fieldAt d 5 1 / 16 ≠ 0 || fieldAt d 6 1 = 0 || fieldAt d 7 1 ≠ 0 || fieldAt d 8 4 = 0 || fieldAt d 0x18 2 = 0 || 256 < fieldAt d 0x18 2 ||
    fieldAt d 0x1A 2 ≠ 0 || fieldAt d 0x1C 4 / 2 ^ 21 ≠ 0 || fieldAt d 0x2C 20 ≠ 0 || m.ranges.any rangeBad || !s.registered id ||
    (s.job id).keyslot ≠ fieldAt d 4 1 || (sender && !(s.job id).dirty)

/-- The fields of a descriptor taken into use. -/
def Migration.load (m : Migration) (x : MigDesc) : Migration :=
  let d := x.raw
  { m with
    job := BitVec.ofNat 16 (fieldAt d 0 2), asid := BitVec.ofNat 16 (fieldAt d 2 2), keyslot := fieldAt d 4 1
    peer := BitVec.ofNat 4 (fieldAt d 5 1), maxround := fieldAt d 6 1, session := BitVec.ofNat 32 (fieldAt d 8 4)
    thresh := fieldAt d 0xC 4, ranges := x.ranges, notify := BitVec.ofNat 32 (fieldAt d 0x1C 4), imgarea := wordAt d 0x20
    imgsize := fieldAt d 0x28 4, imgused := 0, finals := 0, forced := false, stuck := false, total := 0, todo := [], reported := 0, exec := [], seq := 0, opened := false, applied := 0, fin := none
    held := [], jobOk := false, jobBody := [], imgs := [], sent := [], round := 0, pages := 0, recs := 0, stale := 0, res := 0 }

/-! ## Phase changes, the hold, and the wire (20 R370, R376) -/

/-- SSIP in the slot NOTIFY names, when PHASE or RES changes. -/
def State.setMig (s : State) (m : Migration) : State :=
  let t : State := { s with mig := m }
  if s.mig.phase = m.phase && s.mig.res = m.res then t
  else
    match coreOf (m.notify.extractLsb' 0 18) with
    | none => t
    | some c =>
      let sl := field m.notify.toNat 18 3
      match (if 3 < sl then none else t.group c sl) with
      | some g => t.setGroup c sl { g with csr := { g.csr with sip := g.csr.sip ||| 2 } }
      | none => t

def State.holdJob (s : State) (held unplaced : Bool) : State :=
  if s.registered s.mig.job then s.setJob s.mig.job { s.job s.mig.job with held := held, unplaced := unplaced } else s

/-- 20 Table 20.5. -/
def streamHeader (m : Migration) (kind round va len seq : Nat) : BitVec 256 :=
  BitVec.ofNat 256 (kind + 2 ^ 8 + m.session.toNat * 2 ^ 32 + seq * 2 ^ 64 + m.dir * 2 ^ 127 + va * 2 ^ 160 + round * 2 ^ 208 + len * 2 ^ 224)

/-- The nonce of a header: SESSION, then bits [127:64]. -/
def streamNonce (h : BitVec 256) : BitVec 96 := h.extractLsb' 32 32 ++ h.extractLsb' 64 64

def State.migKey (s : State) : BitVec 256 := ((Map.find s.sec.keys s.mig.keyslot).map Prod.snd).getD 0

/-- A record is sealed and sent. -/
def State.sendRec (s : State) (kind round va : Nat) (body : List Byte) : State :=
  let m := s.mig
  let h := streamHeader m kind round va body.length m.seq
  let hb := leBytes h.toNat 32
  let q := aesGcmSeal s.migKey (streamNonce h) hb body
  { s with mig := { m with sent := m.sent ++ [(hb, q.1, q.2)], seq := m.seq + 1, recs := if m.dir = 0 then satInc m.recs else m.recs } }

/-- The body of OPEN: FWVER, stepping family, SMAJOR, SMINOR (log 14). -/
def openBody (fwver : Word32) : List Byte := leBytes fwver.toNat 4 ++ leBytes 0x31 1 ++ leBytes 1 2 ++ leBytes 0 2

/-- THE SESSION ENDS on this side with RES; the hold of a sending job is released. -/
def State.endSession (s : State) (res : BitVec 3) (tell : Bool) : State :=
  let s := if tell then s.sendRec 8 0 0 (leBytes res.toNat 1) else s
  let s := if s.mig.dir = 0 then s.holdJob false false else s
  s.setMig { s.mig with phase := 0, res := res, held := [], todo := [] }

/-! ## Sending (20 R372-R375) -/

/-- The pages of the ranges, by home and then by address. -/
def State.migPages (s : State) : List Word64 :=
  let all := s.mig.ranges.flatMap (fun r => (List.range r.2).map (fun i => sextVa (r.1 + BitVec.ofNat 64 (4096 * i))))
  let sorted := (all.foldl (fun (m : Map Word64) va => Map.put m (va.extractLsb' 0 48).toNat va) []).map Prod.snd
  (List.range 8).flatMap (fun h => sorted.filter (fun va => homeOf va = h))

/-- One page of a round. -/
def State.sendPage (s : State) (va : Word64) : State :=
  match s.frameAt s.mig.asid va with
  | none => s
  | some f =>
    let a := (va.extractLsb' 0 48).toNat
    if Map.getD false s.discarded f then s.sendRec 3 s.mig.round.toNat a []
    else s.sendRec 2 s.mig.round.toNat a (s.hbm.bytes (f * 4096) 4096)

/-- A snapshot port works on pages of the ranges: the migration's snapshot starts only after it (10 R197). -/
def State.snapsOverlap (s : State) : Bool :=
  s.dies.any (fun e => e.2.dsbusy && e.2.snapReq.snapAsid = s.mig.asid && s.mig.ranges.any (fun r =>
    decide ((e.2.snapReq.snapVa 0).toNat < r.1.toNat + 4096 * r.2) &&
      decide (r.1.toNat < (e.2.snapReq.snapVa 0).toNat + 4096 * e.2.snapReq.snapPages)))

/-! ### The JOB record (20 R375, Table 20.4; layouts: log 14) -/

/-- The job descriptor, as the job was registered from it (01 Table 1.10). -/
def Job.descBytes (id : BitVec 16) (x : Job) : List Byte :=
  leBytes id.toNat 2 ++ leBytes x.asid.toNat 2 ++ leBytes x.keyslot 1 ++ leBytes x.pceil.toNat 1 ++ leBytes (if x.dirty then 1 else 0) 2 ++
    leBytes x.ptroot.toNat 8 ++ leBytes x.qmask.toNat 8 ++ leBytes x.phases.toNat 8 ++ leBytes x.nphase 8 ++ leBytes x.jdone.toNat 8 ++
    leBytes 0 16

/-- A queue: its size, its priority, the entries in progress that a SER entry waits for, and the entries CONS to PROD - 1. -/
def State.queueBody (s : State) (x : Queue) : List Byte :=
  leBytes x.logn.toNat 4 ++ leBytes x.qprio.toNat 2 ++ leBytes x.live.length 2 ++
    (List.range (x.prod - x.cons).toNat).flatMap (fun i =>
      s.physRead (x.base.toNat + 16 * ((x.cons.toNat + i) % 2 ^ x.logn.toNat)) 16)

/-- A level: kind (1 launch, 2 replay, 3 phase), priority, counter, descriptor, word, fault address, first and number of the unplaced
units, replays not started. -/
def levelBody (kind : Nat) (prio : BitVec 3) (counter : Nat) (desc status faddr : Word64) (first count left : Nat) : List Byte :=
  leBytes kind 2 ++ leBytes prio.toNat 2 ++ leBytes counter 4 ++ leBytes desc.toNat 8 ++ leBytes status.toNat 8 ++ leBytes faddr.toNat 8 ++
    leBytes first 8 ++ leBytes count 8 ++ leBytes left 8

/-- What the launch's tree has combined so far. -/
def Launch.soFar (x : Launch) : Report :=
  (x.cols.filter (fun e => !e.2.forwarded)).foldl (fun r e => r.combine e.2.report) x.report

def Launch.levelBody (x : Launch) : List Byte :=
  let n := if x.cancelled then 0 else x.gx * x.gy * x.gz - x.next
  Sys2Proof.Machine.levelBody 1 x.prio x.counter x.desc x.soFar.word x.soFar.addr x.next n 0

/-- The levels of a run: the replay, and for a phase the phase. -/
def Run.levels (x : Run) : List (List Byte) :=
  levelBody 2 0 x.counter x.graph x.status x.faddr 0 0 x.left ::
    (match x.phase with
     | some p => [levelBody 3 0 (x.left + (if x.active then 1 else 0)) p.1 x.pstatus x.pfaddr 0 0 x.left]
     | none => [])

/-- The ranges of a launch: base, size, bit 0 of the third dword W. -/
def leasesBody (rs : List Range) : List Byte :=
  rs.flatMap (fun r => leBytes r.base.toNat 8 ++ leBytes r.size 8 ++ leBytes (if r.w then 1 else 0) 8)

/-- Records of one tag, numbered in SUB. -/
def numbered (tag : Nat) (bodies : List (List Byte)) : Records :=
  ((List.range bodies.length).zip bodies).map (fun q => (recKey tag q.1 0 0 0, q.2))

/-- The launches of a job that are levels: those admitted, and those whose last decrements are on their way (03 R63). -/
def State.jobLevels (s : State) (j : BitVec 16) : List Launch :=
  (s.launches.filter (fun e => e.2.job = j && (e.2.stage = .running || s.decs.any (fun d => d.run = e.1)))).map Prod.snd

/-- THE RECORDS of a job: JOBDESC, QUEUE with the queue number in SUB, LEVEL, LEASES with the SUB of its level, SHEEP, and EXEC where the
executive has data for it. -/
def State.jobRecords (s : State) : Records :=
  let j := s.mig.job
  let x := s.job j
  let ls := s.jobLevels j
  let rs := (s.runs.filter (fun e => e.2.job = j)).map Prod.snd
  [(recKey 1 0 0 0 0, x.descBytes j ++ leBytes x.counter 8 ++ leBytes x.status.toNat 8 ++ leBytes x.faddr.toNat 8)] ++
    (s.queues.filter (fun e => e.2.qjob = j)).map (fun e => (recKey 2 e.1 0 0 0, s.queueBody e.2)) ++
    numbered 3 (ls.map Launch.levelBody ++ rs.flatMap Run.levels) ++ numbered 4 (ls.map (fun l => leasesBody l.ranges)) ++
    numbered 5 ((s.images.filter (fun e => e.2.unit.job = j && e.2.sheep.isSome)).map (fun e =>
      leBytes (dieOf (e.2.unit.cores.headD 0)) 4 ++ leBytes e.2.unit.index 4)) ++
    (if s.mig.exec.isEmpty then [] else [(recKey 6 0 0 0 0, s.mig.exec)])

/-- The saved images of the job, in ascending unit index. -/
def State.jobImages (s : State) : List Image :=
  let is := (s.images.filter (fun e => e.2.unit.job = s.mig.job)).map Prod.snd
  (((List.range is.length).zip is).foldl (fun (m : Map Image) q => Map.put m (q.2.unit.index * is.length + q.1) q.2) []).map Prod.snd

/-- After the last final round: the images, JOB, FIN. -/
def State.sendEnd (s : State) : State :=
  let s := s.jobImages.foldl (fun s i => s.sendRec 4 0 0 (s.physRead i.area i.size)) s
  let s := s.sendRec 5 0 0 s.jobRecords.write
  let s := s.sendRec 6 0 0 (leBytes (s.mig.seq + 1) 8)
  s.setMig { s.mig with phase := 5 }

/-! ### Rounds (20 R372-R374) -/

/-- THE END OF A ROUND. -/
def State.roundEnds (s : State) : State :=
  let s : State := { s with mig := { s.mig with pages := BitVec.ofNat 32 (min s.mig.total (2 ^ 32 - 1)), round := s.mig.round + 1 } }
  let m := s.mig
  if m.phase = 1 && (m.pages.toNat ≤ m.thresh || m.round.toNat = m.maxround) then s.setMig { m with phase := 2 }
  else if m.phase = 4 then
    if m.reported = 0 then s.sendEnd
    else if 3 ≤ m.finals then s.setMig { m with finals := 0, phase := 3, res := 4, stuck := true }
    else { s with mig := { m with finals := m.finals + 1 } }
  else s

/-- A ROUND STARTS with its snapshot-and-clear, one point of every page's order. -/
def State.roundStarts (s : State) : State :=
  let m := s.mig
  let ps := s.migPages
  let sel := ps.filter (if m.round = 0 then s.trackedAt m.asid else s.dirtyAt m.asid)
  let s := { s.clearDirty m.asid ps with mig := { m with
    total := sel.length, todo := sel, reported := (ps.filter (s.dirtyAt m.asid)).length } }
  if sel.isEmpty then s.roundEnds else s

/-- ONE STEP of the rounds: the snapshot of the next one, or one page of that in progress; writes are ordered between the steps
(20 R373). A STOP lets the round in progress read its pages, and starts no other. -/
def State.precopy (s : State) : State :=
  match s.mig.todo with
  | va :: r =>
    if s.mig.phase = 0 || 4 < s.mig.phase.toNat then s
    else
      let s := s.sendPage va
      let s : State := { s with mig := { s.mig with todo := r } }
      if r.isEmpty then s.roundEnds else s
  | [] =>
    if (s.mig.phase = 1 || s.mig.phase = 2 || s.mig.phase = 4) && !s.snapsOverlap then s.roundStarts else s

/-! ## STOP (20 R374) -/

/-- Units of the job that are placed. -/
def State.jobUnits (s : State) : List Nat := (s.units.filter (fun e => e.2.job = s.mig.job && !e.2.ended)).map Prod.fst

/-- Some launch of the job is admitted and unretired. -/
def State.jobBusy (s : State) : Bool := s.launches.any (fun e => e.2.job = s.mig.job && e.2.stage ≠ .asked)

/-- STOP holds the job; with FORCE every placed unit halts for its save. IMGAREA and IMGSIZE are read again (log 14). -/
def State.migStop (s : State) (force : Bool) : State :=
  let d := s.physRead s.mig.desc.toNat 64
  let area := wordAt d 0x20
  let s := s.holdJob true force
  let s := s.setMig { s.mig with
    phase := 3, res := 0, force := force, op := 1, finals := 0, forced := force, stuck := false
    imgarea := area, imgsize := fieldAt d 0x28 4, imgused := if area = s.mig.imgarea then s.mig.imgused else 0 }
  if force then s.jobUnits.foldl State.haltForSave s else s

/-- A forced stop saves the job's next unit at rest on a die, if the pre-emption port of the die is not saving it. -/
def State.migSave (s : State) (die : Nat) : State :=
  if s.mig.phase ≠ 3 || !s.mig.forced || s.mig.stuck then s
  else
    match s.jobUnits.find? (fun u => dieOf ((s.unit u).cores.headD 0) = die && (s.unit u).saving && s.atRest u &&
        s.dies.all (fun e => e.2.psaving ≠ some u)) with
    | none => s
    | some u =>
      let m := s.mig
      let r := s.saveUnit 8 u (m.imgarea.toNat + m.imgused) (m.imgsize - m.imgused)
      match r.2 with
      | some t => { t with mig := { t.mig with imgused := m.imgused + (r.1 + 63) / 64 * 64 } }
      | none => s.setMig { m with res := 3, stuck := true }

/-! ## Receiving (20 R378-R381) -/

def hdrField (h : List Byte) (lo n : Nat) : Nat := field (leValue h) lo n

/-- A violation of the receiver: the engine is frozen (20 R379, R380). -/
def State.migFreeze (s : State) (addr : Word64) : State :=
  let t := { s with freeCtr := s.freeCtr + 1 }.logRecord 8
    (errRecord s.time addr s.mig.job 4 0 0 noCoord 7 (Config.freeWord s.freeCtr).toNat)
  t.setMig { t.mig with phase := 9 }

/-- The page's frame is covered by a lease in force. -/
def State.leaseCovers (s : State) (asid : BitVec 16) (a : Nat) : Bool :=
  s.ranges.any (fun r => r.asid = asid && decide (r.base.toNat < a + 4096) && decide (a < r.base.toNat + r.size))

/-- Some lease in force maps to the frame. -/
def State.frameLeased (s : State) (f : Nat) : Bool :=
  s.pins.any (fun e => pteLoc e.2.1 = 0#3 && ptePpn e.2.1 = f &&
    s.leaseCovers (BitVec.ofNat 16 (e.1 / 2 ^ 36)) (e.1 % 2 ^ 36 * 4096))

/-- One more record processed; and one that is applied (a stale page record is not, 20 R379). -/
def Migration.passed (m : Migration) : Migration := { m with applied := m.applied + 1 }
def Migration.counted (m : Migration) : Migration := { m.passed with recs := satInc m.recs }

/-- A PAGE or DISCARD record, ordered by its round. -/
def State.recvPage (s : State) (va round : Nat) (page : Option (List Byte)) : State :=
  let a := sextVa (BitVec.ofNat 64 va)
  let m := s.mig
  let inside := m.ranges.any (fun r => decide (r.1.toNat ≤ va) && decide (va < r.1.toNat + 4096 * r.2))
  match (if inside then s.frameAt m.asid a else none) with
  | none => s.endSession 3 true
  | some f =>
    if s.leaseCovers m.asid va || s.frameLeased f then s.migFreeze (BitVec.ofNat 64 va)
    else if round < (Map.getD 0 s.rround f).toNat then { s with mig := { m.passed with stale := satInc m.stale } }
    else
      let s := match page with
        | some d => s.engineStore 8 (f * 4096) d
        | none => { s with hbm := s.hbm.clear (f * 4096) 4096, discarded := Map.setD false s.discarded f true }
      { s with rround := Map.setD 0 s.rround f (BitVec.ofNat 16 round), mig := m.counted }

/-- The body of a LEVEL is a launch's; its descriptor. -/
def levelIsLaunch (d : List Byte) : Bool := fieldAt d 0 2 = 1
def levelDesc (d : List Byte) : Word64 := wordAt d 8

/-- The required job tags are there for every instance the others, and the images received, imply (20 R375, R380, 16 R333). -/
def Records.jobComplete (r : Records) (imgs : List (Word64 × Nat × Bool)) : Bool :=
  r.has 1 0 0 0 0 &&
    r.all (fun e => keyTag e.1 ≠ 3 || !levelIsLaunch e.2 || r.has 4 (keySub e.1) 0 0 0) &&
    r.all (fun e => keyTag e.1 ≠ 4 || r.has 3 (keySub e.1) 0 0 0) &&
    imgs.all (fun i => r.any (fun e => keyTag e.1 = 3 && levelIsLaunch e.2 && levelDesc e.2 = i.1) &&
      (!i.2.2 || r.any (fun e => keyTag e.1 = 5 && fieldAt e.2 4 4 = i.2.1)))

/-- The JOB record received names what it must. -/
def Migration.jobGood (m : Migration) : Bool :=
  m.jobOk && (match Records.parse m.jobBody with
    | some (_, r) => r.jobComplete m.imgs
    | none => false)

/-- The answer to FIN, when every record below its count has been applied. -/
def State.finCheck (s : State) : State :=
  let m := s.mig
  if m.phase = 7 && m.fin = some m.applied then
    let s := s.sendRec 7 0 0 (leBytes (if m.jobGood then 0 else 2) 8)
    if m.jobGood then s.setMig { s.mig with phase := 8 } else s.endSession 3 false
  else s

/-- The receiver accepts the sender's firmware and schema (20 R378). -/
def State.openOk (s : State) (d : List Byte) : Bool :=
  let a := fieldAt d 0 4
  let b := s.sec.fwver.toNat
  let mi := field a 16 8
  let mj := field b 16 8
  a / 2 ^ 24 = b / 2 ^ 24 && mi ≤ mj + 2 && mj ≤ mi + 2 && fieldAt d 5 2 = 1

/-- A verified record of the session is applied. One whose header has a reserved field that is not 0 ends the session with RES 3 (20 Table
20.5, log 14). -/
def State.applyRec (s : State) (h d : List Byte) : State :=
  let m := s.mig
  let kind := hdrField h 0 8
  if hdrField h 8 8 ≠ 1 || hdrField h 16 16 ≠ 0 || hdrField h 128 32 ≠ 0 || d.length ≠ hdrField h 224 32 then s.endSession 3 true
  else if kind = 1 then
    if s.openOk d then { s with mig := { m.counted with opened := true } }.sendRec 7 0 0 (leBytes 0 8)
    else (s.sendRec 7 0 0 (leBytes 1 8)).endSession 2 false
  else if kind = 2 then if d.length ≠ 4096 then s.endSession 3 true else s.recvPage (hdrField h 160 48) (hdrField h 208 16) (some d)
  else if kind = 3 then if d.length ≠ 0 then s.endSession 3 true else s.recvPage (hdrField h 160 48) (hdrField h 208 16) none
  else if kind = 4 then
    if m.imgsize < m.imgused + d.length then s.migFreeze (m.imgarea + BitVec.ofNat 64 m.imgused)
    else
      let s := s.engineStore 8 (m.imgarea.toNat + m.imgused) d
      { s with mig := { m.counted with
          imgused := m.imgused + (d.length + 63) / 64 * 64
          imgs := m.imgs ++ [(wordAt d 0x20, fieldAt d 0x1C 4, decide (fieldAt d 0x29 1 / 2 % 2 = 1))] } }
  else if kind = 5 then { s with mig := { m.counted with jobOk := true, jobBody := d } }
  else if kind = 6 then { s with mig := { m.counted with fin := some (leValue d) } }
  else if kind = 8 then s.endSession (BitVec.ofNat 3 (leValue d)) false
  else s.endSession 3 true

/-- A record's tag fails to verify: RES 5, ABORT, and the peer flow is frozen, a violation with its record (20 R381, 22 R408, 18 R354;
no rule names its cause, log 3). -/
def State.badTag (s : State) : State :=
  let e := Map.getD 0#256 s.peers s.mig.peer.toNat
  let t : State := { s with peers := Map.setD 0#256 s.peers s.mig.peer.toNat (e ||| (1#256 <<< 129)), freeCtr := s.freeCtr + 1 }
  (t.logRecord 8 (errRecord s.time 0 s.mig.job 4 0 0 noCoord 7 (Config.freeWord s.freeCtr).toNat)).endSession 5 true

/-- A record's tag is verified, and then the record is worked on. -/
def State.verified (s : State) (r : List Byte × List Byte × List Byte) (f : List Byte → State) : State :=
  match aesGcmOpen s.migKey (streamNonce (BitVec.ofNat 256 (leValue r.1))) r.1 r.2.1 r.2.2 with
  | none => s.badTag
  | some d => f d

/-- A record is verified and applied. -/
def State.openRec (s : State) (r : List Byte × List Byte × List Byte) : State := s.verified r (fun d => (s.applyRec r.1 d).finCheck)

/-- The sender gets an ACK: status 0 of FIN ends the session well; 1 and 2 end it (20 R378, R380). -/
def State.gotAck (s : State) (status : Nat) : State :=
  if s.mig.phase = 6 then s
  else if status = 0 then (if s.mig.phase = 5 then s.setMig { s.mig with phase := 6 } else s)
  else s.endSession (if status = 1 then 2 else 3) false

/-- The other side's ABORT: RES is the code it carries, the hold is released, a frozen engine thaws (20 R382). -/
def State.gotAbort (s : State) (d : List Byte) : State := s.endSession (BitVec.ofNat 3 (leValue d)) false

/-- A record of the session from the peer: this side works, in this direction, on records that come from it with its flow open. -/
def State.recvable (s : State) (peer : BitVec 4) (h : List Byte) : Bool :=
  s.mig.phase ≠ 0 && peer = s.mig.peer && s.peerOpen peer && hdrField h 32 32 = s.mig.session.toNat && hdrField h 127 1 = 1 - s.mig.dir

/-- A RECORD ARRIVES from a peer: at the receiver, held until OPEN has been applied; at the sender, an ACK or an ABORT. Once the
receiver has answered FIN, or is frozen, and at a sender that is done, only an ABORT is taken (20 R376-R382). -/
def State.recvRec (s : State) (peer : BitVec 4) (h c t : List Byte) : State :=
  let m := s.mig
  let kind := hdrField h 0 8
  if !s.recvable peer h then s
  else if m.phase = 7 then
    if !m.opened && kind ≠ 1 then { s with mig := { m with held := m.held ++ [(h, c, t)] } }
    else
      let s := s.openRec (h, c, t)
      if s.mig.phase = 7 && s.mig.opened then
        s.mig.held.foldl (fun s r => if s.mig.phase = 7 then s.openRec r else s) { s with mig := { s.mig with held := [] } }
      else s
  else if kind = 8 then s.verified (h, c, t) s.gotAbort
  else if m.phase = 6 || m.phase = 8 || m.phase = 9 then s
  else s.verified (h, c, t) (fun d => if kind = 7 then s.gotAck (fieldAt d 0 1) else s.endSession 3 true)

/-! ## The port (20 Tables 20.1, 20.2) -/

/-- A GO in a phase the operation does not name. -/
def State.wrongPhase (s : State) (op : BitVec 3) : State := s.setMig { s.mig with op := op, res := 1 }

/-- R196: dsctl GO starts a snapshot-and-clear of the dirty bits over NPAGE pages; a GO while BUSY is 1 is ignored. -/
def execSnapshot (die : BitVec 3) (s : State) : Result :=
  let d := s.die die.toNat
  if d.dsbusy then .next s
  else if d.snapBad then .next (s.setDie die.toNat { d with dsres := 2 })
  else .next (s.setDie die.toNat { d with dsbusy := true, dsreq := (d.dsva, d.dscnt, d.dsout) })

/-- R197: The snapshot writes its bitmap to OUT, clears the reported dirty bits and sets RES. -/
def execSnapshotComplete (die : BitVec 3) (s : State) : Result :=
  if (s.die die.toNat).dsbusy then .next (s.snapshot die.toNat) else .next s

/-- R329: Once in-flight work has come to rest, the save engine writes the image and releases the unit's resources. -/
def execPreemptSaveComplete (die : BitVec 3) (s : State) : Result :=
  let d := s.die die.toNat
  match d.psaving with
  | none => .next (s.migSave die.toNat)
  | some u =>
    if !s.atRest u then .next (s.migSave die.toNat)
    else
      let r := s.saveUnit die.toNat u d.parea.toNat d.psize.toNat
      let t := r.2.getD s
      .next (t.setDie die.toNat { t.die die.toNat with
        psaving := none, pbusy := false, pres := if r.2.isSome then 0 else 2, plen := BitVec.ofNat 32 r.1 })

/-- R370: mgctl OP START reads the descriptor, sends OPEN and enters pre-copy. -/
def execMigrationStart (s : State) : Result :=
  let m := s.mig
  if m.phase ≠ 0 && m.phase ≠ 6 && m.phase ≠ 8 then .next (s.wrongPhase 0)
  else
    let x := s.migDesc
    if s.descBadMig x true then .next (s.setMig { m with op := 0, res := 3 })
    else
      let t := s.setMig { m.load x with op := 0, phase := 1 }
      .next (t.sendRec 1 0 0 (openBody t.sec.fwver))

/-- R374: mgctl OP STOP holds the job and waits for its launches, or with FORCE pre-empts its units, then runs final rounds and sends
IMAGE, JOB and FIN. The operand is FORCE and what the executive has for the EXEC record, up to 1 MiB (20 Table 20.4, log 14). -/
def execMigrationStop (force : Bool × List (BitVec 8)) (s : State) : Result :=
  let m := s.mig
  let (force, data) := force
  if m.phase = 1 || m.phase = 2 || (m.phase = 3 && force) then
    let t := s.migStop force
    .next { t with mig := { t.mig with exec := data.take (2 ^ 20) } }
  else .next ({ s with mig := { m with force := force } }.wrongPhase 1)

/-- R382: mgctl OP ABORT stops the session, sends ABORT, sets RES 7, releases the hold and returns PHASE to 0. -/
def execMigrationAbort (s : State) : Result :=
  let m := s.mig
  if (1 ≤ m.phase.toNat && m.phase.toNat ≤ 5) || m.phase = 7 || m.phase = 8 || m.phase = 9 then
    let t := s.sendRec 8 0 0 (leBytes 7 1)
    let t := t.holdJob false false
    .next (t.setMig { t.mig with op := 2, phase := 0, res := 7, held := [], todo := [] })
  else .next (s.wrongPhase 2)

/-- R378: mgctl OP RECEIVE reads the descriptor and waits for OPEN. -/
def execMigrationReceive (s : State) : Result :=
  let m := s.mig
  if m.phase ≠ 0 && m.phase ≠ 6 && m.phase ≠ 8 then .next (s.wrongPhase 3)
  else
    let x := s.migDesc
    if s.descBadMig x false then .next (s.setMig { m with op := 3, res := 3 })
    else .next ({ s with rround := [] }.setMig { m.load x with op := 3, phase := 7 })

/-- R370: mgctl GO with OP 4–7 gives RES 3. -/
def execMgctlReservedOp (op : BitVec 3) (s : State) : Result :=
  if op.toNat < 4 then .next s else .next (s.setMig { s.mig with op := op, res := 3 })

/-- R372: The engines snapshot the dirty bits, send every reported page as a PAGE or DISCARD record, and may declare convergence. -/
def execPrecopyRound (s : State) : Result :=
  .next s.precopy

/-- R374: A held job with FORCE 0 has no admitted, unretired launch left, and the final rounds begin. -/
def execStopDrainComplete (s : State) : Result :=
  let m := s.mig
  if m.phase = 3 && !m.stuck && m.todo.isEmpty && (if m.forced then s.jobUnits.isEmpty else !s.jobBusy) then .next (s.setMig { m with phase := 4, finals := 0 })
  else .next s

/-- R379: A stream record arrives from a peer and is verified; PAGE, DISCARD, IMAGE and JOB records are applied by round, and OPEN and
FIN are answered with an ACK. -/
def execMigrationRecordReceive (hdr : BitVec 4 × List (BitVec 8)) (body tag : List (BitVec 8)) (s : State) : Result :=
  .next (s.recvRec hdr.1 hdr.2 body tag)

/-- R380: The sender receives an ACK record; that of FIN takes it to phase 6, or ends the session with the reported status. -/
def execMigrationAck (ack : BitVec 4 × List (BitVec 8) × List (BitVec 8) × List (BitVec 8)) (s : State) : Result :=
  let (peer, hdr, body, tag) := ack
  if hdrField hdr 0 8 = 7 && hdrField hdr 127 1 = 1 then .next (s.recvRec peer hdr body tag) else .next s

/-- R377: A record's transport retries are exhausted and the session ends on both sides with RES 6; the exhaustion is logged (18 R355). -/
def execMigrationLinkFail (s : State) : Result :=
  let m := s.mig
  if (1 ≤ m.phase.toNat && m.phase.toNat ≤ 5) || m.phase = 7 || m.phase = 8 || m.phase = 9 then
    let t := s.logRecord 8 (errRecord s.time 0 m.job 5 11 0 noCoord 7 0)
    .next (t.endSession 6 false)
  else .next s

end Sys2Proof.Machine
end

