-- ==== Sys2Proof/Machine/Security.lean ====
section
/-! DEFINITION. The security controller: fuses, signed objects, measurements, key slots, debug unlock and reports (21 R384-R400). -/

namespace Sys2Proof.Machine

/-! ## Bytes of digests and words -/

/-- n free bytes. -/
def freeBytes (ctr n : Nat) : List Byte :=
  (List.range n).map (fun i => (Config.freeWord (ctr + i / 8)).extractLsb' (8 * (i % 8)) 8)

/-- A digest the spec does not define, and what it takes of the free values (log 3). -/
def freeDigest (ctr : Nat) : BitVec 384 := BitVec.ofNat 384 (leValue (freeBytes ctr 48))

/-! ## Fuses and the lifecycle (21 R385, R386) -/

def Security.fuse (z : Security) (w : Nat) : Word64 := Map.getD 0 z.fuses w
def Security.deviceId (z : Security) : Word64 := z.fuse 0
def Security.svn (z : Security) : Nat := ((List.range 32).filter (fun i => (z.fuse 1).getLsbD (32 + i))).length
def Security.revoked (z : Security) (k : Nat) : Bool := (z.fuse 1).getLsbD (8 + k)
def Security.vkhash (z : Security) (k : Nat) : List Byte :=
  (List.range 6).flatMap (fun i => leBytes (z.fuse (2 + 6 * k + i)).toNat 8)
def Security.uds (z : Security) : BitVec 256 := z.fuse 29 ++ z.fuse 28 ++ z.fuse 27 ++ z.fuse 26

/-- The word FUSEREAD returns. -/
def Security.fuseSeen (z : Security) (w : Nat) : Word64 := if w < 26 then z.fuse w else 0

/-- LCS; an LCF the table does not list acts as SCRAP. -/
def Security.lcs (z : Security) : Nat :=
  if z.lcf = 0 then 0 else if z.lcf = 1 then 1 else if z.lcf = 3 then 2 else if z.lcf = 7 then 3 else 4
def lcfOf (lcs : Nat) : Nat := 2 ^ lcs - 1

/-- The debug levels a lifecycle state lets be unlocked. -/
def levelAllowed (lcs level : Nat) : Bool := (level = 1 && (lcs = 1 || lcs = 2 || lcs = 3)) || (level = 2 && (lcs = 1 || lcs = 3))

/-- The commands a lifecycle state serves (21 Table 21.2). -/
def Security.serves (z : Security) (cmd : Nat) : Bool :=
  if z.lcs = 0 then cmd = 2 || cmd = 7 else if z.lcs = 4 then cmd = 2 else true

/-! ## Device keys (21 R387, RFC 5869, FIPS 186-5, log 15) -/

def Security.udsBytes (z : Security) : List Byte := leBytes z.uds.toNat 32

/-- The keys that a reset derives from UDS: 64 extra bits reduced modulo n - 1, plus 1; the LMS seed, then its identifier. -/
def Security.derive (z : Security) : Security :=
  let e := hkdf384 z.udsBytes (ascii "HN816 DEVID ECC") 56
  let l := hkdf384 z.udsBytes (ascii "HN816 DEVID LMS") 40
  { z with
    ecKey := BitVec.ofNat 384 (beValue e % (p384Order - 1) + 1)
    lmsSeed := BitVec.ofNat 192 (beValue (l.take 24)), lmsId := BitVec.ofNat 128 (beValue (l.drop 24)) }

def Security.ecPub (z : Security) : List Byte := ecdsaPub z.ecKey
/-- The LMS public key as RFC 8554 writes it: types, I, root. -/
def Security.lmsPub (z : Security) : List Byte :=
  lmsTypes ++ beBytes z.lmsId.toNat 16 ++ lmsRoot z.lmsSeed z.lmsId

/-- The certificates of slot 0, from the root to the DevID certificate, which carries both public keys (21 R387). -/
def Security.certs (z : Security) : List Byte :=
  z.root ++ z.chain ++ z.devid.1 ++ z.ecPub ++ z.devid.2.1 ++ z.lmsPub ++ z.devid.2.2

/-- A secret number of 512 bits from two draws, and the controller after n draws. -/
def Security.secret (z : Security) : Nat := (Config.drbg z.draws).toNat * 2 ^ 256 + (Config.drbg (z.draws + 1)).toNat
def Security.drawn (z : Security) (n : Nat) : Security := { z with draws := z.draws + n }

/-! ## Measurements and the log (21 R390, R391) -/

def Security.reg (z : Security) (i : Nat) : BitVec 384 := Map.getD 0 z.m i

/-- AN EXTENSION: the register and its record, as one step. -/
def Security.extend (z : Security) (time : Word64) (i : Nat) (type : Nat) (e : BitVec 384) : Security :=
  { z with
    m := Map.setD 0 z.m i (sha384 (digestBytes (z.reg i) ++ digestBytes e))
    log := z.log ++ [{ type := BitVec.ofNat 16 type, reg := BitVec.ofNat 8 i, time := time, dig := e }] }

/-- 21 Table 21.6. -/
def logBytes (seq : Nat) (r : LogRec) : List Byte :=
  leBytes seq 4 ++ leBytes r.type.toNat 2 ++ leBytes r.reg.toNat 1 ++ leBytes 0 1 ++ leBytes r.time.toNat 8 ++ digestBytes r.dig

/-- E of the events of types 3, 4 and 5. -/
def Security.eventDigest (z : Security) (level : Nat) (d : BitVec 384) : BitVec 384 :=
  sha384 (leBytes z.deviceId.toNat 8 ++ leBytes level 1 ++ leBytes z.lcs 1 ++ leBytes 0 6 ++ digestBytes d)

/-- Every key slot is wiped; M4 is extended. -/
def Security.wipe (z : Security) (time : Word64) (level : Nat) : Security :=
  { z with keys := [] }.extend time 4 5 (z.eventDigest level 0)

/-! ## Signed objects (21 R388) -/

inductive Sts where
  | ok | badcmd | badlen | format | key | sig | bind | level | jobs | full | exhausted | state | denied
deriving DecidableEq, Repr

def Sts.code : Sts → BitVec 8
  | .ok => 0 | .badcmd => 1 | .badlen => 2 | .format => 3 | .key => 4 | .sig => 5 | .bind => 6 | .level => 7 | .jobs => 8
  | .full => 9 | .exhausted => 10 | .state => 11 | .denied => 12

def part (o : List Byte) (a n : Nat) : List Byte := (o.drop a).take n

/-- The LMS types of a public key and of a signature are those of R387. -/
def lmsTypesOk (pub sig : List Byte) : Bool :=
  part pub 0 8 = lmsTypes && part sig 4 4 = lmsTypes.drop 4 && part sig 1256 4 = lmsTypes.take 4

/-- Reserved fields of the envelope and of the type are 0. -/
def reservedZero (o : List Byte) (t : Nat) : Bool :=
  fieldAt o 0xC 4 = 0 && fieldAt o 0xE0 32 = 0 &&
    (if t = 1 then fieldAt o 0xA6 2 = 0 else fieldAt o 0xAA 6 = 0 && fieldAt o 0xD0 16 = 0)

/-- VERIFYING an object of type t: the digest, or the first step that fails. -/
def Security.verify (z : Security) (o : List Byte) (t : Nat) : Except Sts (BitVec 384) :=
  let blen := fieldAt o 8 4
  if o.length ≠ blen + 1836 || blen < 256 || 2256 < blen then .error .badlen
  else if fieldAt o 0 4 ≠ 0x4F534B56 || fieldAt o 4 2 ≠ 1 || fieldAt o 6 1 ≠ t || !reservedZero o t then .error .format
  else
    let k := fieldAt o 7 1
    if 3 < k || z.revoked k then .error .key
    else if digestBytes (sha384 (part o 0x10 144)) ≠ z.vkhash k then .error .key
    else
      let d := sha384 (o.take blen)
      if !ecdsaVerify (part o 0x10 96) d (part o blen 96) then .error .sig
      else if !lmsTypesOk (part o 0x70 48) (part o (blen + 96) 1740) || !lmsVerify (part o 0x70 48) (digestBytes d) (part o (blen + 96) 1740) then .error .sig
      else .ok d

/-- FIRMWARE IS ACCEPTED for a target, 0 the controller, 1 the device: its manifest verifies, the image has its length and its digest, and
its SVN is at least the floor; the manifest's digest and its FWVER (21 R388). -/
def Security.acceptFirmware (z : Security) (target : Nat) (manifest image : List Byte) : Option (BitVec 384 × Word32) :=
  match z.verify manifest 1 with
  | .error _ => none
  | .ok d =>
    if fieldAt manifest 0xA5 1 = target && fieldAt manifest 0xA8 8 = image.length && part manifest 0xB0 48 = digestBytes (sha384 image) &&
        decide (z.svn ≤ fieldAt manifest 0xA4 1) then some (d, BitVec.ofNat 32 (fieldAt manifest 0xA0 4))
    else none

/-- DEVID, the lifecycle state and the nonce of a token are this module's, now; a nonce holds for 600 s (21 R396). A state that serves no
NONCE asks for none (log 15). -/
def Security.bound (z : Security) (time : Word64) (o : List Byte) (n : Option (BitVec 256 × Nat)) : Bool :=
  wordAt o 0xA0 = z.deviceId && fieldAt o 0xA9 1 = z.lcs && (!z.serves 1 ||
    n.any (fun q => decide (time.toNat < q.2 + 60000000000) && beBytes q.1.toNat 32 = part o 0xB0 32))

/-! ## Commands (21 R395-R397): the new state, the status, the response -/

abbrev Answer := State × Sts × List Byte

def State.setSec (s : State) (z : Security) : State := { s with sec := z }

def cmdNonce (s : State) (_ : List Byte) : Answer :=
  let z := s.sec
  let n := Config.drbg z.draws
  (s.setSec { z with nonce := some (n, s.time.toNat), draws := z.draws + 1 }, .ok, beBytes n.toNat 32)

def cmdFuseread (s : State) (req : List Byte) : Answer :=
  let a := fieldAt req 0 4
  let n := fieldAt req 4 4
  if n = 0 || 64 < a + n then (s, .badlen, [])
  else (s, .ok, (List.range n).flatMap (fun i => leBytes (s.sec.fuseSeen (a + i)).toNat 8))

/-- UNLOCK (21 R397). -/
def cmdUnlock (s : State) (req : List Byte) : Answer :=
  let z := s.sec
  let n := z.nonce
  let z := { z with nonce := none }
  let level := fieldAt req 0xA8 1
  let stop (e : Sts) : Answer := (s.setSec z, e, [])
  match z.verify req 2 with
  | .error e => stop e
  | .ok d =>
    if !z.bound s.time req n then stop .bind
    else if !levelAllowed z.lcs level || level ≤ z.level.toNat then stop .level
    else if !s.jobs.isEmpty then stop .jobs
    else
      let z := (z.wipe s.time level).extend s.time 3 3 (z.eventDigest level d)
      (s.setSec { z with level := BitVec.ofNat 2 level }, .ok, [])

def cmdLogread (s : State) (req : List Byte) : Answer :=
  let a := fieldAt req 0 4
  let n := fieldAt req 4 4
  if n = 0 || 63 < n then (s, .badlen, [])
  else
    let rs := (s.sec.log.drop a).take n
    (s, .ok, (rs.zip (List.range rs.length)).flatMap (fun e => logBytes (a + e.2) e.1))

def cmdMeasread (s : State) (_ : List Byte) : Answer :=
  (s, .ok, (List.range 8).flatMap (fun i => digestBytes (s.sec.reg i)) ++ leBytes s.sec.log.length 4)

def cmdExtend (s : State) (req : List Byte) : Answer :=
  let type := fieldAt req 0 2
  let r := fieldAt req 2 1
  if type < 0x100 || r < 5 || 7 < r || fieldAt req 3 5 ≠ 0 then (s, .format, [])
  else if 960 ≤ s.sec.log.length then (s, .full, [])
  else
    let e : BitVec 384 := BitVec.ofNat 384 (leValue (part req 8 48).reverse)
    (s.setSec (s.sec.extend s.time r type e), .ok, leBytes s.sec.log.length 4)

/-- LCADV (21 R386); the token is bound as UNLOCK's is (log 15). -/
def cmdLcadv (s : State) (req : List Byte) : Answer :=
  let z := s.sec
  let n := z.nonce
  let z := { z with nonce := none }
  let new := fieldAt req 0xA8 1
  let stop (e : Sts) : Answer := (s.setSec z, e, [])
  match z.verify req 4 with
  | .error e => stop e
  | .ok d =>
    if !z.bound s.time req n then stop .bind
    else if z.lcadv || !((z.lcs = 1 && new = 2) || (z.lcs = 2 && new = 3) || new = 4) then stop .state
    else
      let z := (z.wipe s.time new).extend s.time 3 4 (z.eventDigest new d)
      (s.setSec { z with
        lcadv := true, fuses := Map.setD 0 z.fuses 1 (z.fuse 1 ||| BitVec.ofNat 64 (lcfOf new)) }, .ok, [])

/-- The lowest unblown bits of SVNF are blown until k of them are 1. -/
def blowSvn : Nat → Nat → Word64 → Word64
  | 0, _, w => w
  | n + 1, k, w =>
    if k = 0 then w
    else if w.getLsbD (63 - n) then blowSvn n k w
    else blowSvn n (k - 1) (w ||| (1#64 <<< (63 - n)))

def cmdSvnraise (s : State) (req : List Byte) : Answer :=
  let z := s.sec
  match z.verify req 1 with
  | .error e => (s, e, [])
  | .ok _ =>
    if 1016 ≤ z.log.length then (s, .full, [])
    else
      let w := blowSvn 32 (min 32 (fieldAt req 0xA4 1) - z.svn) (z.fuse 1)
      let z := z.extend s.time 2 7 (freeDigest s.freeCtr)
      ({ s.setSec { z with fuses := Map.setD 0 z.fuses 1 w } with freeCtr := s.freeCtr + 6 }, .ok, [])

/-- A command: whether each mailbox may issue it, the request's length, its action. -/
structure Command where
  host : Bool
  exec : Bool
  len  : Option Nat
  act  : State → List Byte → Answer

def commandOf (cmd : Nat) : Option Command :=
  if cmd = 1 then some { host := true, exec := false, len := some 0, act := cmdNonce }
  else if cmd = 2 then some { host := true, exec := true, len := some 8, act := cmdFuseread }
  else if cmd = 3 then some { host := true, exec := false, len := none, act := cmdUnlock }
  else if cmd = 4 then some { host := true, exec := true, len := some 8, act := cmdLogread }
  else if cmd = 5 then some { host := true, exec := true, len := some 0, act := cmdMeasread }
  else if cmd = 6 then some { host := false, exec := true, len := some 56, act := cmdExtend }
  else if cmd = 7 then some { host := true, exec := false, len := none, act := cmdLcadv }
  else if cmd = 8 then some { host := true, exec := false, len := none, act := cmdSvnraise }
  else none

/-- The answer to a command; a command the lifecycle state does not serve gives STATE (log 15). An UNLOCK or LCADV consumes the nonce
whatever its status (21 R396). -/
def State.command (s : State) (host : Bool) (cmd : Nat) (req : List Byte) : Answer :=
  let used : Answer → Answer := fun a => if cmd = 3 || cmd = 7 then (a.1.setSec { a.1.sec with nonce := none }, a.2) else a
  used <| match commandOf cmd with
  | none => (s, .badcmd, [])
  | some c =>
    if !(if host then c.host else c.exec) then (s, .denied, [])
    else if !s.sec.serves cmd then (s, .state, [])
    else if c.len.any (fun n => n ≠ req.length) then (s, .badlen, [])
    else c.act s req

def State.mailbox (s : State) (host : Bool) : Mailbox := if host then s.sec.host else s.sec.exec
def State.setMailbox (s : State) (host : Bool) (m : Mailbox) : State :=
  s.setSec (if host then { s.sec with host := m } else { s.sec with exec := m })

/-- The i-th byte of the buffer as the controller reads it: of one written since GO, the old or the new byte (21 R394). -/
def Mailbox.seen (m : Mailbox) (ctr i : Nat) : Byte :=
  match Map.find m.late i with
  | some b => if (Config.freeWord (ctr + 2 * i)).getLsbD 0 then b else m.buf.get i
  | none => m.buf.get i

/-- The buffer once the response is in it: bytes written since GO stand, but of those that the response covers each may be overwritten. -/
def Mailbox.answered (m : Mailbox) (ctr : Nat) (resp : List Byte) : Memory :=
  m.late.foldl (fun d e =>
    if e.1 < resp.length && (Config.freeWord (ctr + 2 * e.1 + 1)).getLsbD 0 then d else d.set e.1 e.2) (m.buf.setBytes 0 resp)

/-- A GO of a mailbox: ignored before READY and while BUSY is 1; else the mailbox is BUSY until its turn. -/
def State.goMail (s : State) (host : Bool) (cmd len : Nat) : State :=
  let m := s.mailbox host
  if !s.power.ready || m.busy then s
  else
    let s := s.setMailbox host { m with busy := true, late := [], len := BitVec.ofNat 16 len, cmd := BitVec.ofNat 8 cmd }
    s.setSec { s.sec with turn := s.sec.turn ++ [(host, cmd, len)] }

/-- The controller runs: the external debug module has not halted both of its harts. -/
def Security.runs (z : Security) : Bool := z.harts.any (fun h => !h.halted)

/-- THE OLDEST GO IS SERVED: the response is in the buffer, with its length and status. -/
def State.serveTurn (s : State) : State :=
  match s.sec.turn with
  | [] => s
  | (host, cmd, len) :: rest =>
    let m := s.mailbox host
    let r := s.command host cmd ((List.range len).map (m.seen s.freeCtr))
    let t := r.1.setMailbox host { m with
      buf := m.answered s.freeCtr r.2.2, late := [], busy := false, rlen := BitVec.ofNat 32 r.2.2.length, status := r.2.1.code }
    { t.setSec { t.sec with turn := rest } with freeCtr := if m.late.isEmpty then t.freeCtr else t.freeCtr + 2 * 4096 }

/-- A COMMAND IS SERVED: the one that the mailbox has been waiting with, when it is its turn; else the request is written, GO follows, and
the command is served unless another waits before it (21 R384, R394). -/
def State.serve (s : State) (host : Bool) (cmd : Nat) (req : List Byte) : State :=
  let m := s.mailbox host
  let t := if m.busy then s
    else if s.power.ready then (s.setMailbox host { m with buf := m.buf.setBytes 0 req }).goMail host cmd req.length else s
  if t.sec.runs && (t.sec.turn.head?.map (fun q => (q.1, q.2.1))) = some (host, cmd) then t.serveTurn else t

/-! ## Attestation and key slots (21 R389, R392, R399, R400) -/

/-- The body of a report up to its signatures. -/
def Security.reportBody (z : Security) (nonce : List Byte) : List Byte :=
  leBytes 0x4F534B56 4 ++ leBytes 1 2 ++ leBytes 3 1 ++ leBytes 0xFF 1 ++ leBytes 0x260 4 ++ leBytes 0 4 ++
    z.ecPub ++ z.lmsPub ++ leBytes z.deviceId.toNat 8 ++ leBytes z.lcs 1 ++ leBytes z.level.toNat 1 ++
    leBytes 0 2 ++ leBytes z.fwver.toNat 4 ++ nonce ++ leBytes z.log.length 4 ++ leBytes z.svn 4 ++ leBytes 0 8 ++
    (List.range 8).flatMap (fun i => digestBytes (z.reg i))

/-- NEXT: the newer copy that verifies (21 R389). -/
def Security.secondNewer (z : Security) : Bool := z.next1.good && (!z.next0.good || decide (z.next0.seq < z.next1.seq))
def Security.next (z : Security) : Nat := if z.secondNewer then z.next1.value else z.next0.value

/-- NEXT is written into the older copy, with the next sequence number; a write that fails leaves a copy that does not verify. -/
def Security.writeNext (z : Security) (v : Nat) (fails : Bool) : Security :=
  if z.secondNewer then { z with next0 := { seq := z.next1.seq + 1, value := v, good := !fails } }
  else { z with next1 := { seq := z.next0.seq + 1, value := v, good := !fails } }

/-- The next leaf: of the current block, else the first of a block that is reserved first. -/
def Security.takeLeaf (z : Security) (fails : Bool) : Security × Option Nat :=
  if z.leaf < 1024 then ({ z with leaf := z.leaf + 1 }, some (z.next - 1024 + z.leaf))
  else if 2 ^ 20 < z.next + 1024 then (z, none)
  else if fails then (z.writeNext (z.next + 1024) true, none)
  else ({ z.writeNext (z.next + 1024) false with leaf := 1 }, some z.next)

def State.report (s : State) (nonce : List Byte) : State :=
  let z := s.sec
  if z.lcs = 0 || z.lcs = 4 || nonce.length ≠ 32 then { s with reply := [BitVec.setWidth 64 Sts.denied.code], data := [] }
  else
    let s : State := { s with freeCtr := s.freeCtr + 1 }
    match z.takeLeaf (Config.flashFails (s.freeCtr - 1)) with
    | (z', none) => { s.setSec z' with reply := [BitVec.setWidth 64 Sts.exhausted.code], data := [] }
    | (z', some q) =>
      let b := z.reportBody nonce
      let d := sha384 b
      { s.setSec (z'.drawn 3) with
        reply := [0]
        data := b ++ ecdsaSign z.ecKey d z.secret ++ lmsSign z.lmsSeed z.lmsId q (BitVec.setWidth 192 (Config.drbg (z.draws + 2))) (digestBytes d) }

/-- A KEYSET or KEYCLR: refused, or done with an extension of M4; the event's digest is not defined (log 3). -/
def State.keyOp (s : State) (refuse : Bool) (f : Security → Security) : State :=
  let z := s.sec
  if refuse || !z.session then { s with reply := [BitVec.setWidth 64 Sts.denied.code] }
  else if 1000 ≤ z.log.length then { s with reply := [BitVec.setWidth 64 Sts.full.code] }
  else { s.setSec ((f z).extend s.time 4 6 (freeDigest s.freeCtr)) with freeCtr := s.freeCtr + 6, reply := [0] }

/-! ## The SPDM responder (21 R399; the messages are those of DSP0274 1.3, log 15) -/

def spdmVersion : Byte := 0x13

/-- A message: version, code, two parameters, the rest. -/
def spdmMsg (code p1 p2 : Byte) (rest : List Byte) : List Byte := [spdmVersion, code, p1, p2] ++ rest
def spdmError (why : Byte) : List Byte := spdmMsg 0x7F why 0 []

/-- The chain as GET_CERTIFICATE returns it: its length, the root's digest, the certificates. -/
def Security.certChain (z : Security) : List Byte :=
  leBytes (52 + z.certs.length) 2 ++ leBytes 0 2 ++ digestBytes (sha384 z.root) ++ z.certs
def Security.certDigest (z : Security) : List Byte := digestBytes (sha384 z.certChain)

/-- A signature by the DevID key over a transcript, in its context. -/
def Security.spdmSign (z : Security) (context : String) (d : List Byte) : List Byte :=
  let c := ascii context
  let pre := (List.replicate 4 (ascii "dmtf-spdm-v1.3.*")).flatten ++ List.replicate (36 - c.length) 0 ++ c
  ecdsaSign z.ecKey (sha384 (pre ++ digestBytes (sha384 d))) z.secret

/-- The measurement block of index i + 1: Mi as a digest. -/
def Security.measBlock (z : Security) (i : Nat) : List Byte :=
  leBytes (i + 1) 1 ++ [1] ++ leBytes 51 2 ++ [0] ++ leBytes 48 2 ++ digestBytes (z.reg i)

/-- The summary that a requester asks for, of every measurement. -/
def Security.summary (z : Security) (kind : Byte) : List Byte :=
  if kind = 0 then [] else digestBytes (sha384 ((List.range 8).flatMap z.measBlock))

/-- CERT, CHAL, MEAS with signature, ENCRYPT, MAC, KEY_EX. -/
def spdmCaps : Nat := 0x2 + 0x4 + 0x10 + 0x40 + 0x80 + 0x200

/-- The selected algorithms: SHA-384, ECDSA P-384, secp384r1, AES-256-GCM. -/
def spdmAlgorithms : List Byte :=
  spdmMsg 0x63 4 0 (leBytes 52 2 ++ [1, 2] ++ leBytes 4 4 ++ leBytes 0x80 4 ++ leBytes 2 4 ++ leBytes 0 12 ++ [0, 0, 0, 0] ++
    [2, 0x20, 0x10, 0, 3, 0x20, 2, 0, 4, 0x20, 0, 0, 5, 0x20, 1, 0])

def spdmConcat (label : String) (context : List Byte) : List Byte := leBytes 48 2 ++ ascii "spdm1.3 " ++ ascii label ++ context

/-- The finished keys of the requester and of the responder, from the shared secret and the transcript's digest. -/
def finishedKey (share th : List Byte) (label : String) : List Byte :=
  let secret := hmac384 (List.replicate 48 0) share
  hkdfExpand (hkdfExpand secret (spdmConcat label th) 48) (spdmConcat "finished" []) 48

/-- CHALLENGE_AUTH up to its signature. -/
def Security.challengeAuth (z : Security) (p2 : Byte) (ctx : List Byte) : List Byte :=
  spdmMsg 0x03 0 1 (z.certDigest ++ beBytes (Config.drbg (z.draws + 2)).toNat 32 ++ z.summary p2 ++ leBytes 0 2 ++ ctx)

/-- MEASUREMENTS up to its signature: the number of blocks, one of them, or all. -/
def Security.measurements (z : Security) (index : Byte) (ctx : List Byte) : List Byte :=
  let bs := if index = 0xFF then (List.range 8).map z.measBlock else if index = 0 then [] else [z.measBlock (index.toNat - 1)]
  let r := bs.flatten
  spdmMsg 0x60 (if index = 0 then 8 else 0) 0
    (leBytes bs.length 1 ++ leBytes r.length 3 ++ r ++ beBytes (Config.drbg (z.draws + 2)).toNat 32 ++ leBytes 0 2 ++ ctx)

/-- KEY_EXCHANGE: the response, and the connection that FINISH has to complete; none where the requester's point is none of the curve. -/
def Security.keyExchange (z : Security) (msg : List Byte) : Option (Security × List Byte) :=
  let d := (Config.drbg (z.draws + 3)).toNat * 2 ^ 256 + (Config.drbg (z.draws + 4)).toNat
  let d := d % (p384Order - 1) + 1
  match ecdhShare d (part msg 40 96) with
  | none => none
  | some share =>
    let id : BitVec 32 := BitVec.ofNat 32 (fieldAt msg 4 2 + (z.draws % 65535 + 1) * 2 ^ 16)
    let head := spdmMsg 0x64 0 0 (leBytes (id.toNat / 2 ^ 16) 2 ++ [0, 0] ++ beBytes (Config.drbg (z.draws + 2)).toNat 32 ++
      ecdsaPub (BitVec.ofNat 384 d) ++ z.summary (msg.getD 2 0) ++ leBytes 0 2)
    let t := z.spdm.vca ++ z.certDigest ++ msg ++ head
    let t := t ++ z.spdmSign "responder-key_exchange_rsp signing" t
    let th := digestBytes (sha384 t)
    let verify := hmac384 (finishedKey share th "rsp hs data") th
    some ({ z.drawn 5 with
      spdm := { z.spdm with kex := t ++ verify, fin := finishedKey share th "req hs data", id := id } },
      t.drop (z.spdm.vca.length + 48 + msg.length) ++ verify)

/-- AN SPDM REQUEST, its code and what follows it: the controller after it, and the response. -/
def Security.spdmServe (z : Security) (code : Byte) (arg : List Byte) : Security × List Byte :=
  let q := z.spdm
  let p1 := arg.getD 0 0
  let p2 := arg.getD 1 0
  let msg := (if code = 0x84 then 0x10 else spdmVersion) :: code :: arg
  if code = 0x84 then
    let r : List Byte := [0x10, 0x04, 0, 0, 0, 1] ++ leBytes 0x1300 2
    ({ z with spdm := { stage := 1, vca := msg ++ r }, session := false }, r)
  else if code = 0xE1 then
    if q.stage ≠ 1 then (z, spdmError 4)
    else
      let r := spdmMsg 0x61 0 0 (leBytes 0 4 ++ leBytes spdmCaps 4 ++ leBytes 4096 4 ++ leBytes 4096 4)
      ({ z with spdm := { q with stage := 2, vca := q.vca ++ msg ++ r } }, r)
  else if code = 0xE3 then
    if q.stage ≠ 2 then (z, spdmError 4)
    else ({ z with spdm := { q with stage := 3, vca := q.vca ++ msg ++ spdmAlgorithms } }, spdmAlgorithms)
  else if q.stage ≠ 3 then (z, spdmError 4)
  else if code = 0x81 then
    let r := spdmMsg 0x01 0 1 z.certDigest
    ({ z with spdm := { q with cert := q.cert ++ msg ++ r } }, r)
  else if code = 0x82 then
    if p1 ≠ 0 then (z, spdmError 1)
    else
      let d := z.certChain.drop (fieldAt arg 2 2)
      let n := min (fieldAt arg 4 2) d.length
      let r := spdmMsg 0x02 0 0 (leBytes n 2 ++ leBytes (d.length - n) 2 ++ d.take n)
      ({ z with spdm := { q with cert := q.cert ++ msg ++ r } }, r)
  else if code = 0x83 then
    if p1 ≠ 0 then (z, spdmError 1)
    else
      let r := z.challengeAuth p2 (part arg 34 8)
      ({ z.drawn 3 with spdm := { q with cert := [] } }, r ++ z.spdmSign "responder-challenge_auth signing" (q.vca ++ q.cert ++ msg ++ r))
  else if code = 0xE0 then
    if 8 < p2.toNat && p2 ≠ 0xFF then (z, spdmError 1)
    else
      let r := z.measurements p2 (part arg (if p1.getLsbD 0 then 35 else 2) 8)
      let l := q.meas ++ msg ++ r
      if p1.getLsbD 0 then ({ z.drawn 3 with spdm := { q with meas := [] } }, r ++ z.spdmSign "responder-measurements signing" (q.vca ++ l))
      else ({ z.drawn 3 with spdm := { q with meas := l } }, r)
  else if code = 0xE4 then
    if p2 ≠ 0 then (z, spdmError 1)
    else (z.keyExchange msg).getD (z, spdmError 1)
  else if code = 0xE5 then
    if q.fin.isEmpty then (z, spdmError 4)
    else if (arg.drop 2).take 48 ≠ hmac384 q.fin (digestBytes (sha384 (q.kex ++ msg.take 4))) then (z, spdmError 6)
    else ({ z with session := true, spdm := { q with fin := [] } }, spdmMsg 0x65 0 0 [])
  else if code = 0xEC then
    if !z.session then (z, spdmError 4) else ({ z with session := false, spdm := { q with kex := [] } }, spdmMsg 0x6C 0 0 [])
  else (z, spdmError 7)

/-- A lifecycle state that serves nothing over SPDM gives no response (21 Table 21.2). -/
def State.spdm (s : State) (code : Byte) (arg : List Byte) : State :=
  let z := s.sec
  if z.lcs = 0 || z.lcs = 4 then s
  else
    let r := z.spdmServe code arg
    { s.setSec r.1 with data := r.2 }

/-- R396: The controller draws a 32-byte nonce from its DRBG and makes it the single outstanding nonce. -/
def execNonce (host : Bool) (req : List (BitVec 8)) (s : State) : Result :=
  .next (s.serve host 1 req)

/-- R385: The controller returns the requested fuse words, with UDS reading as zero. -/
def execFuseread (host : Bool) (req : List (BitVec 8)) (s : State) : Result :=
  .next (s.serve host 2 req)

/-- R397: The controller verifies a debug token bound to the nonce, wipes the key slots, extends M4 and M3, and raises the open debug level. -/
def execUnlock (host : Bool) (req : List (BitVec 8)) (s : State) : Result :=
  .next (s.serve host 3 req)

/-- R391: The controller returns the event log records that are present. -/
def execLogread (host : Bool) (req : List (BitVec 8)) (s : State) : Result :=
  .next (s.serve host 4 req)

/-- R390: The controller returns M0–M7 and the next log SEQ. -/
def execMeasread (host : Bool) (req : List (BitVec 8)) (s : State) : Result :=
  .next (s.serve host 5 req)

/-- R390: A request from the executive mailbox extends M5–M7 with a software event and appends a log record. -/
def execExtend (host : Bool) (req : List (BitVec 8)) (s : State) : Result :=
  .next (s.serve host 6 req)

/-- R386: The controller verifies a lifecycle token, wipes the key slots, extends M3 and blows the new LCF pattern. -/
def execLcadv (host : Bool) (req : List (BitVec 8)) (s : State) : Result :=
  .next (s.serve host 7 req)

/-- R388: The controller verifies a manifest and blows SVNF up to its SVN, extending M2. -/
def execSvnraise (host : Bool) (req : List (BitVec 8)) (s : State) : Result :=
  .next (s.serve host 8 req)

/-- R395: An unlisted CMD gives BADCMD. -/
def execMailboxBadCommand (host : Bool) (cmd : BitVec 8) (s : State) : Result :=
  if 1 ≤ cmd.toNat && cmd.toNat ≤ 8 then .next s else .next (s.serve host cmd.toNat [])

/-- R396: The outstanding nonce is discarded 600 seconds after it was issued. -/
def execNonceExpire (s : State) : Result :=
  match s.sec.nonce with
  | none => .next s
  | some (_, t) => .next { s.setSec { s.sec with nonce := none } with cycle := max s.cycle ((t + 60000000000) * 6) }

/-- R399: The SPDM responder serves certificate, challenge, measurement and key-exchange requests over DOE. -/
def execSpdmMessage (code : BitVec 8) (arg : List (BitVec 8)) (s : State) : Result :=
  .next (s.spdm code arg)

/-- R400: A vendor-defined REPORT request returns a dual-signed TYPE 3 report that uses the next LMS leaf. -/
def execReport (req : List (BitVec 8)) (s : State) : Result :=
  .next (s.report req)

/-- R392: Inside a secured session, KEYSET fills an empty key slot and extends M4. -/
def execKeyset (slot : BitVec 8) (hbm mig : BitVec 256) (s : State) : Result :=
  .next (s.keyOp (64 ≤ slot.toNat || (Map.find s.sec.keys slot.toNat).isSome || s.sec.lcs = 0 || 3 ≤ s.sec.lcs)
    (fun z => { z with keys := Map.put z.keys slot.toNat (hbm, mig) }))

/-- R392: Inside a secured session, KEYCLR empties a key slot that no registered job names and extends M4. -/
def execKeyclr (slot : BitVec 8) (s : State) : Result :=
  .next (s.keyOp (64 ≤ slot.toNat || s.jobs.any (fun e => e.2.keyslot = slot.toNat) || s.sec.lcs = 0 || s.sec.lcs = 4)
    (fun z => { z with keys := Map.del z.keys slot.toNat }))

end Sys2Proof.Machine
end

