-- ==== Sys2Proof/Machine/Package.lean ====
section
/-! DEFINITION. The package: host and peer accesses, the write gate, self-tests, power and bring-up (10 R189, R202, 18 R350, R351, 22 R405-R411). -/

namespace Sys2Proof.Machine

/-! ## Host memory windows and peers (10 R189, 22 R406, R408) -/

/-- The record of a write from outside, through an IO die, that is dropped (18 R355). -/
def State.dropRecord (s : State) (iod a why : Nat) : State :=
  s.logRecord (8 + iod) (errRecord s.time (BitVec.ofNat 64 a) 0 3 why 0 noCoord 7 0)

/-- A write to HBM from outside, by the host through HDM0 or by a peer: bytes outside it are dropped, and the drop is logged. -/
def State.hdm0Write (s : State) (iod a : Nat) (d : List Byte) : State :=
  let s := s.physWrite a d
  if outside a d.length then s.dropRecord iod a 0 else s

/-- Weight bytes of HDM1, keyed as the weight store is. -/
def hdm1Byte (off : Nat) : Nat := off % 2 ^ 35

/-- Some byte of a weight range is in a refresh window: the access waits. -/
def State.weightBusy (s : State) (a n : Nat) : Bool := (List.range n).any (fun i => s.refreshing (hdm1Byte (a + i)))

/-- The write gates of every die a weight range touches are open. -/
def State.gatesOpen (s : State) (a n : Nat) : Bool := (List.range n).all (fun i => (s.die (hdm1Byte (a + i) / 2 ^ 32)).wsOpen)

def State.hdm1Write (s : State) (port : BitVec 1) (a : Nat) (d : List Byte) : State :=
  if !s.gatesOpen a d.length then
    let s := s.logRecord (8 + port.toNat) (errRecord s.time (BitVec.ofNat 64 a) 0 4 3 0 noCoord 7 32)
    { s with cxlFrozen := s.cxlFrozen ||| (1#2 <<< port.toNat) }
  else
    { s with weight := (d.zip (List.range d.length)).foldl (fun m q => m.set (hdm1Byte (a + q.2)) q.1) s.weight }

def State.portFrozen (s : State) (port : BitVec 1) : Bool := s.cxlFrozen.getLsbD port.toNat

/-! ## The write gate (10 Table 10.5) -/

/-- IDLE: no group, recruit or reservation is on the die. -/
def State.dieIdle (s : State) (die : Nat) : Bool :=
  s.cores.all (fun e => dieOf e.1 ≠ die ||
    (e.2.reserved.isNone && [0, 1, 2, 3].all (fun sl => (e.2.slot sl).group.isNone))) &&
  s.units.all (fun e => dieOf (e.2.cores.headD 0) ≠ die)

/-- THE EXECUTIVE GIVES A JOB A REGION on a die, in refresh groups from a base: inside the store, of no group that a failed test excludes,
apart from the regions of other jobs; one of no group takes the region away (10 R200, 18 Table 18.3). -/
def State.giveRegion (s : State) (die : Nat) (job : BitVec 16) (base n : Nat) : State :=
  let free := (List.range n).all (fun i => !(s.die die).badGroups.getLsbD (base + i) &&
    s.regions.all (fun e => e.1 % 8 ≠ die || e.1 = job.toNat * 8 + die ||
      decide (2 ^ 26 * (base + i) + 2 ^ 26 ≤ e.2.1) || decide (e.2.1 + e.2.2 ≤ 2 ^ 26 * (base + i))))
  if (Map.find s.jobs job.toNat).isNone || 64 < base + n || !free then s
  else if n = 0 then { s with regions := Map.del s.regions (job.toNat * 8 + die) }
  else { s with regions := Map.put s.regions (job.toNat * 8 + die) (2 ^ 26 * base, 2 ^ 26 * n) }

/-! ## Self-tests (18 Table 18.3) -/

/-- The core holds no group, recruit or reservation. -/
def State.coreHoldsNothing (s : State) (c : Nat) : Bool :=
  let k := s.core c
  (s.unitsOn c).isEmpty && k.reserved.isNone && [0, 1, 2, 3].all (fun sl => (k.slot sl).group.isNone)

/-- A deferred test that can run now: it is recorded, and the part is fenced where it failed. -/
def State.deferredTest (s : State) (die kind part : Nat) (pass : Bool) : State :=
  let d := s.die die
  let c := partCore kind part
  let s := s.setDie die { d with testDue := d.testDue.filter (fun q => q ≠ (kind, part)) }
  let s := if kind = 3 then s else
    let more := (s.die die).testDue.any (fun q => q.1 ≠ 3 && partCore q.1 q.2 = c)
    s.setCore c { s.core c with testDue := more }
  let s := s.logRecord die (errRecord s.time (BitVec.ofNat 64 part) 0 6 kind (if pass then 1 else 2)
    (if kind = 3 then noCoord else coordOf c) 7 0)
  let s := s.tested die kind part pass
  if pass then s else s.fencePart die kind part

/-! ## Power (22 R409, R410) -/

/-- CAP as the manager takes it. -/
def Power.limit (p : Power) : Nat :=
  let cap := if p.cap.toNat < 1000 then 1000 else if 4400 < p.cap.toNat then 4400 else p.cap.toNat
  if p.hot then cap / 2 else cap

def Power.tick (p : Power) (power : BitVec 16) : Power :=
  let p := { p with power := power }
  if p.limit < power.toNat then { p with gate := if p.gate = 63 then 63 else p.gate + 1 }
  else if power.toNat + 100 ≤ p.limit then { p with gate := if p.gate = 0 then 0 else p.gate - 1 }
  else p

def Power.thermal (p : Power) (temp : BitVec 16) : Power :=
  let p := { p with temp := temp }
  if 100 ≤ temp.toNat then { p with hot := true, therm := true }
  else if temp.toNat < 95 then { p with hot := false } else p

/-- MAIN POWER IS GONE: only fuses and protected flash keep their contents, and the ROM is what it is; the host's and the peers' memory is
theirs, and what the schedule still holds comes later. -/
def State.powerOff (s : State) : State :=
  let z := s.sec
  { State.reset with
    freeCtr := s.freeCtr, hostMem := s.hostMem, peerMem := s.peerMem, agenda := s.agenda, late := s.late
    sec := { State.reset.sec with
      fuses := z.fuses, lcf := BitVec.setWidth 8 (z.fuse 1), next0 := z.next0, next1 := z.next1, draws := z.draws, rom := z.rom
      root := z.root, chain := z.chain, devid := z.devid }
    power := { off := true } }

/-! ## Bring-up (22 R411) -/

/-- The firmware that a step of bring-up verifies: the controller's own in step 1; the device's in step 2, but not in SCRAP, where it is not
started (21 R386, R388). -/
def Security.bootTarget (z : Security) (n : Nat) : Option Nat :=
  if n = 1 then some 0 else if n = 2 && z.lcs ≠ 4 then some 1 else none

/-- The controller as its ROM starts it: LCF is read, the keys are derived, and nothing is measured yet (21 R386, R387, R390). -/
def Security.start (z : Security) : Security :=
  { z.derive with lcf := BitVec.setWidth 8 (z.fuse 1), m := [], log := [], nonce := none, level := 0, lcadv := false, session := false, spdm := {} }

/-- The parts that fail the tests of a step are fenced: links in step 3, the parts of the compute dies in step 5 (18 R351). -/
def State.bootTests (s : State) (n : Nat) (bad : List (Nat × Nat × Nat)) : State :=
  (bad.filter (fun q => if n = 3 then q.2.1 = 10 || q.2.1 = 11 else n = 5 && decide (1 ≤ q.2.1) && decide (q.2.1 ≤ 9))).foldl
    (fun s q => s.fencePart q.1 q.2.1 q.2.2) s

/-- What a step of bring-up does once the firmware it verifies has been accepted, with the digest of its manifest and its FWVER. The
digest of the fuse state is not defined by the spec (log 3). Step 4 reserves the frame state, no frame of which is tracked or dirty; step 6
starts the executive, which is device firmware. -/
def State.bringStep (s : State) (n : Nat) (fw : Option (BitVec 384 × Word32)) (bad : List (Nat × Nat × Nat)) : State :=
  let z := s.sec
  if n = 1 then s.setSec (z.start.extend s.time 0 1 ((fw.map Prod.fst).getD 0))
  else if n = 2 then
    let z := match fw with
      | some (d, v) => { z.extend s.time 1 1 d with fwver := v }
      | none => z
    { s.setSec (z.extend s.time 2 2 (freeDigest s.freeCtr)) with freeCtr := s.freeCtr + 6 }
  else if n = 4 then { s with tracked := [], dirty := [], discarded := [] }
  else if n = 6 then { s with power := { s.power with exec := z.lcs ≠ 4 } }
  else if n = 7 then { s with power := { s.power with ready := true } }
  else s.bootTests n bad

/-- THE NEXT STEP OF BRING-UP completes; or it fails, of itself or because the firmware that it verifies is not accepted, stops bring-up, and
the controller records it. In SCRAP the controller comes up without device firmware and serves FUSEREAD (21 R386, log 15). -/
def State.bringUp (s : State) (ok : Bool) (manifest image : List Byte) (bad : List (Nat × Nat × Nat)) : State :=
  let p := s.power
  let n := p.bstep.toNat + 1
  let fw := (s.sec.bootTarget n).map (fun t => s.sec.acceptFirmware t manifest image)
  if p.ready || p.failed then s
  else if !ok || fw = some none then
    { s with power := { p with failed := true, off := false, faults := p.faults ++ [BitVec.ofNat 8 n] } }
  else { s with power := { p with bstep := p.bstep + 1, off := false } }.bringStep n fw.join bad

/-! ## The peer table (22 Table 22.4) -/

def State.peerWrite (s : State) (idx : BitVec 4) (part : BitVec 2) (v : Word64) : State :=
  let e := Map.getD 0#256 s.peers idx.toNat
  let e' : BitVec 256 :=
    if part = 0 then e.extractLsb' 64 192 ++ v
    else if part = 1 then e.extractLsb' 128 128 ++ v ++ e.extractLsb' 0 64
    else if part = 2 then
      e.extractLsb' 130 126 ++ (if v.getLsbD 1 then 0#1 else e.extractLsb' 129 1) ++ v.extractLsb' 0 1 ++ e.extractLsb' 0 128
    else e
  { s with peers := Map.setD 0#256 s.peers idx.toNat e' }

/-- R189: An access from another device arrives over Ultra Ethernet and is performed in this device's HBM, setting dirty bits for writes.
Of a flow that is closed or frozen the packets are discarded, and a dropped write is logged. A read that fails returns zeros flagged as
failed: `n` is the number of bytes and, where an error is met, whether the test of the line passes; `reply` is 1 for a failed read (18 R350,
R355). -/
def execPeerAccess (peer : BitVec 4) (addr : BitVec 64) (write : Bool) (n : Nat × Option Bool) (data : List (BitVec 8)) (s : State) : Result :=
  let a := addr.toNat
  if s.power.off then .next s
  else if !s.peerOpen peer then .next (if write then s.dropRecord 0 a 11 else s)
  else
    match n.2 with
    | none => .next (if write then s.hdm0Write 0 a data else { s with data := s.physRead a n.1, reply := [0] })
    | some pass =>
      let kind := if write then 3 else 2
      let t := if write then s else s.zeroLine a
      let t := t.countError (errDie 1 a) 1 (errPart 1 a) addr kind write pass none
      .next (if write then t else { t with data := List.replicate n.1 0, reply := [1] })

/-- R406: A host CXL.mem write to HDM0 or to the weight window is performed, dropped, or, in the weight window while the gate is closed,
freezes the host function; a dropped write is logged (18 R355). -/
def execHostMemWrite (port : BitVec 1) (hdm1 : Bool) (off : BitVec 64) (data : List (BitVec 8)) (s : State) : Result :=
  if s.power.off then .next s
  else if s.portFrozen port then .next (s.dropRecord port.toNat off.toNat (if hdm1 then 3 else 1))
  else if !hdm1 then .next (s.hdm0Write port.toNat off.toNat data)
  else if s.gatesOpen off.toNat data.length && s.weightBusy off.toNat data.length then .next s
  else .next (s.hdm1Write port off.toNat data)

/-- R406: A host CXL.mem read of HDM0 or of the weight window returns the memory contents, or zero outside the HBM. -/
def execHostMemRead (port : BitVec 1) (hdm1 : Bool) (off : BitVec 64) (n : Nat) (s : State) : Result :=
  if s.power.off then .next s
  else if s.portFrozen port then .next { s with data := List.replicate n 0 }
  else if !hdm1 then .next { s with data := s.physRead off.toNat n }
  else if s.weightBusy off.toNat n then .next s
  else .next { s with data := (List.range n).map (fun i => s.weight.get (hdm1Byte (off.toNat + i))) }

/-- R351: A deferred self-test runs when the core next holds nothing or when the write gate next opens, and fences the part on a fail. -/
def execDeferredSelfTest (die : BitVec 3) (kind : BitVec 8) (part : Nat) (pass : Bool) (s : State) : Result :=
  let k := kind.toNat
  let due := (s.die die.toNat).testDue.contains (k, part)
  let now := if k = 3 then (s.die die.toNat).wsOpen else s.coreHoldsNothing (partCore k part)
  if due && now then .next (s.deferredTest die.toNat k part pass) else .next s

/-- R202: A write to wsgate opens or closes the die's weight-store write gate; opening is ignored unless IDLE is 1. Or the executive loads the
core protection units of the die with a job's region: its base and its size, in refresh groups (R200). -/
def execWsgateWrite (die : BitVec 3) (v : BitVec 64 ⊕ (BitVec 16 × Nat × Nat)) (s : State) : Result :=
  let d := s.die die.toNat
  match v with
  | .inl v =>
    if v.getLsbD 0 && !s.dieIdle die.toNat then .next s
    else .next (s.setDie die.toNat { d with wsOpen := v.getLsbD 0 })
  | .inr (job, base, n) => .next (s.giveRegion die.toNat job base n)

/-- R409: Every 10 µs the power manager compares POWER with CAP and raises or lowers GATE by 1. -/
def execPowerManagerTick (power : BitVec 16) (s : State) : Result :=
  if s.power.off then .next s else .next { s with power := s.power.tick power }

/-- R410: TEMP reaches 100 °C; the cap is halved until TEMP falls below 95 °C, and THERM is set; at 110 °C the module removes its own power. -/
def execThermalLimit (temp : BitVec 16) (s : State) : Result :=
  if s.power.off then .next s
  else if 110 ≤ temp.toNat then .next s.powerOff
  else .next { s with power := s.power.thermal temp }

/-- R410: At 110 °C the module removes its own power without saving state. -/
def execThermalShutdown (temp : BitVec 16) (s : State) : Result :=
  if 110 ≤ temp.toNat then .next s.powerOff else .next s

/-- R411: At power-up the controller, links, HBM and dies come up in seven steps, ending with READY set. The operand is what the step meets:
whether it succeeds, the manifest and the image of the firmware, and the parts that fail their tests: die, STRUCT, part. -/
def execBringUp (ok : Bool × List (BitVec 8) × List (BitVec 8) × List (Nat × Nat × Nat)) (s : State) : Result :=
  .next (s.bringUp ok.1 ok.2.1 ok.2.2.1 ok.2.2.2)

/-- R354: A host function-level reset releases a frozen host CXL function. -/
def execFunctionLevelReset (port : BitVec 1) (s : State) : Result :=
  .next { s with cxlFrozen := s.cxlFrozen &&& ~~~(1#2 <<< port.toNat) }

/-- R408: A write to a peer table entry reopens a frozen flow when FROZ is written 1, or closes it when V is written 0. -/
def execPeerTableWrite (idx : BitVec 4) (part : BitVec 2) (v : BitVec 64) (s : State) : Result :=
  .next (s.peerWrite idx part v)

/-- R350: An error is found in storage, by a patrol of idle memory, counted against no unit, or by the access that an agent makes of it,
which then gets zero bytes (R349); it is logged and self-tested. A clean copy, STRUCT 0 or a hart cache line that is not newer than the
L2, is fetched again, and nothing is lost. `at_` is the STRUCT of 18 Table 18.3, the place as `errPart` reads it, the access that finds
it: core, slot, unit; and, of an error of the HBM, of an L2 line, of a link or of a port that the next data access or the next fetch of the
hart of that slot meets, whether it is a fetch (log 16). -/
def execIdleMemoryPatrol (at_ : BitVec 8 × Nat × Option (Nat × Nat × Nat) × Option Bool) (corrected pass : Bool) (s : State) : Result :=
  let (struct, at_, who, met) := at_
  let k := struct.toNat
  let shared := k = 1 ∨ k = 2 ∨ k = 10 ∨ k = 11
  if 11 < k || ((k = 1 || k = 2) && !inHbm at_) then .next s
  else if k = 0 then .next (s.zeroUnit 0 at_)
  else
    match met, who with
    | some fetch, some (c, sl, _) =>
      if shared && !corrected then .next { s with flaw := some { core := c, slot := sl, struct := k, pass := pass, fetch := fetch } }
      else .next s
    | _, _ =>
      let addr := BitVec.ofNat 64 (if k = 1 ∨ k = 2 ∨ k = 3 ∨ k = 4 then at_ else errPart k at_)
      let kind := if corrected || (k = 7 && !s.hartLineDirty at_) then 1 else if k = 10 ∨ k = 11 then 5 else 2
      let t := if corrected then s else s.zeroUnit k at_
      .next (t.countError (errDie k at_) k (errPart k at_) addr kind false pass who)

/-- R410: Main power is removed from outside and everything stops, with only fuses and protected flash keeping their contents. -/
def execMainPowerLoss (s : State) : Result :=
  .next s.powerOff

end Sys2Proof.Machine
end

