-- ==== Sys2Proof/Machine/Registers.lean ====
section
/-! DEFINITION. The control spaces of the dies: every register by die and offset, and who may write it (22 R404, R405). -/

namespace Sys2Proof.Machine

/-- The state an event leaves. -/
def after (r : Result) (s : State) : State := match r with
  | .next t => t
  | _ => s

def w64 (n : Nat) : Word64 := BitVec.ofNat 64 n
def bitAt (b : Bool) (i : Nat) : Nat := if b then 2 ^ i else 0
/-- The masks of fields [51:6], [51:12] with [3:0], and [51:3]. -/
def areaMask : Word64 := 0x000FFFFFFFFFFFC0
def ringMask : Word64 := 0x000FFFFFFFFFF00F
def dwordMask : Word64 := 0x000FFFFFFFFFFFF8

/-! ## Reads (22 R404, R405) -/

/-- The hart template, by dword (16 Table 16.4). -/
def Die.template (d : Die) (i : Nat) : Word64 :=
  if i = 0 then d.tStvec else if i = 1 then d.tSsbase else if i = 2 then d.tSie else if i = 3 then d.tStcmp
  else if i = 4 then d.tScen.setWidth 64 else if i = 5 then d.tSenv else 0

/-- 19 Table 19.1. -/
def Core.profile (k : Core) (i : Nat) : Word64 :=
  if i = 0 then k.failSteal ++ k.tasks else if i = 1 then k.dropped.setWidth 64 else if i = 2 then k.qwait
  else if i = 3 then k.search else if i = 4 then k.runTicks else 0

/-- 19 Table 19.7, `dbgstat`. -/
def State.dbgStat (s : State) (d : Die) : Word64 :=
  match s.unitAt d.dbgJob d.dbgCoord with
  | none => w64 (d.dsteps.toNat * 2 ^ 32 + bitAt (!d.stepping.isEmpty) 1)
  | some u => w64 (d.dsteps.toNat * 2 ^ 32 + bitAt (!s.handlersStopped u) 2 + bitAt (!d.stepping.isEmpty) 1 + bitAt (s.unitHalted u) 0)

/-- A register of a die's ports, by block (offset / 4096) and dword. -/
def State.portRead (s : State) (die blk i : Nat) : Word64 :=
  let d := s.die die
  if blk = 0xB then
    if i = 0 then d.elbase else if i = 1 then d.elprod.setWidth 64 else if i = 2 then d.elcons.setWidth 64
    else if i = 3 then d.elcorr ++ d.elovf else 0
  else if 8 ≤ die then 0
  else if blk = 4 then (if i = 0 then d.icinv else 0)
  else if blk = 5 then
    if i = 0 then d.dsva else if i = 1 then d.dscnt else if i = 2 then d.dsout
    else if i = 3 then w64 (d.dsres.toNat * 2 ^ 14 + bitAt d.dsbusy 13) else 0
  else if blk = 6 then (if i = 0 then w64 (bitAt (s.dieIdle die) 1 + bitAt d.wsOpen 0) else 0)
  else if blk = 7 then (if i = 0 then w64 (bitAt d.bwEn 32 + d.bwLimit.toNat) else 0)
  else if blk = 8 then
    if i = 0 then w64 (d.plen.toNat * 2 ^ 32 + d.pres.toNat * 2 ^ 14 + bitAt d.pbusy 13 + d.pop.toNat * 2 ^ 8)
    else if i = 1 then d.parea else if i = 2 then d.psize else if i = 3 then d.punit else 0
  else if blk = 0xA then d.template i
  else if blk = 0xC then
    if i = 0 then d.trbase else if i = 1 then d.trprod.setWidth 64 else if i = 2 then d.trcons.setWidth 64
    else if i = 3 then d.trdrop.setWidth 64 else 0
  else if blk = 0xD then
    if i = 0 then d.dunit else if i = 1 then w64 (d.dres.toNat * 2 ^ 14 + bitAt d.dforce 11 + d.dop.toNat * 2 ^ 8 + d.dbar.toNat)
    else if i = 2 then s.dbgStat d else 0
  else 0

/-- A queue register (03 Table 3.1). -/
def Queue.read (q : Queue) (i : Nat) : Word64 :=
  if i = 0 then q.base else if i = 1 then q.logn.setWidth 64 else if i = 2 then q.prod.setWidth 64 else if i = 3 then q.cons.setWidth 64
  else if i = 4 then w64 (bitAt q.ctl 32 + q.qjob.toNat * 2 ^ 16 + bitAt q.en 3 + q.qprio.toNat)
  else if i = 5 then w64 (q.badent.toNat * 2 ^ 32 + bitAt q.qerr 1 + bitAt (q.cons = q.prod && q.live.isEmpty) 0)
  else 0

/-- A register of the migration engine (20 Table 20.1). -/
def Migration.read (m : Migration) (i : Nat) : Word64 :=
  if i = 0 then m.desc
  else if i = 1 then w64 (m.res.toNat * 2 ^ 13 + bitAt m.force 11 + m.op.toNat * 2 ^ 8 + m.phase.toNat)
  else if i = 2 then w64 (m.round.toNat * 2 ^ 48 + m.pages.toNat)
  else if i = 3 then m.recs ++ m.stale else 0

/-- The buffer as a reader sees it: what has been written since GO stands in it. -/
def Mailbox.shown (m : Mailbox) : Memory := m.late.foldl (fun d e => d.set e.1 e.2) m.buf

/-- A dword of a mailbox, by offset (21 Table 21.7). -/
def Mailbox.read (m : Mailbox) (o : Nat) : Word64 :=
  if o < 0x1000 then m.shown.word64 o
  else if o = 0x1000 then w64 (m.len.toNat * 2 ^ 16 + m.cmd.toNat)
  else if o = 0x1008 then w64 (m.rlen.toNat * 2 ^ 32 + bitAt m.busy 15 + m.status.toNat) else 0

def Power.read (p : Power) : Word64 := p.temp ++ p.power ++ (0#10 ++ p.gate) ++ p.cap

/-- READING A DWORD of a die's control space; an offset without a register reads 0. -/
def State.ctlRead (s : State) (die off : Nat) : Word64 :=
  if die < 8 then
    if off < 0x4000 then ((Map.getD 0#128 (s.die die).fwd (off / 16)) >>> (64 * (off / 8 % 2))).setWidth 64
    else if 0x10000 ≤ off && off < 0x18000 then Map.getD 0 (s.die die).domains ((off - 0x10000) / 8)
    else if 0x20000 ≤ off && off < 0x160000 then (s.core (die * 20480 + (off - 0x20000) / 64)).profile (off / 8 % 8)
    else s.portRead die (off / 4096) (off % 4096 / 8)
  else if 0x10000 ≤ off && off < 0x10800 then (s.queue (32 * (die - 8) + (off - 0x10000) / 64)).read (off / 8 % 8)
  else if die = 8 && off = 0x8000 then s.lcaddr
  else if die = 8 && off = 0x8008 then w64 (s.lcres.toNat * 2 ^ 14 + s.lcop.toNat * 2 ^ 8 + s.lclevel.toNat)
  else if die = 8 && 0xE000 ≤ off && off < 0xE020 then s.mig.read (off / 8 % 4)
  else if die = 8 && 0xF000 ≤ off && off < 0xF200 then
    ((Map.getD 0#256 s.peers ((off - 0xF000) / 32)) >>> (64 * (off / 8 % 4))).setWidth 64
  else if die = 8 && off = 0x14000 then s.power.read
  else if die = 8 && 0x18000 ≤ off && off < 0x1A000 then s.sec.exec.read (off - 0x18000)
  else s.portRead die (off / 4096) (off % 4096 / 8)

/-- 22 Table 22.3. -/
def Power.modstat (p : Power) : Word64 := w64 (p.bstep.toNat * 2 ^ 8 + bitAt p.therm 1 + bitAt p.ready 0)

/-- READING A DWORD through BAR0: of the window of a compute die the register, but 0 for the forwarding table, the domain directory and the
hart template; of an IO die what 22 Table 22.2 lists (22 R405). -/
def State.hostRead (s : State) (die off : Nat) : Word64 :=
  if off % 8 ≠ 0 then 0
  else if die < 8 then
    if off < 0x4000 || (decide (0x10000 ≤ off) && decide (off < 0x18000)) || off / 4096 = 0xA then 0 else s.ctlRead die off
  else if off = 0 then s.power.modstat
  else if (decide (0xB000 ≤ off) && decide (off < 0xB020)) || (decide (0x10000 ≤ off) && decide (off < 0x10800)) then s.ctlRead die off
  else if die = 8 && (off = 0x8000 || off = 0x8008) then s.ctlRead die off
  else if die = 8 && decide (0x20000 ≤ off) && decide (off < 0x22000) then s.sec.host.read (off - 0x20000)
  else 0

/-! ## Writes -/

def Die.setTemplate (d : Die) (i : Nat) (v : Word64) : Die :=
  if i = 0 then { d with tStvec := v } else if i = 1 then { d with tSsbase := v } else if i = 2 then { d with tSie := v }
  else if i = 3 then { d with tStcmp := v } else if i = 4 then { d with tScen := v.setWidth 32 }
  else if i = 5 then { d with tSenv := v } else d

def Core.setProfile (k : Core) (i : Nat) (v : Word64) : Core :=
  if i = 0 then { k with failSteal := v.extractLsb' 32 32, tasks := v.setWidth 32 } else if i = 1 then { k with dropped := v.setWidth 32 }
  else if i = 2 then { k with qwait := v } else if i = 3 then { k with search := v } else if i = 4 then { k with runTicks := v } else k

/-- The pre-emption port (16 Table 16.5). -/
def State.pctlWrite (s : State) (die : BitVec 3) (v : Word64) : State :=
  let d := s.die die.toNat
  let op : BitVec 2 := v.extractLsb' 8 2
  if !v.getLsbD 12 then s.setDie die.toNat { d with pop := op }
  else if d.pbusy then s
  else if op = 0 then after (execPreempt die s) s
  else if op = 1 then after (execUnitResume die s) s
  else after (execPctlReservedOp die op s) s

/-- The debug port (19 Table 19.7). -/
def State.dbgWrite (s : State) (die : BitVec 3) (v : Word64) : State :=
  let d := s.die die.toNat
  let op : BitVec 3 := v.extractLsb' 8 3
  let bar : BitVec 5 := v.extractLsb' 0 5
  let s' := s.setDie die.toNat { d with dforce := v.getLsbD 11, dop := op, dbar := bar }
  if !v.getLsbD 12 then s'
  else if op = 0 then after (execDebugHalt die (v.getLsbD 11) s') s'
  else if op = 1 then after (execDebugResume die s') s'
  else if op = 2 then after (execDebugStep die bar s') s'
  else after (execDebugBadRequest die op bar s') s'

/-- The migration engine (20 Table 20.1). -/
def State.mgWrite (s : State) (i : Nat) (v : Word64) : State :=
  if i = 0 then { s with mig := { s.mig with desc := v &&& areaMask } }
  else if i = 1 then
    let op : BitVec 3 := v.extractLsb' 8 3
    let force := v.getLsbD 11
    if !v.getLsbD 12 then { s with mig := { s.mig with op := op, force := force } }
    else if op = 0 then after (execMigrationStart { s with mig := { s.mig with force := force } }) s
    else if op = 1 then after (execMigrationStop (force, s.mig.exec) s) s
    else if op = 2 then after (execMigrationAbort { s with mig := { s.mig with force := force } }) s
    else if op = 3 then after (execMigrationReceive { s with mig := { s.mig with force := force } }) s
    else after (execMgctlReservedOp op { s with mig := { s.mig with force := force } }) s
  else s

/-- The bytes that a write puts into the buffer of a mailbox since GO. -/
def Mailbox.written (m : Mailbox) (o : Nat) (v : Word64) : Mailbox :=
  { m with late := (List.range 8).foldl (fun l i => Map.put l (o + i) (v.extractLsb' (8 * i) 8)) m.late }

/-- A mailbox: the buffer, or `sccmd`, whose GO asks the controller for a command (21 R394). -/
def State.mailWrite (s : State) (host : Bool) (o : Nat) (v : Word64) : State :=
  let m := s.mailbox host
  if o < 0x1000 then s.setMailbox host (if m.busy then m.written o v else { m with buf := m.buf.setWord64 o v })
  else if o = 0x1000 then
    if v.getLsbD 15 then s.goMail host (field v.toNat 0 8) (min 4096 (field v.toNat 16 16))
    else s.setMailbox host { m with len := v.extractLsb' 16 16, cmd := v.setWidth 8 }
  else s

/-- A ring base register: BASE belongs to S-mode and M-mode, LOG2N is written by the host too. -/
def ringBase (old : Word64) (host : Bool) (v : Word64) : Word64 :=
  if host then (old &&& 0xFFFFFFFFFFFFFFF0) ||| (v &&& 0xF) else v &&& ringMask

/-- Error log registers (18 Table 18.6). -/
def Die.elWrite (d : Die) (host : Bool) (i : Nat) (v : Word64) : Die :=
  if i = 0 then { d with elbase := ringBase d.elbase host v }
  else if i = 2 then { d with elcons := v.setWidth 32 }
  else if i = 3 then { d with elcorr := d.elcorr &&& ~~~(v.extractLsb' 32 32), elovf := d.elovf &&& ~~~(v.setWidth 32) }
  else d

/-- Trace ring registers (19 Table 19.4). -/
def Die.trWrite (d : Die) (host : Bool) (i : Nat) (v : Word64) : Die :=
  if i = 0 then { d with trbase := ringBase d.trbase host v }
  else if i = 2 then { d with trcons := v.setWidth 32 }
  else if i = 3 then { d with trdrop := d.trdrop &&& ~~~(v.setWidth 32) }
  else d

/-- A register of a compute die's ports. -/
def State.portWrite (s : State) (die : BitVec 3) (host : Bool) (blk i : Nat) (v : Word64) : State :=
  let n := die.toNat
  let d := s.die n
  if blk = 4 then (if i = 0 then after (execIcinvWrite die v s) s else s)
  else if blk = 5 then
    if i = 0 then s.setDie n { d with dsva := v &&& 0xFFFFFFFFFFFFF000 }
    else if i = 1 then s.setDie n { d with dscnt := v &&& 0x1FFFF }
    else if i = 2 then s.setDie n { d with dsout := v &&& dwordMask }
    else if i = 3 && v.getLsbD 12 then after (execSnapshot die s) s else s
  else if blk = 6 then (if i = 0 then after (execWsgateWrite die (.inl v) s) s else s)
  else if blk = 7 then
    if i = 0 then
      let s := s.units.foldl (fun s e => s.barSync e.1) s
      let s := s.setDie n { s.die n with bwEn := v.getLsbD 32, bwLimit := v.setWidth 32 }
      s.units.foldl (fun s e => s.barSync e.1) s
    else s
  else if blk = 8 then
    if i = 0 then s.pctlWrite die v
    else if i = 1 then s.setDie n { d with parea := v &&& areaMask }
    else if i = 2 then s.setDie n { d with psize := v &&& 0xFFFFFFFF }
    else if i = 3 then s.setDie n { d with punit := v &&& 0xFFFF00000003FFFF } else s
  else if blk = 9 then (if i = 0 then after (execSireqWrite die v s) s else s)
  else if blk = 0xA then s.setDie n (d.setTemplate i v)
  else if blk = 0xB then s.setDie n (d.elWrite false i v)
  else if blk = 0xC then s.setDie n (d.trWrite host i v)
  else if blk = 0xD then
    if i = 0 then s.setDie n { d with dunit := v &&& 0xFFFF0000003FFFFF } else if i = 1 then s.dbgWrite die v else s
  else s

/-- A queue register of queue q. -/
def State.queueWrite (s : State) (q : BitVec 6) (who : Writer) (i : Nat) (v : Word64) : State :=
  if i = 0 then s.setQueue q.toNat ((s.queue q.toNat).rebase v)
  else if i = 1 then after (execQsizeWrite q v s) s
  else if i = 2 then after (execQueueDoorbell q (v.setWidth 32) s) s
  else if i = 4 then after (execQcfgWrite q who v s) s
  else if i = 5 then after (execQstatClear q v s) s else s

def State.lcWrite (s : State) (i : Nat) (v : Word64) : State :=
  if i = 0 then { s with lcaddr := v }
  else
    let op : BitVec 2 := v.extractLsb' 8 2
    let level : BitVec 3 := v.extractLsb' 0 3
    if !s.power.ready then s
    else if v.getLsbD 12 then s.lcGo op level else { s with lcop := op, lclevel := level }

/-- What the host may write through BAR0 (22 R405, 21 Table 21.9). -/
def State.hostMay (s : State) (die off : Nat) : Bool :=
  if die < 8 then
    off = 0x9000 || off = 0xB010 || off = 0xB018 ||
      (s.sec.level ≠ 0 && ((decide (0xC000 ≤ off) && decide (off < 0xC020)) || (decide (0xD000 ≤ off) && decide (off < 0xD018))))
  else
    (die = 8 && (off = 0x8000 || off = 0x8008 || (decide (0x20000 ≤ off) && decide (off < 0x22000)))) || off = 0 ||
      (decide (0xB000 ≤ off) && decide (off < 0xB020)) || (decide (0x10000 ≤ off) && decide (off < 0x10800))

/-- WRITING A DWORD of a die's control space, or of BAR0 by the host; other offsets ignore it. -/
def State.ctlWrite (s : State) (die off : Nat) (who : Writer) (v : Word64) : State :=
  let host := who = .host
  if off % 8 ≠ 0 || 9 < die || (host && !s.hostMay die off) then s
  else if die < 8 then
    let d := s.die die
    if off < 0x4000 then after (execFwdTableWrite (BitVec.ofNat 3 die) (BitVec.ofNat 10 (off / 16)) (off / 8 % 2 = 1) v s) s
    else if 0x10000 ≤ off && off < 0x18000 then
      s.setDie die { d with domains := Map.setD 0 d.domains ((off - 0x10000) / 8) (v &&& 0x800FFFFFFFFFF0FF) }
    else if 0x20000 ≤ off && off < 0x160000 then
      let c := die * 20480 + (off - 0x20000) / 64
      s.setCore c ((s.core c).setProfile (off / 8 % 8) v)
    else s.portWrite (BitVec.ofNat 3 die) host (off / 4096) (off % 4096 / 8) v
  else if 0x10000 ≤ off && off < 0x10800 then
    s.queueWrite (BitVec.ofNat 6 (32 * (die - 8) + (off - 0x10000) / 64)) who (off / 8 % 8) v
  else if 0xB000 ≤ off && off < 0xB020 then s.setDie die ((s.die die).elWrite host (off / 8 % 4) v)
  else if host && off = 0 then { s with power := { s.power with therm := s.power.therm && !v.getLsbD 1 } }
  else if die = 8 && (off = 0x8000 || off = 0x8008) then s.lcWrite (off / 8 % 2) v
  else if die = 8 && host then s.mailWrite true (off - 0x20000) v
  else if die = 8 && 0xE000 ≤ off && off < 0xE020 then s.mgWrite (off / 8 % 4) v
  else if die = 8 && 0xF000 ≤ off && off < 0xF200 then
    after (execPeerTableWrite (BitVec.ofNat 4 ((off - 0xF000) / 32)) (BitVec.ofNat 2 (off / 8 % 4)) v s) s
  else if die = 8 && off = 0x14000 then { s with power := { s.power with cap := v.setWidth 16 } }
  else if die = 8 && 0x18000 ≤ off && off < 0x1A000 then s.mailWrite false (off - 0x18000) v
  else s

/-! ## The external debug module (21 R398, RISC-V Debug Specification 1.0, log 15) -/

/-- The split of a slot that an abstract command reaches, the lowest. -/
def State.debugCtx (s : State) (c sl : Nat) : Option Ctx :=
  (s.group c sl).map (fun g => { c := c, sl := sl, sp := ((List.range 64).find? (fun k => (Map.find g.splits k).isSome)).getD 0 })

/-- An abstract register of a core's halted hart: an x register, the pc, a CSR; what it answers, and the state with the value written. -/
def State.debugReg (s : State) (x : Ctx) (n : Nat) (v : Option Word64) : State × List Word64 :=
  if !(s.grp x).halted then (s, [])
  else if 0x1000 ≤ n && n < 0x1020 then
    (match v with | some v => s.setX x (BitVec.ofNat 5 n) v | none => s, [s.x x (BitVec.ofNat 5 n)])
  else if n = 0x7B1 then
    (match v with | some v => s.setSpl x { s.spl x with pc := v &&& 0xFFFFFFFFFFFFFFFC } | none => s, [(s.spl x).pc])
  else if n < 0x1000 && csrAllowed .m (BitVec.ofNat 12 n) v.isSome then
    (match v with | some v => s.csrWrite x n v (BitVec.allOnes 64) | none => s, (s.csrRead x n).toList)
  else (s, [])

/-- The same of a halted hart of the controller. -/
def CtlHart.debugReg (h : CtlHart) (n : Nat) (v : Option Word64) : CtlHart × List Word64 :=
  if !h.halted then (h, [])
  else if 0x1000 ≤ n && n < 0x1020 then
    (match v with | some v => if n = 0x1000 then h else { h with x := Map.setD 0 h.x (n - 0x1000) v } | none => h, [Map.getD 0 h.x (n - 0x1000)])
  else if n = 0x7B1 then (match v with | some v => { h with pc := v &&& 0xFFFFFFFFFFFFFFFC } | none => h, [h.pc])
  else if n < 0x1000 && csrAllowed .m (BitVec.ofNat 12 n) v.isSome then
    (match v with | some v => { h with csr := Map.setD 0 h.csr n v } | none => h, [Map.getD 0 h.csr n])
  else (h, [])

/-- The sizes of the controller's ROM and SRAM (21 R384). -/
def romSize : Nat := 2 ^ 17
def sramSize : Nat := 2 ^ 19

/-- A request to a hart of the controller. -/
def Security.debugHart (z : Security) (i : Nat) (f : CtlHart → CtlHart × List Word64) : Security × List Word64 :=
  match z.harts[i]? with
  | some h => ({ z with harts := z.harts.set i (f h).1 }, (f h).2)
  | none => (z, [])

/-- The memory that a halted hart of the controller reaches: ROM, which is read only, and SRAM. -/
def Security.debugMem (z : Security) (rom : Bool) (off : Nat) (v : Option Word64) : Security × List Word64 :=
  if z.runs || off % 8 ≠ 0 || (if rom then romSize else sramSize) < off + 8 then (z, [])
  else if rom then (z, [z.rom.word64 off])
  else (match v with | some v => { z with sram := z.sram.setWord64 off v } | none => z, [z.sram.word64 off])

/-- WHAT THE HOST ASKS of a hart through the external debug module, and its answer. -/
def State.debugAsk (s : State) (ask : DebugAsk) (v : Option Word64) : State × List Word64 :=
  match ask with
  | .halt (.core c sl) =>
    match s.group c sl with
    | some g => ((((s.endStepOf g.unit).haltSlot c sl).barSync g.unit), [1])
    | none => (s, [])
  | .resume (.core c sl) =>
    match s.group c sl with
    | some g => ((s.wakeSlot c sl).barSync g.unit, [0])
    | none => (s, [])
  | .reg (.core c sl) n =>
    match s.debugCtx c sl with
    | some x => s.debugReg x n.toNat v
    | none => (s, [])
  | .halt (.controller i) => let r := s.sec.debugHart i (fun h => ({ h with halted := true }, [1])); (s.setSec r.1, r.2)
  | .resume (.controller i) => let r := s.sec.debugHart i (fun h => ({ h with halted := false }, [0])); (s.setSec r.1, r.2)
  | .reg (.controller i) n => let r := s.sec.debugHart i (fun h => h.debugReg n.toNat v); (s.setSec r.1, r.2)
  | .mem rom off => let r := s.sec.debugMem rom off v; (s.setSec r.1, r.2)

/-- R8: A write to any other device register or CSR sets its writable fields and ignores its reserved fields; a read, of no value, answers
with the register (22 R404, R405). From debug level 2 on the host reaches the external debug module (21 R398). -/
def execRegisterWrite (die : BitVec 4) (off : BitVec 24) (who : Writer) (v : Option (BitVec 64)) (s : State) : Result :=
  if s.power.off then .next s
  else
    match who, v with
    | .debug ask, v =>
      if s.sec.level.toNat < 2 then .next { s with reply := [] }
      else .next { (s.debugAsk ask v).1 with reply := (s.debugAsk ask v).2 }
    | .host, none => .next { s with reply := [s.hostRead die.toNat off.toNat] }
    | _, none => .next { s with reply := [s.ctlRead die.toNat off.toNat] }
    | w, some v => .next (s.ctlWrite die.toNat off.toNat w v)

end Sys2Proof.Machine
end

