-- ==== Sys2Proof/Machine/HartMemory.lean ====
section
/-! DEFINITION. The hart loads and stores, LR, SC and the AMOs (06 R120 Tables 6.9, 6.11; 22 R404). A load, LR, SC or AMO is
performed at its home when it issues; a store waits in the store queue (log 5). -/

namespace Sys2Proof.Machine

/-! ## The address of a hart access (06 R120, Table 6.11; 10 R184-R187; 22 R404) -/

/-- The mode whose permissions a hart access has: with mstatus.MPRV an M-mode access is made as MPP says, as ratified
(16 R323). -/
def State.dataMode (s : State) (x : Ctx) : Mode :=
  let w := s.slot x.c x.sl
  let md := (s.spl x).mode
  if md = .m && statusBit w.mstatus 17 then modeOf (w.mstatus.extractLsb' 11 2) else md

/-- What a hart access meets before it is performed. -/
inductive HartAddr where
  /-- an aligned 8-byte access of the control-space window: die and offset -/
  | window (die off : Nat)
  | place (pl : Place)
  | trap (code : Nat)
  /-- a U-mode access outside its leases (03 R60) -/
  | lease
deriving DecidableEq, Repr

/-- The HBM address a load or store finds in the hart data cache of its core (10 R191). -/
def State.cached (s : State) (x : Ctx) (va : Word64) (k : Kind) : Option Nat :=
  s.cachedAt x.c (s.grp x).asid va k (s.dataMode x) (sumBit (s.grp x)) (mxrBit (s.grp x))

/-- Where a hart access goes: a load or store that hits in the hart data cache needs no walk; a U-mode access lies in a lease; an M-mode
access with the permissions of another mode is not lease-checked (03 R60). -/
def State.hartPlace (s : State) (x : Ctx) (va : Word64) (k : Kind) (plain : Bool) : Option Place :=
  let g := s.grp x
  let hit : Option Nat := if plain then s.cached x va k else none
  if (s.spl x).mode = .u then
    match hit with
    | some a => if s.leased g.asid va (k = .write) then some (.hbm a) else none
    | none => (s.checkU g.asid va (k = .write) (mxrBit g)).map Prod.fst
  else
    match hit, s.translate g.asid va k (s.dataMode x) (sumBit g) (mxrBit g) with
    | some a, _ => some (.hbm a)
    | none, .ok pl _ => some pl
    | none, _ => none

/-- After a load has missed: the home's TLB and the hart data cache hold its page and its line, where Table 10.3 lets the cache
allocate one (10 R191, R192). -/
def State.hartFill (s : State) (x : Ctx) (va : Word64) (pl : Place) : State :=
  if (s.cached x va .read).isSome then s
  else
    let g := s.grp x
    let s := { s.refill g.asid va with dcache := Map.del s.dcache (dcacheKey x.c g.asid va) }
    s.hartHold x.c g.asid va pl false

/-- The checks of a hart access in their order: the window, which for a U-mode split lies in no lease (22 R404), alignment, translation.
`plain` is a load or a store, and `resv` an LR or SC, which reach only HBM (Table 6.11). -/
def State.hartAddr (s : State) (x : Ctx) (va : Word64) (n : Nat) (k : Kind) (plain resv : Bool) : HartAddr :=
  let md := s.dataMode x
  let wr := k = .write
  if md ≠ .u && inWindow va then
    if plain && n = 8 && va.toNat % 8 = 0 then .window (va.extractLsb' 24 4).toNat (va.extractLsb' 0 24).toNat
    else .trap (if wr then 7 else 5)
  else if inWindow va then (if (s.spl x).mode = .u then .lease else .trap (if wr then 15 else 13))
  else if va.toNat % n ≠ 0 then .trap (if wr then 6 else 4)
  else
    match s.hartPlace x va k plain with
    | none => if (s.spl x).mode = .u then .lease else .trap (if wr then 15 else 13)
    | some (.hbm pa) => .place (.hbm pa)
    | some pl => if resv then .trap (if wr then 7 else 5) else .place pl

/-- The unit ends with LEASE at the address (03 R61). -/
def endByLease (x : Ctx) (va : Word64) (s : State) : Res := .gone (s.leaseEnd (s.grp x).unit x.c x.sl va)

/-- Who accesses the control space through the window (22 R404). -/
def writerOf (md : Mode) : Writer := if md = .m then .mmode else .smode

/-! ## Reads -/

/-- The group's outstanding operations, all older than an instruction at issue. -/
def State.older (s : State) (x : Ctx) : List Op := (s.core x.c).ops.filter (fun o => o.slot = x.sl)

/-- What a hart read of n bytes returns: the bytes at the ordering point (13 R256). -/
def State.hartRead (s : State) (pl : Place) (n : Nat) : Word64 := leWord (s.readPlace pl n)

def hartReq (xs : List (BitVec 5)) : Req := { xs := xs, mem := true }

/-- A hart load that is performed later: its register is scoreboarded until then (log 5). -/
def State.lateLoad (s : State) (x : Ctx) (va : Word64) (n : Nat) (sx : Bool) (rd : BitVec 5) (pl : Place) : State :=
  let p := s.spl x
  let t := if rd = 0 then s else s.setSpl x { p with pend := p.pend ++ [{ rd := rd, val := none, id := s.nextId, bank := x.sp }] }
  t.addOp x.c { s.opOf x with
    hart := true, mode := s.dataMode x, into := some (n, sx)
    accs := [{ addr := va, size := n, place := if p.mode = .u then none else some (pl, 0) }] }

/-- A hart load of n bytes: x[rd] receives them extended; it waits for a store of its split to the same bytes to be performed
(13 R258). One that finds its line in the data cache is performed at once; of the others, `late` says which are performed later. -/
def loadBody (n : Nat) (sx : Bool) (rd rs1 : BitVec 5) (imm : BitVec 12) (x : Ctx) (s : State) : Res :=
  let va := s.x x rs1 + sextImm imm
  match s.hartAddr x va n .read true false with
  | .trap code => .trap code va
  | .lease => endByLease x va s
  | .window die off => .next (s.setX x rd (s.ctlRead die off))
  | .place pl =>
    if s.readBlocked x.c (s.older x) (splitBit x.sp) (some pl.key) n then .wait
    else
      match (if (s.cached x va .read).isSome then none else s.flawAt x pl false) with
      | some f => .next ((s.meetFlaw x va pl false f).setX x rd 0)
      | none =>
        if (s.cached x va .read).isNone && s.late.headD false then
          .next (({ s with late := s.late.drop 1 } : State).lateLoad x va n sx rd pl)
        else .next (({ s.hartFill x va pl with late := s.late.drop 1 } : State).setX x rd (extendTo n sx (s.hartRead pl n)))

/-! ## Stores -/

/-- The operation of a hart store; a privileged one knows its place when it issues (10 R187). -/
def State.storeOp (s : State) (x : Ctx) (va : Word64) (d : List Byte) (pl : Option Place) : Op :=
  { s.opOf x with
    store := true, hart := true, mode := s.dataMode x
    accs := [{ addr := va, size := d.length, what := .write d, place := pl.map (fun p => (p, 0)) }] }

/-- A hart store of the low n bytes of x[rs2]: it waits in the store queue until it is performed at its home. -/
def storeBody (n : Nat) (rs1 rs2 : BitVec 5) (imm : BitVec 12) (x : Ctx) (s : State) : Res :=
  let va := s.x x rs1 + sextImm imm
  let d := leBytes (s.x x rs2).toNat n
  let queued (pl : Option Place) : Res :=
    if s.roomFor x false true then .next (s.enter x (s.storeOp x va d pl)) else .wait
  match s.hartAddr x va n .write true false with
  | .trap code => .trap code va
  | .lease => queued none
  | .window die off =>
    .after ((s.finish x ((s.spl x).pc + 4) 1 false).ctlWrite die off (writerOf (s.spl x).mode) (s.x x rs2))
  | .place pl => queued (if (s.spl x).mode = .u then none else some pl)

/-! ## Read-modify-writes, LR and SC -/

/-- A hart read-modify-write as an operation: a release puts it behind everything its split has issued (13 R263). -/
def State.rmwOp (s : State) (x : Ctx) (va : Word64) (n : Nat) (pl : Place) (rl : BitVec 1) : Op :=
  { s.opOf x with
    id := s.nextId, hart := true, behind := if rl = 1 then s.nextId else (s.spl x).rel
    accs := [{ addr := va, size := n, what := .atom 0 0 0, place := some (pl, 0) }] }

/-- A read-modify-write, LR or SC waits at issue until its order lets it be performed; one with both orders is fenced on both sides
(13 R260, R261, R263). -/
def State.mustWait (s : State) (x : Ctx) (va : Word64) (n : Nat) (pl : Place) (aq rl : BitVec 1) : Bool :=
  !s.mayWrite x.c (s.older x) (s.rmwOp x va n pl rl) 0 || (aq = 1 && rl = 1 && !(s.core x.c).fenceMet x.sl x.sp 0 0)

/-- An acquire drops the lines of the group's address space from the flock L1 (10 R191). -/
def State.acquireIf (s : State) (x : Ctx) (aq : BitVec 1) : State := if aq = 1 then s.acquire x else s

/-- What a hart AMO writes, of the n low bytes of the old value and the operand. -/
def onWidth (n : Nat) (f32 : Word32 → Word32 → Word32) (f64 : Word64 → Word64 → Word64) (old b : Word64) : Word64 :=
  if n = 4 then (f32 (lo32 old) (lo32 b)).setWidth 64 else f64 old b

/-- A hart AMO: one read-modify-write at the home; x[rd] receives the old value, a word sign-extended. -/
def amoBody (n : Nat) (f : Word64 → Word64 → Word64) (aq rl : BitVec 1) (rd rs1 rs2 : BitVec 5) (x : Ctx) (s : State) : Res :=
  let va := s.x x rs1
  match s.hartAddr x va n .write false false with
  | .trap code => .trap code va
  | .lease => endByLease x va s
  | .window _ _ => .trap 7 va
  | .place pl =>
    if s.mustWait x va n pl aq rl || !s.roomFor x false true then .wait
    else match s.flawAt x pl false with
    | some f => .next (((s.meetFlaw x va pl false f).acquireIf x aq).setX x rd 0)
    | none =>
      let old := extendTo n true (leWord (s.readPlace pl n))
      let t := s.writePlace pl (leBytes (f old (s.x x rs2)).toNat n)
      .next ((t.acquireIf x aq).setX x rd old)

/-- LR: the value, and a reservation of the 64 bytes around it; an older reservation of the split is gone. -/
def lrBody (n : Nat) (aq rl : BitVec 1) (rd rs1 : BitVec 5) (x : Ctx) (s : State) : Res :=
  let va := s.x x rs1
  match s.hartAddr x va n .read false true with
  | .trap code => .trap code va
  | .lease => endByLease x va s
  | .window _ _ => .trap 5 va
  | .place pl =>
    if s.mustWait x va n pl aq rl then .wait
    else
      let lost := s.flawAt x pl false
      let v := if lost.isSome then 0 else extendTo n true (leWord (s.readPlace pl n))
      let t := (lost.elim s (s.meetFlaw x va pl false)).loseResv x.c x.sl x.sp
      let t := { t with resvs := t.resvs ++ [(pl.key / 64, x.c, x.sl, x.sp)] }
      .next ((t.acquireIf x aq).setX x rd v)

/-- The split holds a reservation of the line. -/
def State.reserved (s : State) (x : Ctx) (pl : Place) : Bool := s.resvs.contains (pl.key / 64, x.c, x.sl, x.sp)

/-- SC: writes and answers 0 where the split still holds the reservation, else writes nothing and answers 1. -/
def scBody (n : Nat) (aq rl : BitVec 1) (rd rs1 rs2 : BitVec 5) (x : Ctx) (s : State) : Res :=
  let va := s.x x rs1
  match s.hartAddr x va n .write false true with
  | .trap code => .trap code va
  | .lease => endByLease x va s
  | .window _ _ => .trap 7 va
  | .place pl =>
    if s.mustWait x va n pl aq rl || !s.roomFor x false true then .wait
    else
      let t := if s.reserved x pl then
          (match s.flawAt x pl false with
          | some f => s.meetFlaw x va pl true f
          | none => s.writePlace pl (leBytes (s.x x rs2).toNat n))
        else s
      let t := t.loseResv x.c x.sl x.sp
      .next ((if aq = 1 && rl = 1 then t.acquire x else t).setX x rd (if s.reserved x pl then 0 else 1))

/-! ## The operations of the AMOs -/

def pickMinS {w : Nat} (a b : BitVec w) : BitVec w := if b.slt a then b else a
def pickMaxS {w : Nat} (a b : BitVec w) : BitVec w := if a.slt b then b else a
def pickMinU {w : Nat} (a b : BitVec w) : BitVec w := if b.ult a then b else a
def pickMaxU {w : Nat} (a b : BitVec w) : BitVec w := if a.ult b then b else a

/-! ## Meanings -/

/-- R120: Hart load of a signed byte. -/
def execLb (rd rs1 : BitVec 5) (imm : BitVec 12) (s : State) : Result :=
  issue (encI imm rs1 0#3 rd 3#7) (fun _ _ => hartReq [rd, rs1]) (loadBody 1 true rd rs1 imm) s

/-- R120: Hart load of a signed half. -/
def execLh (rd rs1 : BitVec 5) (imm : BitVec 12) (s : State) : Result :=
  issue (encI imm rs1 1#3 rd 3#7) (fun _ _ => hartReq [rd, rs1]) (loadBody 2 true rd rs1 imm) s

/-- R120: Hart load of a signed word. -/
def execLw (rd rs1 : BitVec 5) (imm : BitVec 12) (s : State) : Result :=
  issue (encI imm rs1 2#3 rd 3#7) (fun _ _ => hartReq [rd, rs1]) (loadBody 4 true rd rs1 imm) s

/-- R120: Hart load of a doubleword. -/
def execLd (rd rs1 : BitVec 5) (imm : BitVec 12) (s : State) : Result :=
  issue (encI imm rs1 3#3 rd 3#7) (fun _ _ => hartReq [rd, rs1]) (loadBody 8 true rd rs1 imm) s

/-- R120: Hart load of an unsigned byte. -/
def execLbu (rd rs1 : BitVec 5) (imm : BitVec 12) (s : State) : Result :=
  issue (encI imm rs1 4#3 rd 3#7) (fun _ _ => hartReq [rd, rs1]) (loadBody 1 false rd rs1 imm) s

/-- R120: Hart load of an unsigned half. -/
def execLhu (rd rs1 : BitVec 5) (imm : BitVec 12) (s : State) : Result :=
  issue (encI imm rs1 5#3 rd 3#7) (fun _ _ => hartReq [rd, rs1]) (loadBody 2 false rd rs1 imm) s

/-- R120: Hart load of an unsigned word. -/
def execLwu (rd rs1 : BitVec 5) (imm : BitVec 12) (s : State) : Result :=
  issue (encI imm rs1 6#3 rd 3#7) (fun _ _ => hartReq [rd, rs1]) (loadBody 4 false rd rs1 imm) s

/-- R120: Hart store of a byte. -/
def execSb (rs1 rs2 : BitVec 5) (imm : BitVec 12) (s : State) : Result :=
  issue (encR (imm.extractLsb' 5 7) rs2 rs1 0#3 (imm.extractLsb' 0 5) 0x23#7) (fun _ _ => hartReq [rs1, rs2]) (storeBody 1 rs1 rs2 imm) s

/-- R120: Hart store of a half. -/
def execSh (rs1 rs2 : BitVec 5) (imm : BitVec 12) (s : State) : Result :=
  issue (encR (imm.extractLsb' 5 7) rs2 rs1 1#3 (imm.extractLsb' 0 5) 0x23#7) (fun _ _ => hartReq [rs1, rs2]) (storeBody 2 rs1 rs2 imm) s

/-- R120: Hart store of a word. -/
def execSw (rs1 rs2 : BitVec 5) (imm : BitVec 12) (s : State) : Result :=
  issue (encR (imm.extractLsb' 5 7) rs2 rs1 2#3 (imm.extractLsb' 0 5) 0x23#7) (fun _ _ => hartReq [rs1, rs2]) (storeBody 4 rs1 rs2 imm) s

/-- R120: Hart store of a doubleword. -/
def execSd (rs1 rs2 : BitVec 5) (imm : BitVec 12) (s : State) : Result :=
  issue (encR (imm.extractLsb' 5 7) rs2 rs1 3#3 (imm.extractLsb' 0 5) 0x23#7) (fun _ _ => hartReq [rs1, rs2]) (storeBody 8 rs1 rs2 imm) s

/-- R120: Load-reserved word at the home. -/
def execLrW (aq rl : BitVec 1) (rd rs1 : BitVec 5) (s : State) : Result :=
  issue (encR (2#5 ++ aq ++ rl) 0#5 rs1 2#3 rd 0x2F#7) (fun _ _ => hartReq [rd, rs1]) (lrBody 4 aq rl rd rs1) s

/-- R120: Store-conditional word. -/
def execScW (aq rl : BitVec 1) (rd rs1 rs2 : BitVec 5) (s : State) : Result :=
  issue (encR (3#5 ++ aq ++ rl) rs2 rs1 2#3 rd 0x2F#7) (fun _ _ => hartReq [rd, rs1, rs2])
    (scBody 4 aq rl rd rs1 rs2) s

/-- R120: Load-reserved doubleword at the home. -/
def execLrD (aq rl : BitVec 1) (rd rs1 : BitVec 5) (s : State) : Result :=
  issue (encR (2#5 ++ aq ++ rl) 0#5 rs1 3#3 rd 0x2F#7) (fun _ _ => hartReq [rd, rs1]) (lrBody 8 aq rl rd rs1) s

/-- R120: Store-conditional doubleword. -/
def execScD (aq rl : BitVec 1) (rd rs1 rs2 : BitVec 5) (s : State) : Result :=
  issue (encR (3#5 ++ aq ++ rl) rs2 rs1 3#3 rd 0x2F#7) (fun _ _ => hartReq [rd, rs1, rs2])
    (scBody 8 aq rl rd rs1 rs2) s

/-- R120: Atomic swap, word. -/
def execAmoswapW (aq rl : BitVec 1) (rd rs1 rs2 : BitVec 5) (s : State) : Result :=
  issue (encR (1#5 ++ aq ++ rl) rs2 rs1 2#3 rd 0x2F#7) (fun _ _ => hartReq [rd, rs1, rs2])
    (amoBody 4 (onWidth 4 (fun _ b => b) (fun _ b => b)) aq rl rd rs1 rs2) s

/-- R120: Atomic swap, doubleword. -/
def execAmoswapD (aq rl : BitVec 1) (rd rs1 rs2 : BitVec 5) (s : State) : Result :=
  issue (encR (1#5 ++ aq ++ rl) rs2 rs1 3#3 rd 0x2F#7) (fun _ _ => hartReq [rd, rs1, rs2])
    (amoBody 8 (onWidth 8 (fun _ b => b) (fun _ b => b)) aq rl rd rs1 rs2) s

/-- R120: Atomic add, word. -/
def execAmoaddW (aq rl : BitVec 1) (rd rs1 rs2 : BitVec 5) (s : State) : Result :=
  issue (encR (0#5 ++ aq ++ rl) rs2 rs1 2#3 rd 0x2F#7) (fun _ _ => hartReq [rd, rs1, rs2])
    (amoBody 4 (onWidth 4 (· + ·) (· + ·)) aq rl rd rs1 rs2) s

/-- R120: Atomic add, doubleword. -/
def execAmoaddD (aq rl : BitVec 1) (rd rs1 rs2 : BitVec 5) (s : State) : Result :=
  issue (encR (0#5 ++ aq ++ rl) rs2 rs1 3#3 rd 0x2F#7) (fun _ _ => hartReq [rd, rs1, rs2])
    (amoBody 8 (onWidth 8 (· + ·) (· + ·)) aq rl rd rs1 rs2) s

/-- R120: Atomic XOR, word. -/
def execAmoxorW (aq rl : BitVec 1) (rd rs1 rs2 : BitVec 5) (s : State) : Result :=
  issue (encR (4#5 ++ aq ++ rl) rs2 rs1 2#3 rd 0x2F#7) (fun _ _ => hartReq [rd, rs1, rs2])
    (amoBody 4 (onWidth 4 (· ^^^ ·) (· ^^^ ·)) aq rl rd rs1 rs2) s

/-- R120: Atomic XOR, doubleword. -/
def execAmoxorD (aq rl : BitVec 1) (rd rs1 rs2 : BitVec 5) (s : State) : Result :=
  issue (encR (4#5 ++ aq ++ rl) rs2 rs1 3#3 rd 0x2F#7) (fun _ _ => hartReq [rd, rs1, rs2])
    (amoBody 8 (onWidth 8 (· ^^^ ·) (· ^^^ ·)) aq rl rd rs1 rs2) s

/-- R120: Atomic AND, word. -/
def execAmoandW (aq rl : BitVec 1) (rd rs1 rs2 : BitVec 5) (s : State) : Result :=
  issue (encR (0xC#5 ++ aq ++ rl) rs2 rs1 2#3 rd 0x2F#7) (fun _ _ => hartReq [rd, rs1, rs2])
    (amoBody 4 (onWidth 4 (· &&& ·) (· &&& ·)) aq rl rd rs1 rs2) s

/-- R120: Atomic AND, doubleword. -/
def execAmoandD (aq rl : BitVec 1) (rd rs1 rs2 : BitVec 5) (s : State) : Result :=
  issue (encR (0xC#5 ++ aq ++ rl) rs2 rs1 3#3 rd 0x2F#7) (fun _ _ => hartReq [rd, rs1, rs2])
    (amoBody 8 (onWidth 8 (· &&& ·) (· &&& ·)) aq rl rd rs1 rs2) s

/-- R120: Atomic OR, word. -/
def execAmoorW (aq rl : BitVec 1) (rd rs1 rs2 : BitVec 5) (s : State) : Result :=
  issue (encR (8#5 ++ aq ++ rl) rs2 rs1 2#3 rd 0x2F#7) (fun _ _ => hartReq [rd, rs1, rs2])
    (amoBody 4 (onWidth 4 (· ||| ·) (· ||| ·)) aq rl rd rs1 rs2) s

/-- R120: Atomic OR, doubleword. -/
def execAmoorD (aq rl : BitVec 1) (rd rs1 rs2 : BitVec 5) (s : State) : Result :=
  issue (encR (8#5 ++ aq ++ rl) rs2 rs1 3#3 rd 0x2F#7) (fun _ _ => hartReq [rd, rs1, rs2])
    (amoBody 8 (onWidth 8 (· ||| ·) (· ||| ·)) aq rl rd rs1 rs2) s

/-- R120: Atomic signed minimum, word. -/
def execAmominW (aq rl : BitVec 1) (rd rs1 rs2 : BitVec 5) (s : State) : Result :=
  issue (encR (0x10#5 ++ aq ++ rl) rs2 rs1 2#3 rd 0x2F#7) (fun _ _ => hartReq [rd, rs1, rs2])
    (amoBody 4 (onWidth 4 pickMinS pickMinS) aq rl rd rs1 rs2) s

/-- R120: Atomic signed minimum, doubleword. -/
def execAmominD (aq rl : BitVec 1) (rd rs1 rs2 : BitVec 5) (s : State) : Result :=
  issue (encR (0x10#5 ++ aq ++ rl) rs2 rs1 3#3 rd 0x2F#7) (fun _ _ => hartReq [rd, rs1, rs2])
    (amoBody 8 (onWidth 8 pickMinS pickMinS) aq rl rd rs1 rs2) s

/-- R120: Atomic signed maximum, word. -/
def execAmomaxW (aq rl : BitVec 1) (rd rs1 rs2 : BitVec 5) (s : State) : Result :=
  issue (encR (0x14#5 ++ aq ++ rl) rs2 rs1 2#3 rd 0x2F#7) (fun _ _ => hartReq [rd, rs1, rs2])
    (amoBody 4 (onWidth 4 pickMaxS pickMaxS) aq rl rd rs1 rs2) s

/-- R120: Atomic signed maximum, doubleword. -/
def execAmomaxD (aq rl : BitVec 1) (rd rs1 rs2 : BitVec 5) (s : State) : Result :=
  issue (encR (0x14#5 ++ aq ++ rl) rs2 rs1 3#3 rd 0x2F#7) (fun _ _ => hartReq [rd, rs1, rs2])
    (amoBody 8 (onWidth 8 pickMaxS pickMaxS) aq rl rd rs1 rs2) s

/-- R120: Atomic unsigned minimum, word. -/
def execAmominuW (aq rl : BitVec 1) (rd rs1 rs2 : BitVec 5) (s : State) : Result :=
  issue (encR (0x18#5 ++ aq ++ rl) rs2 rs1 2#3 rd 0x2F#7) (fun _ _ => hartReq [rd, rs1, rs2])
    (amoBody 4 (onWidth 4 pickMinU pickMinU) aq rl rd rs1 rs2) s

/-- R120: Atomic unsigned minimum, doubleword. -/
def execAmominuD (aq rl : BitVec 1) (rd rs1 rs2 : BitVec 5) (s : State) : Result :=
  issue (encR (0x18#5 ++ aq ++ rl) rs2 rs1 3#3 rd 0x2F#7) (fun _ _ => hartReq [rd, rs1, rs2])
    (amoBody 8 (onWidth 8 pickMinU pickMinU) aq rl rd rs1 rs2) s

/-- R120: Atomic unsigned maximum, word. -/
def execAmomaxuW (aq rl : BitVec 1) (rd rs1 rs2 : BitVec 5) (s : State) : Result :=
  issue (encR (0x1C#5 ++ aq ++ rl) rs2 rs1 2#3 rd 0x2F#7) (fun _ _ => hartReq [rd, rs1, rs2])
    (amoBody 4 (onWidth 4 pickMaxU pickMaxU) aq rl rd rs1 rs2) s

/-- R120: Atomic unsigned maximum, doubleword. -/
def execAmomaxuD (aq rl : BitVec 1) (rd rs1 rs2 : BitVec 5) (s : State) : Result :=
  issue (encR (0x1C#5 ++ aq ++ rl) rs2 rs1 3#3 rd 0x2F#7) (fun _ _ => hartReq [rd, rs1, rs2])
    (amoBody 8 (onWidth 8 pickMaxU pickMaxU) aq rl rd rs1 rs2) s

end Sys2Proof.Machine
end

