-- ==== Sys2Proof/Machine/LaneFloat.lean ====
section
/-! DEFINITION. The lane float instructions (07 R148, R155-R160). -/

namespace Sys2Proof.Machine

/-- An approximating function: it holds the slot for 32 cycles (Table 7.2). -/
def laneApprox (w : Word32) (md : Option Word32) (vd va : BitVec 6) (f : Word32 → FNum) (s : State) : Result :=
  issue w (fun x s => { laneReq shApprox md [vd, va] x s with cycles := 32 + modClass md })
    (fun x s =>
      let g := s.grp x
      .next (s.setGrp x (g.writeLanes x.sp vd (fun l => approx md f (g.route x.sp va (mdA md) l))))) s

/-- R156: Lane float add. -/
def execLfadd (md : Option (BitVec 32)) (vd va vb : BitVec 6) (s : State) : Result :=
  laneOp (encLR (mBit md) 0#6 vb va vd 0x53#7) shFloat2 md [va, vb] vd
    (fun x g l => floatElems x md FNum.add
      (g.route x.sp va (mdA md) l) (g.route x.sp vb (mdB md) l)) s

/-- R156: Lane float subtract. -/
def execLfsub (md : Option (BitVec 32)) (vd va vb : BitVec 6) (s : State) : Result :=
  laneOp (encLR (mBit md) 1#6 vb va vd 0x53#7) shFloat2 md [va, vb] vd
    (fun x g l => floatElems x md FNum.sub
      (g.route x.sp va (mdA md) l) (g.route x.sp vb (mdB md) l)) s

/-- R156: Lane float multiply. -/
def execLfmul (md : Option (BitVec 32)) (vd va vb : BitVec 6) (s : State) : Result :=
  laneOp (encLR (mBit md) 2#6 vb va vd 0x53#7) shFloat2 md [va, vb] vd
    (fun x g l => floatElems x md (fun _ => FNum.mul)
      (g.route x.sp va (mdA md) l) (g.route x.sp vb (mdB md) l)) s

/-- R156: Lane float minimum. -/
def execLfmin (md : Option (BitVec 32)) (vd va vb : BitVec 6) (s : State) : Result :=
  laneOp (encLR (mBit md) 3#6 vb va vd 0x53#7) shFloat2 md [va, vb] vd
    (fun x g l => floatElems x md (fun _ => FNum.minimum)
      (g.route x.sp va (mdA md) l) (g.route x.sp vb (mdB md) l)) s

/-- R156: Lane float maximum. -/
def execLfmax (md : Option (BitVec 32)) (vd va vb : BitVec 6) (s : State) : Result :=
  laneOp (encLR (mBit md) 4#6 vb va vd 0x53#7) shFloat2 md [va, vb] vd
    (fun x g l => floatElems x md (fun _ => FNum.maximum)
      (g.route x.sp va (mdA md) l) (g.route x.sp vb (mdB md) l)) s

/-- R157: Lane approximate reciprocal. -/
def execLfrcp (md : Option (BitVec 32)) (vd va : BitVec 6) (s : State) : Result :=
  laneApprox (encLR (mBit md) 5#6 0#6 va vd 0x53#7) md vd va rcp s

/-- R157: Lane approximate reciprocal square root. -/
def execLfrsq (md : Option (BitVec 32)) (vd va : BitVec 6) (s : State) : Result :=
  laneApprox (encLR (mBit md) 6#6 0#6 va vd 0x53#7) md vd va rsq s

/-- R157: Lane approximate 2 to the x. -/
def execLfexp2 (md : Option (BitVec 32)) (vd va : BitVec 6) (s : State) : Result :=
  laneApprox (encLR (mBit md) 7#6 0#6 va vd 0x53#7) md vd va exp2 s

/-- R157: Lane approximate base-2 logarithm. -/
def execLflog2 (md : Option (BitVec 32)) (vd va : BitVec 6) (s : State) : Result :=
  laneApprox (encLR (mBit md) 8#6 0#6 va vd 0x53#7) md vd va log2 s

/-- R157: Lane approximate sine of 2πx. -/
def execLfsin (md : Option (BitVec 32)) (vd va : BitVec 6) (s : State) : Result :=
  laneApprox (encLR (mBit md) 9#6 0#6 va vd 0x53#7) md vd va sin s

/-- R157: Lane approximate cosine of 2πx. -/
def execLfcos (md : Option (BitVec 32)) (vd va : BitVec 6) (s : State) : Result :=
  laneApprox (encLR (mBit md) 0xA#6 0#6 va vd 0x53#7) md vd va cos s

/-- R158: Lane conversion between float and integer formats. -/
def execLfcvt (md : Option (BitVec 32)) (vd va : BitVec 6) (esel : BitVec 3) (s : State) : Result :=
  issue (encLR (mBit md) 0xB#6 (0#3 ++ esel) va vd 0x53#7)
    (fun x s =>
      { laneReq shCvt md [vd, va] x s with
        bad := !eselOk (fmtWidth (x.fa fcFP32)) (fmtWidth (x.fd fcFP32)) esel.toNat })
    (fun x s =>
      let g := s.grp x
      .next (s.setGrp x (g.writeLanes x.sp vd (fun l =>
        convertLane md (x.fa fcFP32) (x.fd fcFP32) x.rnd esel.toNat (g.route x.sp va (mdA md) l) (g.v32 vd l))))) s

/-- R159: Lane float equal compare into a mask. -/
def execLfcmpEq (md : Option (BitVec 32)) (k : BitVec 3) (va vb : BitVec 6) (s : State) : Result :=
  laneCmp (encLR (mBit md) 0xC#6 vb va (0#3 ++ k) 0x53#7) shFcmp md [va, vb] [] k
    (fun x g l => FNum.eq (fp32.value (g.route x.sp va (mdA md) l).toNat) (fp32.value (g.route x.sp vb (mdB md) l).toNat)) s

/-- R159: Lane float less-than compare into a mask. -/
def execLfcmpLt (md : Option (BitVec 32)) (k : BitVec 3) (va vb : BitVec 6) (s : State) : Result :=
  laneCmp (encLR (mBit md) 0xD#6 vb va (0#3 ++ k) 0x53#7) shFcmp md [va, vb] [] k
    (fun x g l => FNum.lt (fp32.value (g.route x.sp va (mdA md) l).toNat) (fp32.value (g.route x.sp vb (mdB md) l).toNat)) s

/-- R159: Lane float less-or-equal compare into a mask. -/
def execLfcmpLe (md : Option (BitVec 32)) (k : BitVec 3) (va vb : BitVec 6) (s : State) : Result :=
  laneCmp (encLR (mBit md) 0xE#6 vb va (0#3 ++ k) 0x53#7) shFcmp md [va, vb] [] k
    (fun x g l => (fun a b => a.lt b || a.eq b) (fp32.value (g.route x.sp va (mdA md) l).toNat) (fp32.value (g.route x.sp vb (mdB md) l).toNat)) s

/-- R159: Lane float unordered compare into a mask. -/
def execLfcmpUn (md : Option (BitVec 32)) (k : BitVec 3) (va vb : BitVec 6) (s : State) : Result :=
  laneCmp (encLR (mBit md) 0xF#6 vb va (0#3 ++ k) 0x53#7) shFcmp md [va, vb] [] k
    (fun x g l => (fun a b => a.isNan || b.isNan) (fp32.value (g.route x.sp va (mdA md) l).toNat) (fp32.value (g.route x.sp vb (mdB md) l).toNat)) s

/-- R160: Lane fused multiply-add. -/
def execLfma (md : Option (BitVec 32)) (vd va vb vc : BitVec 6) (s : State) : Result :=
  laneOp (encLR (mBit md) vc vb va vd 0x43#7) shFloat3 md [va, vb, vc] vd
    (fun x g l => floatElems3 x md (fun rm a b c => FNum.add rm (FNum.mul a b) c)
      (g.route x.sp va (mdA md) l) (g.route x.sp vb (mdB md) l) (g.route x.sp vc (mdC md) l)) s

/-- R160: Lane fused multiply-subtract. -/
def execLfms (md : Option (BitVec 32)) (vd va vb vc : BitVec 6) (s : State) : Result :=
  laneOp (encLR (mBit md) vc vb va vd 0x47#7) shFloat3 md [va, vb, vc] vd
    (fun x g l => floatElems3 x md (fun rm a b c => FNum.sub rm (FNum.mul a b) c)
      (g.route x.sp va (mdA md) l) (g.route x.sp vb (mdB md) l) (g.route x.sp vc (mdC md) l)) s

/-- R160: Lane fused negated multiply plus addend. -/
def execLfnms (md : Option (BitVec 32)) (vd va vb vc : BitVec 6) (s : State) : Result :=
  laneOp (encLR (mBit md) vc vb va vd 0x4B#7) shFloat3 md [va, vb, vc] vd
    (fun x g l => floatElems3 x md (fun rm a b c => FNum.add rm (FNum.mul a b).neg c)
      (g.route x.sp va (mdA md) l) (g.route x.sp vb (mdB md) l) (g.route x.sp vc (mdC md) l)) s

/-- R160: Lane fused negated multiply minus addend. -/
def execLfnma (md : Option (BitVec 32)) (vd va vb vc : BitVec 6) (s : State) : Result :=
  laneOp (encLR (mBit md) vc vb va vd 0x4F#7) shFloat3 md [va, vb, vc] vd
    (fun x g l => floatElems3 x md (fun rm a b c => FNum.sub rm (FNum.mul a b).neg c)
      (g.route x.sp va (mdA md) l) (g.route x.sp vb (mdB md) l) (g.route x.sp vc (mdC md) l)) s

/-- R155: Lane float add of a uniform x value. -/
def execLfaddx (md : Option (BitVec 32)) (vd va : BitVec 6) (xs : BitVec 5) (s : State) : Result :=
  laneOpX (encLX (mBit md) 0xF#7 xs va vd 0x7B#7) shFloat1 md [va] vd xs
    (fun x g u l => floatElems x md FNum.add (g.route x.sp va (mdA md) l) u) s

/-- R155: Lane float multiply by a uniform x value. -/
def execLfmulx (md : Option (BitVec 32)) (vd va : BitVec 6) (xs : BitVec 5) (s : State) : Result :=
  laneOpX (encLX (mBit md) 0x10#7 xs va vd 0x7B#7) shFloat1 md [va] vd xs
    (fun x g u l => floatElems x md (fun _ => FNum.mul) (g.route x.sp va (mdA md) l) u) s

end Sys2Proof.Machine
end

