-- ==== Sys2Proof/Machine/LaneInt.lean ====
section
/-! DEFINITION. The lane integer instructions of the LR, LI and LX formats (07 R147, R151-R155). -/

namespace Sys2Proof.Machine

/-! ## Bit fields and immediates (07 R152, R154) -/

/-- POS and length of a bit field. -/
def fieldPos (b : Word32) : Nat := b.toNat % 32
def fieldLen (b : Word32) : Nat := min (b.toNat / 256 % 32 + 1) (32 - fieldPos b)

def extractField (sgn : Bool) (a b : Word32) : Word32 :=
  let n := fieldLen b
  BitVec.ofInt 32 (readInt n sgn (a.toNat / 2 ^ fieldPos b % 2 ^ n))

def insertField (d a b : Word32) : Word32 :=
  let p := fieldPos b
  let ones := BitVec.ofNat 32 (2 ^ fieldLen b - 1)
  (d &&& ~~~(ones <<< p)) ||| ((a &&& ones) <<< p)

/-- The low bits of the sign-extended immediate in every element. -/
def immElems (x : Ctx) (imm : BitVec 9) : Word32 :=
  let w := fmtWidth (x.fa fcINT32)
  packElems w (fun _ => (imm.signExtend 32).toNat % 2 ^ w)

/-- A shift of every element by the immediate, modulo its width. -/
def laneShiftImm (w : Word32) (md : Option Word32) (vd va : BitVec 6) (sh : BitVec 5)
    (f : Nat → Bool → Nat → Nat → Nat) (s : State) : Result :=
  laneOp w shLogic1 md [va] vd
    (fun x g l => intElems x (fun w sg a _ => f w sg a sh.toNat) (g.route x.sp va (mdA md) l) 0) s

/-! ## Meanings -/

/-- R151: Lane integer add with result modifiers. -/
def execLadd (md : Option (BitVec 32)) (vd va vb : BitVec 6) (s : State) : Result :=
  laneOp (encLR (mBit md) 0#6 vb va vd 0x2B#7) shArith2 md [va, vb] vd
    (fun x g l => intElems x (arith md (· + ·))
      (g.route x.sp va (mdA md) l) (g.route x.sp vb (mdB md) l)) s

/-- R151: Lane integer subtract. -/
def execLsub (md : Option (BitVec 32)) (vd va vb : BitVec 6) (s : State) : Result :=
  laneOp (encLR (mBit md) 1#6 vb va vd 0x2B#7) shArith2 md [va, vb] vd
    (fun x g l => intElems x (arith md (· - ·))
      (g.route x.sp va (mdA md) l) (g.route x.sp vb (mdB md) l)) s

/-- R151: Lane integer multiply. -/
def execLmul (md : Option (BitVec 32)) (vd va vb : BitVec 6) (s : State) : Result :=
  laneOp (encLR (mBit md) 2#6 vb va vd 0x2B#7) shArith2 md [va, vb] vd
    (fun x g l => intElems x (arith md (· * ·))
      (g.route x.sp va (mdA md) l) (g.route x.sp vb (mdB md) l)) s

/-- R151: Lane signed multiply high. -/
def execLmulh (md : Option (BitVec 32)) (vd va vb : BitVec 6) (s : State) : Result :=
  laneOp (encLR (mBit md) 3#6 vb va vd 0x2B#7) shLogic2 md [va, vb] vd
    (fun x g l => intElems x (elMulHigh true)
      (g.route x.sp va (mdA md) l) (g.route x.sp vb (mdB md) l)) s

/-- R151: Lane unsigned multiply high. -/
def execLmulhu (md : Option (BitVec 32)) (vd va vb : BitVec 6) (s : State) : Result :=
  laneOp (encLR (mBit md) 4#6 vb va vd 0x2B#7) shLogic2 md [va, vb] vd
    (fun x g l => intElems x (elMulHigh false)
      (g.route x.sp va (mdA md) l) (g.route x.sp vb (mdB md) l)) s

/-- R151: Lane signed minimum. -/
def execLmin (md : Option (BitVec 32)) (vd va vb : BitVec 6) (s : State) : Result :=
  laneOp (encLR (mBit md) 5#6 vb va vd 0x2B#7) shLogic2 md [va, vb] vd
    (fun x g l => intElems x (pickMin true)
      (g.route x.sp va (mdA md) l) (g.route x.sp vb (mdB md) l)) s

/-- R151: Lane signed maximum. -/
def execLmax (md : Option (BitVec 32)) (vd va vb : BitVec 6) (s : State) : Result :=
  laneOp (encLR (mBit md) 6#6 vb va vd 0x2B#7) shLogic2 md [va, vb] vd
    (fun x g l => intElems x (pickMax true)
      (g.route x.sp va (mdA md) l) (g.route x.sp vb (mdB md) l)) s

/-- R151: Lane unsigned minimum. -/
def execLminu (md : Option (BitVec 32)) (vd va vb : BitVec 6) (s : State) : Result :=
  laneOp (encLR (mBit md) 7#6 vb va vd 0x2B#7) shLogic2 md [va, vb] vd
    (fun x g l => intElems x (pickMin false)
      (g.route x.sp va (mdA md) l) (g.route x.sp vb (mdB md) l)) s

/-- R151: Lane unsigned maximum. -/
def execLmaxu (md : Option (BitVec 32)) (vd va vb : BitVec 6) (s : State) : Result :=
  laneOp (encLR (mBit md) 8#6 vb va vd 0x2B#7) shLogic2 md [va, vb] vd
    (fun x g l => intElems x (pickMax false)
      (g.route x.sp va (mdA md) l) (g.route x.sp vb (mdB md) l)) s

/-- R151: Lane bitwise AND. -/
def execLand (md : Option (BitVec 32)) (vd va vb : BitVec 6) (s : State) : Result :=
  laneOp (encLR (mBit md) 9#6 vb va vd 0x2B#7) shLogic2 md [va, vb] vd
    (fun x g l => intElems x elAnd
      (g.route x.sp va (mdA md) l) (g.route x.sp vb (mdB md) l)) s

/-- R151: Lane bitwise OR. -/
def execLor (md : Option (BitVec 32)) (vd va vb : BitVec 6) (s : State) : Result :=
  laneOp (encLR (mBit md) 0xA#6 vb va vd 0x2B#7) shLogic2 md [va, vb] vd
    (fun x g l => intElems x elOr
      (g.route x.sp va (mdA md) l) (g.route x.sp vb (mdB md) l)) s

/-- R151: Lane bitwise XOR. -/
def execLxor (md : Option (BitVec 32)) (vd va vb : BitVec 6) (s : State) : Result :=
  laneOp (encLR (mBit md) 0xB#6 vb va vd 0x2B#7) shLogic2 md [va, vb] vd
    (fun x g l => intElems x elXor
      (g.route x.sp va (mdA md) l) (g.route x.sp vb (mdB md) l)) s

/-- R151: Lane AND NOT. -/
def execLandn (md : Option (BitVec 32)) (vd va vb : BitVec 6) (s : State) : Result :=
  laneOp (encLR (mBit md) 0xC#6 vb va vd 0x2B#7) shLogic2 md [va, vb] vd
    (fun x g l => intElems x elAndn
      (g.route x.sp va (mdA md) l) (g.route x.sp vb (mdB md) l)) s

/-- R151: Lane shift left logical. -/
def execLsll (md : Option (BitVec 32)) (vd va vb : BitVec 6) (s : State) : Result :=
  laneOp (encLR (mBit md) 0xD#6 vb va vd 0x2B#7) shLogic2 md [va, vb] vd
    (fun x g l => intElems x elSll
      (g.route x.sp va (mdA md) l) (g.route x.sp vb (mdB md) l)) s

/-- R151: Lane shift right logical. -/
def execLsrl (md : Option (BitVec 32)) (vd va vb : BitVec 6) (s : State) : Result :=
  laneOp (encLR (mBit md) 0xE#6 vb va vd 0x2B#7) shLogic2 md [va, vb] vd
    (fun x g l => intElems x elSrl
      (g.route x.sp va (mdA md) l) (g.route x.sp vb (mdB md) l)) s

/-- R151: Lane shift right arithmetic. -/
def execLsra (md : Option (BitVec 32)) (vd va vb : BitVec 6) (s : State) : Result :=
  laneOp (encLR (mBit md) 0xF#6 vb va vd 0x2B#7) shLogic2 md [va, vb] vd
    (fun x g l => intElems x elSra
      (g.route x.sp va (mdA md) l) (g.route x.sp vb (mdB md) l)) s

/-- R152: Lane signed bit-field extract. -/
def execLbext (md : Option (BitVec 32)) (vd va vb : BitVec 6) (s : State) : Result :=
  laneOp (encLR (mBit md) 0x10#6 vb va vd 0x2B#7) shBits2 md [va, vb] vd
    (fun x g l => extractField true (g.route x.sp va (mdA md) l) (g.route x.sp vb (mdB md) l)) s

/-- R152: Lane unsigned bit-field extract. -/
def execLbextu (md : Option (BitVec 32)) (vd va vb : BitVec 6) (s : State) : Result :=
  laneOp (encLR (mBit md) 0x11#6 vb va vd 0x2B#7) shBits2 md [va, vb] vd
    (fun x g l => extractField false (g.route x.sp va (mdA md) l) (g.route x.sp vb (mdB md) l)) s

/-- R152: Lane bit-field insert. -/
def execLbins (md : Option (BitVec 32)) (vd va vb : BitVec 6) (s : State) : Result :=
  laneOp (encLR (mBit md) 0x12#6 vb va vd 0x2B#7) shBits2 md [va, vb] vd
    (fun x g l => insertField (g.v32 vd l) (g.route x.sp va (mdA md) l) (g.route x.sp vb (mdB md) l)) s

/-- R152: Lane population count per element. -/
def execLpopc (md : Option (BitVec 32)) (vd va : BitVec 6) (s : State) : Result :=
  laneOp (encLR (mBit md) 0x13#6 0#6 va vd 0x2B#7) shLogic1 md [va] vd
    (fun x g l => intElems x (fun w _ a _ => elPopc w a) (g.route x.sp va (mdA md) l) 0) s

/-- R152: Lane leading zero count per element. -/
def execLclz (md : Option (BitVec 32)) (vd va : BitVec 6) (s : State) : Result :=
  laneOp (encLR (mBit md) 0x14#6 0#6 va vd 0x2B#7) shLogic1 md [va] vd
    (fun x g l => intElems x (fun w _ a _ => elClz w a) (g.route x.sp va (mdA md) l) 0) s

/-- R152: Lane trailing zero count per element. -/
def execLctz (md : Option (BitVec 32)) (vd va : BitVec 6) (s : State) : Result :=
  laneOp (encLR (mBit md) 0x15#6 0#6 va vd 0x2B#7) shLogic1 md [va] vd
    (fun x g l => intElems x (fun w _ a _ => elCtz w a) (g.route x.sp va (mdA md) l) 0) s

/-- R152: Lane select by m1. -/
def execLsel (md : Option (BitVec 32)) (vd va vb : BitVec 6) (s : State) : Result :=
  laneOp (encLR (mBit md) 0x16#6 vb va vd 0x2B#7) shLogic2 md [va, vb] vd
    (fun x g l =>
      if bit (g.rawMask x.sp 1) l then g.route x.sp va (mdA md) l else g.route x.sp vb (mdB md) l) s

/-- R152: Lane move, usually with a route. -/
def execLmov (md : Option (BitVec 32)) (vd va : BitVec 6) (s : State) : Result :=
  laneOp (encLR (mBit md) 0x17#6 0#6 va vd 0x2B#7) shLogic1 md [va] vd (fun x g l => g.route x.sp va (mdA md) l) s

/-- R152: Writes each lane's index. -/
def execLidx (md : Option (BitVec 32)) (vd : BitVec 6) (s : State) : Result :=
  laneOp (encLR (mBit md) 0x18#6 0#6 0#6 vd 0x2B#7) shIdx md [] vd (fun x g l => BitVec.ofNat 32 (l - g.base x.sp)) s

/-- R153: Lane integer equal compare into a mask. -/
def execLcmpEq (md : Option (BitVec 32)) (k : BitVec 3) (va vb : BitVec 6) (s : State) : Result :=
  laneCmp (encLR (mBit md) 0x20#6 vb va (0#3 ++ k) 0x2B#7) shBits2 md [va, vb] [] k
    (fun x g l => (fun a b => a = b) (g.route x.sp va (mdA md) l) (g.route x.sp vb (mdB md) l)) s

/-- R153: Lane integer not-equal compare into a mask. -/
def execLcmpNe (md : Option (BitVec 32)) (k : BitVec 3) (va vb : BitVec 6) (s : State) : Result :=
  laneCmp (encLR (mBit md) 0x21#6 vb va (0#3 ++ k) 0x2B#7) shBits2 md [va, vb] [] k
    (fun x g l => (fun a b => a ≠ b) (g.route x.sp va (mdA md) l) (g.route x.sp vb (mdB md) l)) s

/-- R153: Lane signed less-than compare into a mask. -/
def execLcmpLt (md : Option (BitVec 32)) (k : BitVec 3) (va vb : BitVec 6) (s : State) : Result :=
  laneCmp (encLR (mBit md) 0x22#6 vb va (0#3 ++ k) 0x2B#7) shBits2 md [va, vb] [] k
    (fun x g l => (fun a b => a.slt b) (g.route x.sp va (mdA md) l) (g.route x.sp vb (mdB md) l)) s

/-- R153: Lane signed greater-or-equal compare into a mask. -/
def execLcmpGe (md : Option (BitVec 32)) (k : BitVec 3) (va vb : BitVec 6) (s : State) : Result :=
  laneCmp (encLR (mBit md) 0x23#6 vb va (0#3 ++ k) 0x2B#7) shBits2 md [va, vb] [] k
    (fun x g l => (fun a b => !a.slt b) (g.route x.sp va (mdA md) l) (g.route x.sp vb (mdB md) l)) s

/-- R153: Lane unsigned less-than compare into a mask. -/
def execLcmpLtu (md : Option (BitVec 32)) (k : BitVec 3) (va vb : BitVec 6) (s : State) : Result :=
  laneCmp (encLR (mBit md) 0x24#6 vb va (0#3 ++ k) 0x2B#7) shBits2 md [va, vb] [] k
    (fun x g l => (fun a b => a.ult b) (g.route x.sp va (mdA md) l) (g.route x.sp vb (mdB md) l)) s

/-- R153: Lane unsigned greater-or-equal compare into a mask. -/
def execLcmpGeu (md : Option (BitVec 32)) (k : BitVec 3) (va vb : BitVec 6) (s : State) : Result :=
  laneCmp (encLR (mBit md) 0x25#6 vb va (0#3 ++ k) 0x2B#7) shBits2 md [va, vb] [] k
    (fun x g l => (fun a b => !a.ult b) (g.route x.sp va (mdA md) l) (g.route x.sp vb (mdB md) l)) s

/-- R154: Lane add immediate. -/
def execLaddi (md : Option (BitVec 32)) (vd va : BitVec 6) (imm : BitVec 9) (s : State) : Result :=
  laneOp (encLI (mBit md) 0#3 imm va vd 0x5B#7) shArith1 md [va] vd
    (fun x g l => intElems x (arith md (· + ·)) (g.route x.sp va (mdA md) l) (immElems x imm)) s

/-- R154: Lane AND immediate. -/
def execLandi (md : Option (BitVec 32)) (vd va : BitVec 6) (imm : BitVec 9) (s : State) : Result :=
  laneOp (encLI (mBit md) 1#3 imm va vd 0x5B#7) shLogic1 md [va] vd
    (fun x g l => intElems x elAnd (g.route x.sp va (mdA md) l) (immElems x imm)) s

/-- R154: Lane OR immediate. -/
def execLori (md : Option (BitVec 32)) (vd va : BitVec 6) (imm : BitVec 9) (s : State) : Result :=
  laneOp (encLI (mBit md) 2#3 imm va vd 0x5B#7) shLogic1 md [va] vd
    (fun x g l => intElems x elOr (g.route x.sp va (mdA md) l) (immElems x imm)) s

/-- R154: Lane XOR immediate. -/
def execLxori (md : Option (BitVec 32)) (vd va : BitVec 6) (imm : BitVec 9) (s : State) : Result :=
  laneOp (encLI (mBit md) 3#3 imm va vd 0x5B#7) shLogic1 md [va] vd
    (fun x g l => intElems x elXor (g.route x.sp va (mdA md) l) (immElems x imm)) s

/-- R154: Lane shift left by immediate. -/
def execLslli (md : Option (BitVec 32)) (vd va : BitVec 6) (sh : BitVec 5) (s : State) : Result :=
  laneShiftImm (encLI (mBit md) 4#3 (0#4 ++ sh) va vd 0x5B#7) md vd va sh elSll s

/-- R154: Lane logical shift right by immediate. -/
def execLsrli (md : Option (BitVec 32)) (vd va : BitVec 6) (sh : BitVec 5) (s : State) : Result :=
  laneShiftImm (encLI (mBit md) 5#3 (0#4 ++ sh) va vd 0x5B#7) md vd va sh elSrl s

/-- R154: Lane arithmetic shift right by immediate. -/
def execLsrai (md : Option (BitVec 32)) (vd va : BitVec 6) (sh : BitVec 5) (s : State) : Result :=
  laneShiftImm (encLI (mBit md) 6#3 (0#4 ++ sh) va vd 0x5B#7) md vd va sh elSra s

/-- R154: Lane move immediate, replicated per element. -/
def execLmovi (md : Option (BitVec 32)) (vd : BitVec 6) (imm : BitVec 9) (s : State) : Result :=
  laneOp (encLI (mBit md) 7#3 imm 0#6 vd 0x5B#7) shNoRoute md [] vd (fun x _ _ => immElems x imm) s

/-- R155: Lane add of a uniform x value. -/
def execLaddx (md : Option (BitVec 32)) (vd va : BitVec 6) (xs : BitVec 5) (s : State) : Result :=
  laneOpX (encLX (mBit md) 0#7 xs va vd 0x7B#7) shArith1 md [va] vd xs
    (fun x g u l => intElems x (arith md (· + ·)) (g.route x.sp va (mdA md) l) u) s

/-- R155: Lane subtract of a uniform x value. -/
def execLsubx (md : Option (BitVec 32)) (vd va : BitVec 6) (xs : BitVec 5) (s : State) : Result :=
  laneOpX (encLX (mBit md) 1#7 xs va vd 0x7B#7) shArith1 md [va] vd xs
    (fun x g u l => intElems x (arith md (· - ·)) (g.route x.sp va (mdA md) l) u) s

/-- R155: Lane multiply by a uniform x value. -/
def execLmulx (md : Option (BitVec 32)) (vd va : BitVec 6) (xs : BitVec 5) (s : State) : Result :=
  laneOpX (encLX (mBit md) 2#7 xs va vd 0x7B#7) shArith1 md [va] vd xs
    (fun x g u l => intElems x (arith md (· * ·)) (g.route x.sp va (mdA md) l) u) s

/-- R155: Lane signed minimum with a uniform x value. -/
def execLminx (md : Option (BitVec 32)) (vd va : BitVec 6) (xs : BitVec 5) (s : State) : Result :=
  laneOpX (encLX (mBit md) 3#7 xs va vd 0x7B#7) shLogic1 md [va] vd xs
    (fun x g u l => intElems x (pickMin true) (g.route x.sp va (mdA md) l) u) s

/-- R155: Lane signed maximum with a uniform x value. -/
def execLmaxx (md : Option (BitVec 32)) (vd va : BitVec 6) (xs : BitVec 5) (s : State) : Result :=
  laneOpX (encLX (mBit md) 4#7 xs va vd 0x7B#7) shLogic1 md [va] vd xs
    (fun x g u l => intElems x (pickMax true) (g.route x.sp va (mdA md) l) u) s

/-- R155: Lane AND with a uniform x value. -/
def execLandx (md : Option (BitVec 32)) (vd va : BitVec 6) (xs : BitVec 5) (s : State) : Result :=
  laneOpX (encLX (mBit md) 5#7 xs va vd 0x7B#7) shLogic1 md [va] vd xs
    (fun x g u l => intElems x elAnd (g.route x.sp va (mdA md) l) u) s

/-- R155: Lane OR with a uniform x value. -/
def execLorx (md : Option (BitVec 32)) (vd va : BitVec 6) (xs : BitVec 5) (s : State) : Result :=
  laneOpX (encLX (mBit md) 6#7 xs va vd 0x7B#7) shLogic1 md [va] vd xs
    (fun x g u l => intElems x elOr (g.route x.sp va (mdA md) l) u) s

/-- R155: Lane XOR with a uniform x value. -/
def execLxorx (md : Option (BitVec 32)) (vd va : BitVec 6) (xs : BitVec 5) (s : State) : Result :=
  laneOpX (encLX (mBit md) 7#7 xs va vd 0x7B#7) shLogic1 md [va] vd xs
    (fun x g u l => intElems x elXor (g.route x.sp va (mdA md) l) u) s

/-- R155: Lane shift left by a uniform x value. -/
def execLsllx (md : Option (BitVec 32)) (vd va : BitVec 6) (xs : BitVec 5) (s : State) : Result :=
  laneOpX (encLX (mBit md) 8#7 xs va vd 0x7B#7) shLogic1 md [va] vd xs
    (fun x g u l => intElems x elSll (g.route x.sp va (mdA md) l) u) s

/-- R155: Lane logical shift right by a uniform x value. -/
def execLsrlx (md : Option (BitVec 32)) (vd va : BitVec 6) (xs : BitVec 5) (s : State) : Result :=
  laneOpX (encLX (mBit md) 9#7 xs va vd 0x7B#7) shLogic1 md [va] vd xs
    (fun x g u l => intElems x elSrl (g.route x.sp va (mdA md) l) u) s

/-- R155: Lane arithmetic shift right by a uniform x value. -/
def execLsrax (md : Option (BitVec 32)) (vd va : BitVec 6) (xs : BitVec 5) (s : State) : Result :=
  laneOpX (encLX (mBit md) 0xA#7 xs va vd 0x7B#7) shLogic1 md [va] vd xs
    (fun x g u l => intElems x elSra (g.route x.sp va (mdA md) l) u) s

/-- R155: Lane move of a uniform x value. -/
def execLmovx (md : Option (BitVec 32)) (vd : BitVec 6) (xs : BitVec 5) (s : State) : Result :=
  laneOpX (encLX (mBit md) 0xB#7 xs 0#6 vd 0x7B#7) shNoRoute md [] vd xs (fun _ _ u _ => u) s

/-- R155: Lane equal compare with a uniform x value into a mask. -/
def execLcmpxEq (md : Option (BitVec 32)) (k : BitVec 3) (va : BitVec 6) (xs : BitVec 5) (s : State) : Result :=
  laneCmp (encLX (mBit md) 0xC#7 xs va (0#3 ++ k) 0x7B#7) shBits1 md [va] [xs] k
    (fun x g l => (fun a b => a = b) (g.route x.sp va (mdA md) l) ((g.x x.sp xs).setWidth 32)) s

/-- R155: Lane signed less-than compare with a uniform x value into a mask. -/
def execLcmpxLt (md : Option (BitVec 32)) (k : BitVec 3) (va : BitVec 6) (xs : BitVec 5) (s : State) : Result :=
  laneCmp (encLX (mBit md) 0xD#7 xs va (0#3 ++ k) 0x7B#7) shBits1 md [va] [xs] k
    (fun x g l => (fun a b => a.slt b) (g.route x.sp va (mdA md) l) ((g.x x.sp xs).setWidth 32)) s

/-- R155: Lane unsigned less-than compare with a uniform x value into a mask. -/
def execLcmpxLtu (md : Option (BitVec 32)) (k : BitVec 3) (va : BitVec 6) (xs : BitVec 5) (s : State) : Result :=
  laneCmp (encLX (mBit md) 0xE#7 xs va (0#3 ++ k) 0x7B#7) shBits1 md [va] [xs] k
    (fun x g l => (fun a b => a.ult b) (g.route x.sp va (mdA md) l) ((g.x x.sp xs).setWidth 32)) s

end Sys2Proof.Machine
end

