-- ==== Sys2Proof/Machine/Targets.lean ====
section
/-! DEFINITION. The words whose entries list formats (05 R92; 07 Table 7.5, 08 Table 8.1, 12 R225, R247): the targets an FMT
prefix may have, told from the word alone, so that the prefix can be checked when it issues. -/

namespace Sys2Proof.Machine

/-- Words of one class: the formats they take, where their lane register fields begin, and mask and value of each
encoding. -/
structure TargetRow where
  takes  : Takes
  fields : List Nat
  words  : List (Word32 × Word32)
deriving DecidableEq, Repr

/-- The words that take a prefix. REDACC is none, since its entry lists no formats (05 R92, 12 R251), though 02 R34 speaks of the format fields
of a prefix before it (log 17). -/
def formatTargets : List TargetRow := [
  { takes := .ints, fields := [7, 13, 19], words := [
      (0x7E00007F, 0x2B), (0x7E00007F, 0x200002B), (0x7E00007F, 0x400002B), (0x7E00007F, 0x600002B),
      (0x7E00007F, 0x800002B), (0x7E00007F, 0xA00002B), (0x7E00007F, 0xC00002B), (0x7E00007F, 0xE00002B),
      (0x7E00007F, 0x1000002B), (0x7E00007F, 0x1200002B), (0x7E00007F, 0x1400002B), (0x7E00007F, 0x1600002B),
      (0x7E00007F, 0x1800002B), (0x7E00007F, 0x1A00002B), (0x7E00007F, 0x1C00002B), (0x7E00007F, 0x1E00002B),
      (0x7E00007F, 0x2C00002B)] },
  { takes := .int32, fields := [7, 13, 19], words := [
      (0x7E00007F, 0x2000002B), (0x7E00007F, 0x2200002B), (0x7E00007F, 0x2400002B)] },
  { takes := .ints, fields := [7, 13], words := [
      (0x7FF8007F, 0x2600002B), (0x7FF8007F, 0x2800002B), (0x7FF8007F, 0x2A00002B), (0x7FF8007F, 0x2E00002B),
      (0x7000007F, 0x5B), (0x7000007F, 0x1000005B), (0x7000007F, 0x2000005B), (0x7000007F, 0x3000005B),
      (0x7F00007F, 0x4000005B), (0x7F00007F, 0x5000005B), (0x7F00007F, 0x6000005B), (0x7F00007F, 0x7B),
      (0x7F00007F, 0x100007B), (0x7F00007F, 0x200007B), (0x7F00007F, 0x300007B), (0x7F00007F, 0x400007B),
      (0x7F00007F, 0x500007B), (0x7F00007F, 0x600007B), (0x7F00007F, 0x700007B), (0x7F00007F, 0x800007B),
      (0x7F00007F, 0x900007B), (0x7F00007F, 0xA00007B)] },
  { takes := .int32, fields := [7], words := [
      (0x7FFFE07F, 0x3000002B)] },
  { takes := .int32, fields := [13, 19], words := [
      (0x7E001C7F, 0x4000002B), (0x7E001C7F, 0x4200002B), (0x7E001C7F, 0x4400002B), (0x7E001C7F, 0x4600002B),
      (0x7E001C7F, 0x4800002B), (0x7E001C7F, 0x4A00002B)] },
  { takes := .ints, fields := [7], words := [
      (0x7007E07F, 0x7000005B), (0x7F07E07F, 0xB00007B)] },
  { takes := .int32, fields := [13], words := [
      (0x7F001C7F, 0xC00007B), (0x7F001C7F, 0xD00007B), (0x7F001C7F, 0xE00007B)] },
  { takes := .floats, fields := [7, 13, 19], words := [
      (0x7E00007F, 0x53), (0x7E00007F, 0x2000053), (0x7E00007F, 0x4000053), (0x7E00007F, 0x6000053),
      (0x7E00007F, 0x8000053)] },
  { takes := .fp32, fields := [7, 13], words := [
      (0x7FF8007F, 0xA000053), (0x7FF8007F, 0xC000053), (0x7FF8007F, 0xE000053), (0x7FF8007F, 0x10000053),
      (0x7FF8007F, 0x12000053), (0x7FF8007F, 0x14000053), (0x7FF8007F, 0xA000057), (0x7FF8007F, 0xE000057)] },
  { takes := .cvt, fields := [7, 13], words := [
      (0x7FC0007F, 0x16000053)] },
  { takes := .fp32, fields := [13, 19], words := [
      (0x7E001C7F, 0x18000053), (0x7E001C7F, 0x1A000053), (0x7E001C7F, 0x1C000053), (0x7E001C7F, 0x1E000053)] },
  { takes := .floats, fields := [7, 13, 19, 25], words := [
      (0x7F, 0x43), (0x7F, 0x47), (0x7F, 0x4B), (0x7F, 0x4F)] },
  { takes := .floats, fields := [7, 13], words := [
      (0x7F00007F, 0xF00007B), (0x7F00007F, 0x1000007B)] },
  { takes := .words, fields := [7, 13], words := [
      (0x7FF8007F, 0x4000057), (0x7FF8007F, 0x6000057), (0x7FF8007F, 0x8000057), (0x7FF8007F, 0xC000057)] },
  { takes := .matrix, fields := [], words := [
      (0xFFF07FFF, 0x2600000B), (0xFFF07FFF, 0x2800000B)] },
  { takes := .fp32, fields := [], words := [
      (0xFFF0707F, 0x2E00000B)] }]

def TargetRow.holds (r : TargetRow) (w : Word32) : Bool := r.words.any (fun e => w &&& e.1 = e.2)

/-- The lane registers of the row's words, each below the limit (05 R89). -/
def TargetRow.regsBelow (r : TargetRow) (w : Word32) (top : Nat) : Bool :=
  r.fields.all (fun lo => decide ((w.extractLsb' lo 6).toNat < top))

/-- A word is an instruction that takes these formats, with its lane registers below `top`. -/
def fmtTarget (w : Word32) (f : BitVec 18) (top : Nat) : Bool :=
  formatTargets.any (fun r => r.holds w && r.takes.accepts f && r.regsBelow w top)

end Sys2Proof.Machine
end

