-- ==== Sys2Proof/Machine/Masks.lean ====
section
/-! DEFINITION. The group instructions of the custom-0 major: clause header, prefix, waits, moves to and from the uniform
file, masks, the mask stack, LBR, LJALR and LEXIT (06 R127-R136, 09 R175, R176, 17 R339). -/

namespace Sys2Proof.Machine

/-- An instruction of the device that takes no prefix and holds the slot for one cycle. -/
def devReq (xs : List (BitVec 5)) : Req := { xs := xs, dev := true }

def ones32 : Word32 := BitVec.allOnes 32

/-! ## The uniform file (06 R110, 09 R176) -/

/-- The entry a MOVY of a split names; none where the encoding is illegal for it. -/
def Group.yEntry (g : Group) (sp : Nat) (handler : Bool) (n : Nat) : Option Nat :=
  if handler then (if n < 32 then some n else none)
  else if g.lw16 then
    if n < 128 then
      (if (g.split sp).mode = .u && halfOf (n / 32) ≠ halfOf sp then none else some n)
    else if n < 320 then some (n + 192 * halfOf sp)
    else none
  else some n

/-- A read or write of the entry meets an outstanding result of the bank it aliases. -/
def Group.yPending (g : Group) (e : Nat) : Bool :=
  decide (e < 128) && g.splits.any (fun p => p.2.pend.any (fun q => q.bank = e / 32 && q.rd.toNat = e % 32))

/-- A result for the x bank is outstanding. -/
def Group.bankPending (g : Group) (b : Nat) : Bool := g.splits.any (fun p => p.2.pend.any (fun q => q.bank = b))

def Group.readY (g : Group) (e : Nat) : Word64 := if e < 128 && e % 32 = 0 then 0 else Map.getD 0 g.y e
def Group.writeY (g : Group) (e : Nat) (v : Word64) : Group :=
  if e < 128 && e % 32 = 0 then g else { g with y := Map.setD 0 g.y e v }

/-- 17 Table 17.3. -/
def movyReq (xs : List (BitVec 5)) (y : BitVec 9) (x : Ctx) (s : State) : Req :=
  let g := s.grp x
  { devReq xs with
    bad := (g.yEntry x.sp x.handler y.toNat).isNone
    fence := if 32 ≤ y.toNat then some (11, y.toNat) else none }

/-! ## Masks (06 R111, R132-R136) -/

/-- The lowest lane of a view, or L. -/
def Group.lowestLane (g : Group) (v : Word32) : Nat := (firstFrom (bit v) 0 32).getD g.lanesSeen

def lqValue (x : Ctx) (s : State) (sel : Nat) : Word64 :=
  let g := s.grp x
  let m0 := g.mask x.sp 0
  match sel with
  | 0 => BitVec.ofNat 64 g.lanesSeen
  | 1 => if x.handler then 16 else BitVec.ofNat 64 g.vregs
  | 2 => BitVec.ofNat 64 x.sp
  | 3 => (maskOf g.uses).setWidth 64
  | 4 => BitVec.ofNat 64 (popCount m0)
  | 5 => BitVec.ofNat 64 (g.lowestLane m0)
  | 6 => (g.view x.sp g.exited).setWidth 64
  | 7 => (g.view x.sp (g.split x.sp).lanes).setWidth 64
  | _ => BitVec.ofNat 64 x.sl

def Split.entry (p : Split) (d : Nat) : Word32 := Map.getD 0 p.stack d

/-- f on every entry of a mask stack. -/
def mapStack (f : Word32 → Word32) (st : Map Word32) : Map Word32 :=
  st.map (fun e => (e.1, f e.2))

/-- The pc a word offset leads to. -/
def lbrTarget (pc : Word64) (off : BitVec 14) : Word64 := pc + (off.signExtend 64 <<< 2)

def lbrTaken (cond : BitVec 3) (t m0 : Word32) : Bool :=
  if cond = 0 then t ≠ 0 else if cond = 1 then t = 0 else if cond = 2 then t = m0 else t ≠ m0

/-! ## LJALR (06 R135) -/

def ljTarget (v : Word32) (imm : BitVec 9) : Word64 :=
  BitVec.ofNat 64 (heapBase + (v + imm.signExtend 32).toNat)

/-- Inserts into an ascending list without repeats. -/
def insertUp (a : Word64) : List Word64 → List Word64
  | [] => [a]
  | b :: r => if a = b then b :: r else if a.toNat < b.toNat then a :: b :: r else b :: insertUp a r

/-- What split s counts, split c counts too. -/
def Core.shareOps (k : Core) (sl s c : Nat) : Core :=
  let f (w : BitVec 4) := if hasBit4 w s then w ||| splitBit c else w
  { k with
    ops := k.ops.map (fun o => if o.slot = sl then { o with who := f o.who, agent := f o.agent } else o)
    tiles := k.tiles.map (fun o => if o.slot = sl then { o with who := f o.who } else o)
    queues := k.queues.map (fun q => (q.1, q.2.map (fun i => match i with
      | .entry e => if e.slot = sl then .entry { e with who := f e.who } else i
      | .join l => .join l))) }

/-- What the mask stack entry e of a split just created holds: below the depth the creator's lanes that go with it, above it
no value is stated (log 3). -/
def newEntry (p : Split) (lanes : Word32) (ctr e : Nat) : Word32 :=
  if e < p.depth.toNat then p.entry e &&& lanes else (Config.freeWord (ctr + e)).setWidth 32

/-- Creates split c from split s with these lanes at this pc. -/
def State.spawnSplit (s : State) (x : Ctx) (c : Nat) (lanes : Word32) (pc : Word64) : State :=
  let g := s.grp x
  let p := g.split x.sp
  let n := s.freeCtr
  let q : Split := {
    pc := pc, mode := p.mode, m0 := lanes, lanes := lanes, depth := p.depth,
    stack := (List.range 16).map (fun e => (e, newEntry p lanes n e)),
    idx := (Config.freeWord (n + 16)).setWidth 4, marks := p.marks, gfmt := if g.lw16 then p.gfmt else 0, rel := p.rel }
  let g := { g with
    y := (List.range 32).foldl (fun y j => Map.setD 0 y (32 * c + j) (Map.getD 0 y (32 * x.sp + j))) g.y }
  let s := { s.setGrp x (g.setSplit c q) with freeCtr := n + 17 }
  s.setCore x.c ((s.core x.c).shareOps x.sl x.sp c)

/-- The lanes of a list for which t gives a target in hs. -/
def lanesTo (act : List Nat) (t : Nat → Word64) (hs : List Word64) : Word32 :=
  act.foldl (fun m l => if hs.any (fun h => h = t l) then m ||| laneBit l else m) 0

/-- The lanes of the created splits leave split s. -/
def Split.shed (p : Split) (o m0 : Word32) : Split :=
  { p with lanes := p.lanes &&& ~~~o, m0 := m0, stack := mapStack (fun e => e &&& ~~~o) p.stack }

/-- The share-out: heads for s and the free ids in order, and the rest for one more split at the LJALR itself. -/
def State.shareOut (s : State) (x : Ctx) (act : List Nat) (t : Nat → Word64) (ts : List Word64) (free : List Nat)
    (pc : Word64) : State × Word64 :=
  let k := 1 + free.length
  let heads := if ts.length ≤ k then ts else ts.take (k - 1)
  let rest := lanesTo act t (ts.drop heads.length)
  let parts : List (Word32 × Word64) :=
    heads.map (fun h => (lanesTo act t [h], h)) ++ (if rest = 0 then [] else [(rest, pc)])
  let mine := parts.headD (0, pc)
  let others := parts.drop 1
  let o := others.foldl (fun m q => m ||| q.1) 0
  let s := (free.zip others).foldl (fun s q => s.spawnSplit x q.1 q.2.1 q.2.2) s
  (s.setSpl x ((s.spl x).shed o mine.1), mine.2)

/-- The split waits at its LJALR: it has left the slot and nothing of it has happened. -/
def State.waitLjalr (s : State) (x : Ctx) : State :=
  let s := s.setSpl x { s.spl x with left := 0, engc := 7, stall := 0, atLjalr := true }
  s.mergeTest x.c x.sl

/-! ## LEXIT (06 R136) -/

/-- The exited lanes leave the split; what becomes of the split and of the group. -/
def State.lexit (s : State) (x : Ctx) : State × Bool :=
  let g := s.grp x
  let p := g.split x.sp
  let e := p.m0
  let q := p.shed e 0
  let g := { g with exited := g.exited ||| e }
  if q.lanes = 0 then
    let g := { g with splits := Map.del g.splits x.sp, instret := g.instret + 1 }
    let s := (s.setGrp x g).loseResv x.c x.sl x.sp
    let s := s.setCore x.c ((s.core x.c).forget x.sl (splitBit x.sp))
    if g.splits.isEmpty then ((s.setUnit g.unit ((s.unit g.unit).leaveArrived p.marks)).finishGroup x.c x.sl, true)
    else ((s.mergeTest x.c x.sl).barCheckAll g.unit, true)
  else (s.setGrp x (g.setSplit x.sp q), false)

/-! ## Meanings -/

/-- R127: A clause header opens a clause of COUNT counted instructions with its waits, engine claim and stall hint. -/
def execClh (stall : BitVec 2) (wtile wcopy wstore wload engc : BitVec 3) (count : BitVec 4) (s : State) : Result :=
  issue (encCLH stall wtile wcopy wstore wload engc 7#3 0#1 count 0xB#7) (fun _ _ => { bad := count = 0 })
    (fun x s =>
      let p := s.spl x
      if p.left ≠ 0 then .trap 30 (x.word.setWidth 64)
      else if (s.core x.c).met x.sl x.sp wtile wcopy wstore wload then
        .stay (s.setSpl x { p with pc := p.pc + 4, left := count, engc := engc, stall := stall })
      else .wait) s

/-- R128: Sets the source, result and rounding formats of the next instruction only. -/
def execFmt (rnd : BitVec 3) (fd fb fa : BitVec 5) (s : State) : Result :=
  issue (encFMT 0#4 rnd fd fb 6#3 fa 0xB#7) (fun _ _ => { devReq [] with bad := !(fmtListed fa && fmtListed fb && fmtListed fd && rndListed rnd) })
    (fun x s =>
      let g := s.grp x
      let p := s.spl x
      let f : BitVec 18 := rnd ++ fd ++ fb ++ fa
      let misfit := match s.fetch x.c g p.mode (p.pc + 4) with
        | .word w => !fmtTarget w f (if x.handler then 16 else g.vregs)
        | _ => false
      if misfit then .trap 2 (x.word.setWidth 64)
      else if p.left = 1 then .trap 31 (x.word.setWidth 64)
      else .nextFmt (s.setSpl x { p with fmt := some f })) s

/-- R129: Continues when the outstanding-operation counters meet the limits, otherwise parks the split. -/
def execWaitc (tile copy store load : BitVec 3) (s : State) : Result :=
  issue (encUF 2#3 0#2 tile copy store load 3#3 0#5 0xB#7) (fun _ _ => devReq [])
    (fun x s =>
      if (s.core x.c).met x.sl x.sp tile copy store load then .next s
      else if x.handler then .trap 26 (x.word.setWidth 64)
      else .parkNext s (.counters tile copy store load)) s

/-- R130: Moves y register N into x register rd. -/
def execMovyRd (rd : BitVec 5) (y : BitVec 9) (s : State) : Result :=
  issue (encUY y 0#3 0#5 2#3 rd 0xB#7) (movyReq [rd] y)
    (fun x s =>
      let g := s.grp x
      let e := (g.yEntry x.sp x.handler y.toNat).getD 0
      if g.yPending e then .wait else .next (s.setX x rd (g.readY e))) s

/-- R130: Moves x register rs1 into y register N. -/
def execMovyYn (y : BitVec 9) (rs1 : BitVec 5) (s : State) : Result :=
  issue (encUY y 1#3 rs1 2#3 0#5 0xB#7) (movyReq [rs1] y)
    (fun x s =>
      let g := s.grp x
      let e := (g.yEntry x.sp x.handler y.toNat).getD 0
      if g.yPending e then .wait else .next (s.setGrp x (g.writeY e (g.x x.sp rs1)))) s

/-- R131: Writes the lane or split quantity selected by SEL into rd. -/
def execLq (rd rs1 : BitVec 5) (s : State) : Result :=
  issue (encUC 0#2 7#5 0#5 rs1 1#3 rd 0xB#7) (fun _ _ => { devReq [rd] with bad := 9 ≤ rs1.toNat })
    (fun x s =>
      .next (s.setX x rd (lqValue x s rs1.toNat))) s

/-- R132: Pushes m0 onto the mask stack and ANDs m0 with mA. -/
def execMpush (ma : BitVec 3) (s : State) : Result :=
  issue (encUC 0#2 0#5 0#5 (0#2 ++ ma) 1#3 0#5 0xB#7) (fun _ _ => devReq [])
    (fun x s =>
      let g := s.grp x
      let p := g.split x.sp
      if p.depth = 16 then .trap 2 (x.word.setWidth 64)
      else
        .next (s.setGrp x ((g.setSplit x.sp { p with
          stack := Map.setD 0 p.stack p.depth.toNat p.m0, depth := p.depth + 1 }).setRawMask x.sp 0
            (p.m0 &&& g.rawMask x.sp ma)))) s

/-- R132: Sets m0 to the top of the mask stack AND NOT m0. -/
def execMelse (s : State) : Result :=
  issue (encUC 0#2 1#5 0#5 0#5 1#3 0#5 0xB#7) (fun _ _ => devReq [])
    (fun x s =>
      let g := s.grp x
      let p := g.split x.sp
      if p.depth = 0 then .trap 2 (x.word.setWidth 64)
      else .next (s.setGrp x (g.setRawMask x.sp 0 (p.entry (p.depth.toNat - 1) &&& ~~~p.m0)))) s

/-- R132: Pops the mask stack into m0, restricted to the split's live lanes. -/
def execMpop (s : State) : Result :=
  issue (encUC 0#2 2#5 0#5 0#5 1#3 0#5 0xB#7) (fun _ _ => devReq [])
    (fun x s =>
      let g := s.grp x
      let p := g.split x.sp
      if p.depth = 0 then .trap 2 (x.word.setWidth 64)
      else
        .next (s.setGrp x ((g.setSplit x.sp { p with depth := p.depth - 1 }).setRawMask x.sp 0
          (p.entry (p.depth.toNat - 1))))) s

/-- R133: Reads a mask register into an x register. -/
def execMrd (rd : BitVec 5) (ma : BitVec 3) (s : State) : Result :=
  issue (encUC 0#2 3#5 0#5 (0#2 ++ ma) 1#3 rd 0xB#7) (fun _ _ => devReq [rd])
    (fun x s =>
      .next (s.setX x rd (((s.grp x).mask x.sp ma).setWidth 64))) s

/-- R133: Writes an x register into a mask register. -/
def execMwr (md : BitVec 3) (rs1 : BitVec 5) (s : State) : Result :=
  issue (encUC 0#2 4#5 0#5 rs1 1#3 (0#2 ++ md) 0xB#7) (fun _ _ => devReq [rs1])
    (fun x s =>
      .next (s.setGrp x ((s.grp x).setMask x.sp md ((s.x x rs1).setWidth 32)))) s

/-- R133: Copies one mask register to another. -/
def execMmv (md ma : BitVec 3) (s : State) : Result :=
  issue (encUC 0#2 5#5 0#5 (0#2 ++ ma) 1#3 (0#2 ++ md) 0xB#7) (fun _ _ => devReq [])
    (fun x s =>
      let g := s.grp x
      .next (s.setGrp x (g.setMask x.sp md (g.mask x.sp ma)))) s

/-- R134: Uniform branch on a mask condition. -/
def execLbr (cond mi : BitVec 3) (off : BitVec 14) (s : State) : Result :=
  issue (encLBR 1#2 cond mi (off.extractLsb' 5 9) 1#3 (off.extractLsb' 0 5) 0xB#7) (fun _ _ => { devReq [] with ctl := true, bad := 4 ≤ cond.toNat })
    (fun x s =>
      let g := s.grp x
      let p := g.split x.sp
      .jump s (if lbrTaken cond (g.rawMask x.sp mi &&& p.m0) p.m0 then lbrTarget p.pc off else p.pc + 4)) s

/-- R135: Per-lane indirect jump that divides the split among free split ids. -/
def execLjalr (rd : BitVec 5) (va : BitVec 6) (imm : BitVec 9) (s : State) : Result :=
  issue (encLJ 2#2 va imm 1#3 rd 0xB#7) (fun _ _ => { devReq [rd] with ctl := true, vs := [va.toNat] })
    (fun x s =>
      let g := s.grp x
      let p := g.split x.sp
      let act := g.active x.sp
      let t (l : Nat) : Word64 := ljTarget (g.v32 va l) imm
      let ts := act.foldl (fun ts l => insertUp (t l) ts) []
      let free := g.freeIds x.sp
      let linked := s.setX x rd (p.pc + 4)
      match act.find? (fun l => (t l).extractLsb' 0 2 ≠ 0) with
      | some l => .trap 0 (t l)
      | none =>
        if ts.isEmpty then .next linked
        else if ts.length = 1 then .jump linked (ts.headD 0)
        else if x.handler then .trap 26 (x.word.setWidth 64)
        else if p.mode ≠ .u then .trap 2 (x.word.setWidth 64)
        else if !g.frames.isEmpty then .trap 25 (gateVal 12 0)
        else if free.isEmpty then .gone (s.waitLjalr x)
        else if g.bankPending x.sp || free.any g.bankPending then .wait
        else
          let r := linked.shareOut x act t ts free p.pc
          .jump r.1 r.2) s

/-- R136: Retires the active lanes, terminating the split and possibly finishing the group. -/
def execLexit (s : State) : Result :=
  issue (encUC 0#2 6#5 0#5 0#5 1#3 0#5 0xB#7) (fun _ _ => devReq [])
    (fun x s =>
      if x.handler then .trap 26 (x.word.setWidth 64)
      else if (s.spl x).mode ≠ .u then .trap 2 (x.word.setWidth 64)
      else if !(s.grp x).frames.isEmpty then .trap 25 (gateVal 12 0)
      else
        let r := s.lexit x
        if r.2 then .gone r.1 else .next r.1) s

end Sys2Proof.Machine
end

