-- ==== Sys2Proof/Machine/Tile.lean ====
section
/-! DEFINITION. The arithmetic of a matrix step, and slot fills: block sums (02 R37-R39, R43), the step (02 R44-R47, 12 R232),
the control word of a fill and the bytes it moves (12 R223, R224, R244), the alignment function (02 R47). -/

namespace Sys2Proof.Machine

/-! ## Operand elements (12 R223) -/

def MSlot.elem (m : MSlot) (w line k : Nat) : Nat :=
  if w = 16 then leValue (m.bytes.bytes (64 * line + 2 * k) 2)
  else if w = 8 then (m.bytes.get (64 * line + k)).toNat
  else (m.bytes.get (64 * line + k / 2)).toNat / 16 ^ (k % 2) % 16

def MSlot.scale (m : MSlot) (line blk : Nat) : Nat := (m.side.get (4 * line + blk)).toNat

/-- 02 Table 2.6: the integer form of a K4 code under a type. -/
def k4Form (ty code : Nat) : Int :=
  let mag (l : List Int) : Int := (if 8 ≤ code then -1 else 1) * l.getD (code % 8) 0
  if ty = 0 then (if 8 ≤ code then ((code : Int) - 16) * 8 else code * 8)
  else if ty = 1 then mag [0, 4, 8, 12, 16, 24, 32, 48]
  else if ty = 2 then mag [0, 1, 2, 4, 8, 16, 32, 64]
  else mag [0, 8, 16, 24, 32, 48, 64, 128]

def fcK4 : BitVec 5 := 5

/-- Blocks of 32 K positions in a step's Kt (02 R44). -/
def blocksOf (fa : BitVec 5) : Nat := if fa = fcK4 then 4 else if fmtWidth fa = 8 then 2 else 1

/-- The exact integer block sum of a K4 or integer pair and its exponent (02 R43). -/
def intBlock (a b : MSlot) (fa fb : BitVec 5) (i j blk : Nat) : Int × Int :=
  if fa = fcK4 then
    let ta := a.scale i blk
    let tb := b.scale j blk
    let s := (List.range 32).foldl (fun (s : Int) n =>
      s + k4Form (ta / 64) (a.elem 4 i (32 * blk + n)) * k4Form (tb / 64) (b.elem 4 j (32 * blk + n))) 0
    (s, (ta % 64 : Nat) + (tb % 64 : Nat) - 70)
  else
    ((List.range 32).foldl (fun (s : Int) n =>
      s + readInt 8 (fmtSigned fa) (a.elem 8 i (32 * blk + n)) * readInt 8 (fmtSigned fb) (b.elem 8 j (32 * blk + n))) 0, 0)

/-- A zero sum is +0 (02 R43). -/
def plusZero (v : FNum) : FNum :=
  match v with
  | .fin s m e => if m = 0 then .fin false 0 0 else .fin s m e
  | v => v

/-- The exact block sum of a pair of float formats or of K4 (02 R43). -/
def floatBlock (a b : MSlot) (fa fb : BitVec 5) (i j blk : Nat) : FNum :=
  if fa = fcK4 then
    let r := intBlock a b fa fb i j blk
    plusZero (.ofInt r.1 r.2)
  else
    let f := floatOf fa
    let g := floatOf fb
    plusZero ((List.range 32).foldl (fun t n =>
      FNum.add .rne t (FNum.mul (f.value (a.elem f.width i (32 * blk + n))) (g.value (b.elem g.width j (32 * blk + n)))))
      (.fin false 0 0))

/-! ## Exact elements (02 R46, R47) -/

/-- The least k at which floor(V / 2^k) fits w bits, searched up from `k`; V of n bits fits after n steps. -/
def fitShift (w : Nat) (v : Int) : Nat → Nat → Nat
  | 0, k => k
  | n + 1, k =>
    let q := v / 2 ^ k
    if -(2 ^ (w - 1) : Int) ≤ q && q ≤ 2 ^ (w - 1) - 1 then k else fitShift w v n (k + 1)

/-- V · 2^E brought into w bits and an exponent of at most emax: the loop of align_add, its sticky bit and its saturation. -/
def fit (w : Nat) (emax : Int) (v e : Int) : Int × Int × Bool :=
  let k := fitShift w v (bitLen v.natAbs + 1) 0
  let m := v / 2 ^ k
  let lost := m * 2 ^ k ≠ v
  let m := if lost && m % 2 = 0 then m + 1 else m
  if emax < e + k then (if 0 < v then 2 ^ (w - 1) - 1 else -(2 ^ (w - 1)), emax, true) else (m, e + k, lost)

/-- 02 R47. -/
def alignAdd (w : Nat) (emax : Int) (na ea nb eb : Int) : Int × Int × Bool :=
  if na = 0 && nb = 0 then (0, min ea eb, false)
  else if na = 0 then (nb, eb, false)
  else if nb = 0 then (na, ea, false)
  else
    let e := min ea eb
    fit w emax (na * 2 ^ (ea - e).toNat + nb * 2 ^ (eb - e).toNat) e

/-- The 64-bit word of an exact element: N above X (02 R46). -/
def exactWord (n x : Int) : BitVec 64 := BitVec.ofInt 56 n ++ BitVec.ofInt 8 x
def exactN (v : BitVec 64) : Int := (v.extractLsb' 8 56).toInt
def exactX (v : BitVec 64) : Int := (v.extractLsb' 0 8).toInt

/-! ## Tiles -/

def Bank.word (b : Bank) (e : Nat) : Word32 := Map.getD 0 b.words e

def Core.exactElem (k : Core) (b e : Nat) : BitVec 64 := (k.bank (b + 1)).word e ++ (k.bank b).word e

/-- Every word of a bank from a function. -/
def bankWords (f : Nat → Word32) : Map Word32 :=
  (List.range 256).foldl (fun m e => Map.setD 0 m e (f e)) []

/-- An exact tile with every element given; the LOSS flag stands in the low bank. -/
def Core.setExact (k : Core) (b : Nat) (f : Nat → BitVec 64) (loss : Bool) : Core :=
  let k := k.setBank b { k.bank b with words := bankWords (fun e => (f e).setWidth 32), loss := loss }
  k.setBank (b + 1) { k.bank (b + 1) with words := bankWords (fun e => (f e >>> 32).setWidth 32) }

/-- One element of an F tile after a step (02 R44, R45). -/
def stepElem (a b : MSlot) (fa fb : BitVec 5) (i j : Nat) (old : Word32) : Word32 :=
  if fmtIsInt fa then
    (List.range (blocksOf fa)).foldl (fun (c : Word32) blk => c + BitVec.ofInt 32 (intBlock a b fa fb i j blk).1) old
  else
    (List.range (blocksOf fa)).foldl (fun (c : Word32) blk =>
      BitVec.ofNat 32 (fp32.round .rne false (FNum.add .rne (fp32.value c.toNat) (floatBlock a b fa fb i j blk)))) old

/-- One element of an exact tile after a step, and whether bits were lost (02 R46). -/
def stepExact (a b : MSlot) (fa fb : BitVec 5) (i j : Nat) (old : BitVec 64) : BitVec 64 × Bool :=
  (List.range (blocksOf fa)).foldl (fun r blk =>
    let t := intBlock a b fa fb i j blk
    let q := alignAdd 56 127 (exactN r.1) (exactX r.1) t.1 t.2
    (exactWord q.1 q.2.1, r.2 || q.2.2)) (old, false)

/-- 12 R232: one step on the tile at a bank; a bank that is no tile is left alone. -/
def Core.step (k : Core) (a b : MSlot) (fa fb : BitVec 5) (t : Nat) (z : Bool) : Core :=
  let bk := k.bank t
  match bk.state with
  | .f => k.setBank t { bk with
      words := bankWords (fun e => stepElem a b fa fb (e / 16) (e % 16) (if z then 0 else bk.word e)) }
  | .el =>
    let res := (List.range 256).map (fun e => stepExact a b fa fb (e / 16) (e % 16) (if z then 0 else k.exactElem t e))
    k.setExact t (fun e => (res.getD e (0, false)).1) ((!z && bk.loss) || res.any Prod.snd)
  | _ => k

/-! ## Slot fills (12 Table 12.2, R244) -/

def ctlSlot (w : Word64) : Nat := field w.toNat 0 3
def ctlFmt (w : Word64) : BitVec 5 := w.extractLsb' 3 5
def ctlSpace (w : Word64) : Nat := field w.toNat 8 2
def ctlTr (w : Word64) : Bool := w.getLsbD 10
def ctlStride (w : Word64) : Nat := field w.toNat 16 16
def ctlSoff (w : Word64) : Int := (w.extractLsb' 32 32).toInt

def stepFormat (f : BitVec 5) : Bool :=
  f = 1#5 || f = 2#5 || f = 3#5 || f = 4#5 || f = 5#5 || f = 8#5 || f = 12#5

/-- 12 R224: the control word and the address are valid. -/
def ctlOk (w src : Word64) : Bool :=
  w.extractLsb' 11 5 = 0#5 && ctlSpace w ≠ 3 && stepFormat (ctlFmt w) && ctlStride w % 8 = 0 && src.toNat % 8 = 0

/-- The source addresses of byte i of a fill: bytes 0-1023 are the lines, 1024-1087 the side-area; two for a byte that packs
two K4 elements of different memory rows. -/
def fillAddrs (ctl src : Word64) (i : Nat) : List Nat :=
  let sp := ctlSpace ctl
  let at_ (d : Int) : Nat := spaceAddr sp (src.toNat + d)
  let n := i / 64
  let b := i % 64
  let st := ctlStride ctl
  let w := fmtWidth (ctlFmt ctl)
  if 1024 ≤ i then [at_ (ctlSoff ctl + ((i - 1024 : Nat) : Int))]
  else if !ctlTr ctl then [at_ (n * st + b : Nat)]
  else if w = 16 then [at_ (b / 2 * st + 2 * n + b % 2 : Nat)]
  else if w = 8 then [at_ (b * st + n : Nat)]
  else [at_ (2 * b * st + n / 2 : Nat), at_ ((2 * b + 1) * st + n / 2 : Nat)]

/-- Byte i of a fill from its source bytes. -/
def fillByte (i : Nat) (d : List Byte) : Byte :=
  match d with
  | [lo, hi] =>
    let n := i / 64 % 2
    BitVec.ofNat 8 (lo.toNat / 16 ^ n % 16 + hi.toNat / 16 ^ n % 16 * 16)
  | d => d.headD 0

/-- Bytes of a fill. -/
def fillSize (ctl : Word64) : Nat := if ctlFmt ctl = fcK4 then 1088 else 1024

/-- A fill's entry in the matrix queue: source address, control word, destination slot. -/
def fillRaw (src ctl : Word64) (slot : Nat) : BitVec 256 :=
  BitVec.ofNat 256 (src.toNat + ctl.toNat * 2 ^ 64 + slot * 2 ^ 128)
def fillSrc (e : Entry) : Word64 := e.raw.extractLsb' 0 64
def fillCtl (e : Entry) : Word64 := e.raw.extractLsb' 64 64
def fillSlot (e : Entry) : Nat := rq e.raw 128 3

/-- Outstanding fills of a slot, in queue order. -/
def Core.fillsOf (k : Core) (slot : Nat) : List Entry :=
  (k.queue 4).filterMap (fun i => match i with
    | .entry e => if fillSlot e = slot then some e else none
    | .join _ => none)

/-- Queued steps that read a slot: an MMA its two, an MLOOP every slot it holds. -/
def Step.reads (t : Step) (slot : Nat) : Bool :=
  match t.loop with
  | none => t.sa = slot || t.sb = slot
  | some _ => t.holds.contains slot

/-- A source byte of a fill: global bytes are read through the flock L1 (12 R234, 10 R192). -/
def State.fillRead (s : State) (c : Nat) (e : Entry) (a : Nat) (r : Reach) : Byte :=
  if ctlSpace (fillCtl e) = 0 then
    match s.l1Line c e.asid (BitVec.ofNat 64 a) with
    | some line => (line.drop (a % 64)).headD 0
    | none => s.getByte r
  else s.getByte r

/-- What byte i of a fill meets at its sources: the first one that cannot be read, or the byte. -/
def State.fillOne (s : State) (c : Nat) (e : Entry) (i : Nat) : (Nat × Reach) ⊕ Byte :=
  let ctl := fillCtl e
  let rs := (fillAddrs ctl (fillSrc e) i).map (fun a => (a, s.reach c e (ctlSpace ctl) a false))
  match rs.find? (fun r => !r.2.ok) with
  | some r => .inl r
  | none => .inr (fillByte i (rs.map (fun r => s.fillRead c e r.1 r.2)))

/-- Byte i of a slot's lines and side-area. -/
def MSlot.put (m : MSlot) (i : Nat) (b : Byte) : MSlot :=
  if i < 1024 then { m with bytes := m.bytes.set i b } else { m with side := m.side.set (i - 1024) b }

/-- Lands the bytes of a fill that have not landed, are readable, and that `p` picks. -/
def State.landFill (s : State) (c : Nat) (e : Entry) (p : Nat → Bool) : State :=
  let got := (List.range (fillSize (fillCtl e))).filterMap (fun i =>
    if e.landed.contains i || !p i then none
    else match s.fillOne c e i with
      | .inl _ => none
      | .inr b => some (i, b))
  let k := s.core c
  let m := got.foldl (fun (m : MSlot) q => m.put q.1 q.2) (k.mslot (fillSlot e))
  (s.setCore c (k.setMslot (fillSlot e) m)).mapEntry c 4 e.id (fun e => { e with landed := e.landed ++ got.map Prod.fst })

/-- Free choice i of a draw. -/
def freeBit (n i : Nat) : Bool := (Config.freeWord (n + i / 64)).getLsbD (i % 64)

/-- A step that reads a slot under an outstanding fill, in native mode, sees each byte before the fill or loaded,
independently (12 R233): some bytes of the slot's oldest started fill land now. -/
def State.mixFill (s : State) (c slot : Nat) (waits : List Nat) : State :=
  match ((s.core c).fillsOf slot).head? with
  | some e =>
    if e.fetched && e.dead.isNone && !waits.contains e.id && e.loop.isNone then
      { s with freeCtr := s.freeCtr + 17 }.landFill c e (fun i => freeBit s.freeCtr i)
    else s
  | none => s

end Sys2Proof.Machine
end

