-- ==== Sys2Proof/Machine/Matrix.lean ====
section
/-! DEFINITION. The matrix engine: operand slots, accumulator banks and their tokens, the Bellwether, the step queue, partials across cores
(12 R221-R251). -/

namespace Sys2Proof.Machine

/-- Tile-token fault (12 Table 12.10). -/
def ttFault (reason index : Nat) : Res := .trap 24 (BitVec.ofNat 64 (index * 256 + reason))

/-- An engine instruction of this chapter: illegal in the handler slot (12 R221). -/
def matReq (cls : Nat) (xs : List (BitVec 5)) (x : Ctx) (_ : State) : Req := { engReq cls xs with slot := x.handler }

/-- MMA and MLOOP take a prefix (12 R225). -/
def stepReq (xs : List (BitVec 5)) (x : Ctx) (s : State) : Req :=
  { matReq 1 xs x s with takes := true, fmtOk := (x.fmt.map Takes.matrix.accepts).getD true }

/-- `gstat`.AUR := 1 (12 R227). -/
def State.setAur (s : State) (x : Ctx) : State := s.setGrp x { s.grp x with aur := true }

/-- The bank is allocated to the issuing group's unit (12 R227). -/
def Core.owns (k : Core) (g : Group) (b : Nat) : Bool := (k.bank b).state ≠ .free && (k.bank b).unit = g.unit

/-- The token, or the pair of tokens of an exact tile, moves (12 R228). -/
def Core.setToken (k : Core) (b : Nat) (t : Token) : Core :=
  let k' := k.setBank b { k.bank b with token := t }
  if (k.bank b).state = .el then k'.setBank (b + 1) { k'.bank (b + 1) with token := t } else k'

/-- The token comes back from the engine. -/
def Core.returnToken (k : Core) (b slot : Nat) : Core :=
  k.setToken b (if slot = nobody then .nobody else .vector slot false)

def Core.tileDone (k : Core) (id : Nat) : Core := { k with tiles := k.tiles.filter (fun t => t.id ≠ id) }

/-- Counts one more tile operation of the issuing split. -/
def Core.countTile (k : Core) (id : Nat) (x : Ctx) : Core :=
  { k with tiles := k.tiles ++ [{ id := id, slot := x.sl, who := splitBit x.sp }] }

def State.tileRoom (s : State) (x : Ctx) : Bool := decide ((s.core x.c).tileCount x.sl x.sp < 255)

/-! ## Slots (12 R243, R244) -/

/-- No group holds the slot, nothing issued on it is outstanding, and it is not fenced. -/
def Core.slotFree (k : Core) (n : Nat) : Bool :=
  (k.mslot n).owner.isNone && (k.fillsOf n).isEmpty && !k.steps.any (fun t => t.reads n) && !k.deadSlots.getLsbD n

def slotMask (l : List Nat) : BitVec 8 := l.foldl (fun m n => m ||| 1#8 <<< n) 0

def tclaimBody (rd rs1 : BitVec 5) (x : Ctx) (s : State) : Res :=
  let g := s.grp x
  let k := s.core x.c
  let n := (g.x x.sp rs1).toNat
  let free := (List.range 8).filter k.slotFree
  if n = 0 || free.length < n then .next (s.setX x rd 0)
  else
    let mine := free.take n
    let k := mine.foldl (fun k m => k.setMslot m { owner := some x.sl, unit := g.unit }) k
    .next ((s.setCore x.c k).setX x rd ((slotMask mine).setWidth 64))

/-- The slots of a mask that the group holds. -/
def Core.heldSlots (k : Core) (sl : Nat) (mask : Word64) : List Nat :=
  (List.range 8).filter (fun n => mask.getLsbD n && (k.mslot n).owner = some sl)

def trelBody (rd rs1 : BitVec 5) (x : Ctx) (s : State) : Res :=
  let k := s.core x.c
  let mine := k.heldSlots x.sl (s.x x rs1)
  let mask := slotMask mine
  if k.loopHolds mask then .park s (.loopFree mask)
  else
    let k := mine.foldl (fun k n => k.setMslot n { k.mslot n with owner := none }) k
    .next ((s.setCore x.c k).setX x rd (mask.setWidth 64))

def Core.holdsSlot (k : Core) (sl n : Nat) : Bool := (k.mslot n).owner = some sl

/-- Ids of the queued steps that read a slot. -/
def Core.readersOf (k : Core) (n : Nat) : List Nat := (k.steps.filter (fun t => t.reads n)).map Step.id

def tloadBody (rs1 rs2 : BitVec 5) (x : Ctx) (s : State) : Res :=
  let g := s.grp x
  let k := s.core x.c
  let ctl := g.x x.sp rs2
  let a := g.x x.sp rs1
  let src := if ctlSpace ctl = 0 then a else (a.setWidth 32).setWidth 64
  let n := ctlSlot ctl
  if !ctlOk ctl src then ttFault 6 0
  else if !k.holdsSlot x.sl n then ttFault 3 n
  else if k.loopHolds (slotMask [n]) then
    .park (s.setCore x.c (k.setMslot n { k.mslot n with tag := ctlFmt ctl })) (.loopFree (slotMask [n]))
  else if !k.storesDone x.sl || !s.tileRoom x || 64 ≤ k.entries 4 then .wait
  else
    let id := s.nextId
    let e : Entry := {
      id := id, slot := x.sl, who := 0, mode := (g.split x.sp).mode, asid := g.asid, unit := g.unit
      raw := fillRaw src ctl n, after := k.readersOf n }
    let k := (k.setMslot n { k.mslot n with tag := ctlFmt ctl }).countTile id x
    let k := { k with queues := Map.put k.queues 4 (k.queue 4 ++ [.entry e]) }
    .next { s.setCore x.c k with nextId := id + 1 }

/-! ## Steps (12 R231, R236, R245) -/

/-- A fill of the sequencer: it writes the slot's tag and enters the matrix queue, a repeated one before the join that waits for it. -/
def Core.loopFill (k : Core) (t : Step) (l : LoopRec) (id slot : Nat) (src ctl : Word64) (after : List Nat) : Core :=
  let a := if ctlSpace ctl = 0 then src else (src.setWidth 32).setWidth 64
  let e : Entry := {
    id := id, slot := t.slot, who := 0, mode := l.mode, asid := l.asid, unit := t.unit
    raw := fillRaw a ctl slot, after := after, loop := some t.id }
  let k := k.setMslot slot { k.mslot slot with tag := ctlFmt ctl }
  let q := k.queue 4
  let waits (i : QItem) : Bool := match i with
    | .join ids => ids.contains id
    | .entry _ => false
  { k with queues := Map.put k.queues 4 (q.takeWhile (fun i => !waits i) ++ [.entry e] ++ q.dropWhile (fun i => !waits i)) }

/-- The slots of the step after n more. -/
def LoopRec.slots (l : LoopRec) (later : Bool) : Nat × Nat :=
  if l.odd != later then (l.sa1, l.sb1) else (l.sa0, l.sb0)

def Core.setHead (k : Core) (t : Step) : Core :=
  match k.steps with
  | [] => k
  | _ :: r => { k with steps := t :: r }

/-- The sequencer issues the fills of the next step of the entry at the head, or of the one after it, if the matrix queue has
room; after a resume those that it repeats are the entries they were (12 R237, 13 R270). -/
def State.issueFills (s : State) (c : Nat) (later : Bool) : State :=
  let k := s.core c
  match k.steps with
  | [] => s
  | t :: _ =>
    match t.loop with
    | none => s
    | some l =>
      if 62 < k.entries 4 then s
      else
        let d := if later then 1#64 else 0#64
        let n := l.slots later
        let p := l.redo.headD (s.nextId, s.nextId + 1)
        let reads := if later then [t.id] else []
        let k := k.loopFill t l p.1 n.1 (l.asrc + d * l.ainc) l.actl (if later && t.reads n.1 then reads else [])
        let k := k.loopFill t l p.2 n.2 (l.bsrc + d * l.binc) l.bctl (if later && t.reads n.2 then reads else [])
        let l := { l with redo := l.redo.drop 1 }
        let l := if later then { l with ahead := some p } else { l with cur := some p }
        { s.setCore c (k.setHead { t with loop := some l }) with nextId := s.nextId + 2 }

/-- An entry that comes to the head begins: the sequencer fills its first operands. -/
def State.beginHead (s : State) (c : Nat) : State :=
  match (s.core c).steps with
  | { loop := some l, .. } :: _ => if l.cur.isNone then s.issueFills c false else s
  | _ => s

/-- Enters a step entry: the token passes to the engine. -/
def State.enterStep (s : State) (x : Ctx) (t : Step) : State :=
  let k := (s.core x.c).setToken t.bank .engine
  let k := { k.countTile s.nextId x with steps := k.steps ++ [{ t with id := s.nextId }] }
  let first := (s.core x.c).steps.isEmpty
  let s := { s.setCore x.c k with nextId := s.nextId + 1 }
  if first then s.beginHead x.c else s

/-- The checks of a step's destination, and its entry into the queue (12 R245). -/
def stepInto (x : Ctx) (s : State) (t : Step) : Res :=
  let g := s.grp x
  let k := s.core x.c
  let b := t.bank
  if !k.owns g b then .next (s.setAur x)
  else if (k.bank b).state = .eh then ttFault 2 b
  else if (k.bank b).state = .el && !(t.fa = 5#5 || t.fa = 8#5 || t.fa = 12#5) then .trap 2 (x.word.setWidth 64)
  else if !(k.bank b).heldBy x.sl then ttFault 1 b
  else if 4 ≤ k.steps.length then .park s .stepRoom
  else if !s.tileRoom x then .wait
  else .next (s.enterStep x t)

/-- BELL names no slot or bank: its INDEX is a free value (log 3). -/
def bellFault (s : State) : Res :=
  .trapIn { s with freeCtr := s.freeCtr + 1 } 24
    (BitVec.ofNat 64 ((Config.freeWord s.freeCtr).toNat % 256 * 256 + 5))

def mmaBody (rs1 : BitVec 5) (x : Ctx) (s : State) : Res :=
  let g := s.grp x
  let k := s.core x.c
  let w := (g.x x.sp rs1).toNat
  let sa := field w 0 3
  let sb := field w 4 3
  let fa := (x.fmt.map fmtA).getD (k.mslot sa).tag
  let fb := (x.fmt.map fmtB).getD (k.mslot sb).tag
  if k.bell ≠ some x.sl then bellFault s
  else if !k.holdsSlot x.sl sa then ttFault 3 sa
  else if !k.holdsSlot x.sl sb then ttFault 3 sb
  else if !fmtPair fa fb then ttFault 4 (sa + 16 * sb)
  else stepInto x s {
    id := 0, slot := x.sl, unit := g.unit, fa := fa, fb := fb, sa := sa, sb := sb, bank := field w 8 5
    z := field w 3 1 = 1
    waits := if s.native g (g.split x.sp).pc then [] else ((k.fillsOf sa ++ k.fillsOf sb).map Entry.id) }

/-- A descriptor is valid (12 Table 12.5, R245). -/
def loopOk (d : Nat) : Bool :=
  let w := field d 384 64
  field w 0 16 ≠ 0 && field w 22 2 = 0 && field w 27 1 = 0 && field w 31 1 = 0 && field w 35 1 = 0 && field w 39 25 = 0 &&
    field d 448 64 = 0 &&
    ctlOk (BitVec.ofNat 64 (field d 128 64)) (BitVec.ofNat 64 (field d 0 64)) &&
    ctlOk (BitVec.ofNat 64 (field d 192 64)) (BitVec.ofNat 64 (field d 64 64))

/-- The entry of a valid descriptor. -/
def loopStep (x : Ctx) (g : Group) (d : Nat) : Step :=
  let dw (n : Nat) : Word64 := BitVec.ofNat 64 (field d (64 * n) 64)
  let w := field d 384 64
  { id := 0, slot := x.sl, unit := g.unit
    fa := (x.fmt.map fmtA).getD (ctlFmt (dw 2)), fb := (x.fmt.map fmtB).getD (ctlFmt (dw 3))
    sa := field w 24 3, sb := field w 32 3, bank := field w 16 5, z := field w 21 1 = 1
    loop := some {
      asrc := dw 0, bsrc := dw 1, actl := dw 2, bctl := dw 3, ainc := dw 4, binc := dw 5, left := field w 0 16
      sa0 := field w 24 3, sa1 := field w 28 3, sb0 := field w 32 3, sb1 := field w 36 3
      mode := (g.split x.sp).mode, asid := g.asid } }

/-- MLOOP reads its descriptor after the group's stores before it (13 R258), and after the loads of its split from the core's own
scratchpad (13 R262). -/
def mloopBody (rs1 : BitVec 5) (x : Ctx) (s : State) : Res :=
  let g := s.grp x
  let k := s.core x.c
  let a := (g.x x.sp rs1).toNat % 2 ^ 32
  if k.bell ≠ some x.sl then bellFault s
  else if a % 64 ≠ 0 then .trap 4 (BitVec.ofNat 64 a)
  else
    match (s.unit g.unit).localByte a, (s.unit g.unit).localByte (a + 63) with
    | some b, some _ =>
      let d := leValue (s.scratch.bytes b 64)
      let t := loopStep x g d
      if !s.linePresent (lineOf b) then .park s (.lines [lineOf b])
      else if !k.storesDone x.sl || s.ownReads x b 64 then .wait
      else if !loopOk d then ttFault 6 0
      else
        match t.holds.find? (fun n => !k.holdsSlot x.sl n) with
        | some n => ttFault 3 n
        | none =>
          if !fmtPair t.fa t.fb then ttFault 4 (t.sa + 16 * t.sb) else stepInto x s t
    | _, _ => s.violate x none (BitVec.ofNat 64 a)

/-- A step of the entry at the head ends: the tile is written; an MMA, or an MLOOP's last step, ends the entry. -/
def State.stepComplete (s : State) (c : Nat) : State :=
  match (s.core c).steps with
  | [] => s
  | t :: r =>
    let end_ (s : State) : State :=
      let k := ((s.core c).returnToken t.bank t.slot).tileDone t.id
      (s.setCore c { k with steps := r }).beginHead c
    match t.loop with
    | none =>
      if t.waits.any (fun id => ((s.core c).idsOf [4]).contains id) || ((s.unit t.unit).saving && !t.begun) then s
      else
        let s := s.mixFill c t.sa t.waits
        let s := if t.sa = t.sb then s else s.mixFill c t.sb t.waits
        let k := s.core c
        end_ (s.setCore c (k.step (k.mslot t.sa) (k.mslot t.sb) t.fa t.fb t.bank t.z))
    | some l =>
      if !l.running then s
      else
        let k := s.core c
        let n := l.slots false
        let s := s.setCore c (k.step (k.mslot n.1) (k.mslot n.2) t.fa t.fb t.bank t.z)
        if l.left ≤ 1 then end_ s
        else
          let l' := { l with
            asrc := l.asrc + l.ainc, bsrc := l.bsrc + l.binc, left := l.left - 1, odd := !l.odd, cur := l.ahead
            ahead := none, running := false }
          (s.setCore c ((s.core c).setHead { t with z := false, loop := some l' })).beginHead c

/-- The sequencer starts the step whose fills have landed, and issues the fills of the one after it. -/
def State.loopStart (s : State) (c : Nat) : State :=
  let k := s.core c
  match k.steps with
  | [] => s
  | t :: _ =>
    match t.loop with
    | none => s
    | some l =>
      match l.cur with
      | none => s.issueFills c false
      | some (i, j) =>
        let here := k.idsOf [4]
        if l.running || here.contains i || here.contains j || (s.unit t.unit).saving then s
        else
          let s := s.setCore c (k.setHead { t with loop := some { l with running := true } })
          if 1 < l.left then s.issueFills c true else s

/-! ## Fills (12 R233, R234) -/

/-- A step the fill must not overtake is still queued; of an MLOOP, the step in progress. -/
def Core.holdsFill (k : Core) (e : Entry) : Bool :=
  k.steps.any (fun t => e.after.contains t.id && (match t.loop with
    | some l => l.running || e.loop ≠ some t.id
    | none => true))

/-- What a fill meets at its sources before it starts: an absent line, something that cannot be read, or nothing. -/
def State.fillBlock (s : State) (c : Nat) (e : Entry) : Option (Option (Nat × Reach)) :=
  (List.range (fillSize (fillCtl e))).findSome? (fun i =>
    match s.fillOne c e i with
    | .inl (_, .later) => none
    | .inl (_, .error) => none
    | .inl q => some (some q)
    | .inr _ =>
      if ctlSpace (fillCtl e) = 1 && (fillAddrs (fillCtl e) (fillSrc e) i).any (fun a =>
          ((s.unit e.unit).localByte a).any (fun b => !s.linePresent (lineOf b))) then some none
      else none)

/-- The next fill starts: earlier steps on its slot have completed and its local lines are present. -/
def State.fillStart (s : State) (c : Nat) : State :=
  let k := s.core c
  let started := (k.queue 4).countP (fun i => match i with | .entry e => e.fetched | .join _ => false)
  match (if k.queueFrozen 4 || 2 ≤ started then none else firstUnfetched (k.queue 4)) with
  | none => s
  | some e =>
    if k.holdsFill e || (s.unit e.unit).saving then s
    else
      match s.fillBlock c e with
      | some (some q) => s.stopCopy c 4 e q.1 q.2
      | some none => s
      | none => s.mapEntry c 4 e.id (fun e => { e with fetched := true })

/-- The fill leaves the queue and the tile counter falls. -/
def State.fillGone (s : State) (c : Nat) (e : Entry) : State :=
  let s := s.popEntry c 4 e.id
  s.setCore c ((s.core c).tileDone e.id)

/-- The fill at the head lands every byte. A byte that cannot be read ends the unit, freezes the queue, waits, or, for an
S-mode group, completes the fill with the bytes landed so far, a free set of them (R234). -/
def State.fillComplete (s : State) (c : Nat) : State :=
  match (s.core c).headEntry 4 with
  | none => s
  | some e =>
    if !e.fetched then s
    else
      let stop := (List.range (fillSize (fillCtl e))).findSome? (fun i =>
        if e.landed.contains i then none
        else match s.fillOne c e i with
          | .inl q => some q
          | .inr _ => none)
      match stop with
      | none => (s.landFill c e (fun _ => true)).fillGone c e
      | some (_, .later) => s
      | some (_, .error) =>
        let t := { s with freeCtr := s.freeCtr + 17 }.landFill c e (fun i => freeBit s.freeCtr i)
        (t.addStatus e.unit c flagCopyerr 0).fillGone c e
      | some (a, r) => if (s.unit e.unit).ended then s.fillGone c e else s.stopCopy c 4 e a r

/-! ## Banks (12 R246-R248) -/

def accallocBody (rd rs1 : BitVec 5) (x : Ctx) (s : State) : Res :=
  let g := s.grp x
  let k := s.core x.c
  let v := g.x x.sp rs1
  let n := field v.toNat 0 6
  let exact := v.getLsbD 8
  let free (b : Nat) : Bool := (k.bank b).state = .free && !k.deadBanks.getLsbD b
  let fits (b : Nat) : Bool := b + n ≤ 32 && (List.range n).all (fun i => free (b + i))
  match (if n = 0 || 32 < n || (exact && n % 2 = 1) then none else firstFrom fits 0 32) with
  | none => .next (s.setX x rd (-1))
  | some b =>
    let k := (List.range n).foldl (fun k i => k.setBank (b + i) {
      state := if exact then (if i % 2 = 0 then .el else .eh) else .f
      unit := g.unit, token := .vector x.sl false }) k
    .next ((s.setCore x.c k).setX x rd (BitVec.ofNat 64 b))

def accfreeBody (rd rs1 rs2 : BitVec 5) (x : Ctx) (s : State) : Res :=
  let g := s.grp x
  let k := s.core x.c
  let f := field (g.x x.sp rs1).toNat 0 5
  let top := min (f + (g.x x.sp rs2).toNat) 32
  let cov := (List.range 32).filter (fun b => f ≤ b && b < top)
  let mine := cov.filter (k.owns g)
  let half (b : Nat) : Bool := match (k.bank b).state with
    | .el => !cov.contains (b + 1)
    | .eh => !cov.contains (b - 1)
    | _ => false
  match mine.find? half, mine.find? (fun b => !(k.bank b).heldBy x.sl) with
  | some b, _ => ttFault 7 b
  | none, some b => ttFault 1 b
  | none, none =>
    let s' := if mine.length = cov.length then s else s.setAur x
    .next ((s'.setCore x.c (mine.foldl (fun k b => k.setBank b {}) (s'.core x.c))).setX x rd (BitVec.ofNat 64 mine.length))

/-- The source of a conversion suits its row (12 Table 12.11). -/
def Core.cvtSource (k : Core) (g : Group) (b op : Nat) : Bool :=
  if op = 0 then (k.bank b).state = .el
  else if op = 1 then (k.bank b).state = .f
  else (k.bank b).state = .f && b < 31 && k.owns g (b + 1) && (k.bank (b + 1)).state = .f

def acccvtBody (rd rs1 : BitVec 5) (x : Ctx) (s : State) : Res :=
  let g := s.grp x
  let k := s.core x.c
  let v := (g.x x.sp rs1).toNat
  let b := field v 0 5
  let op := field v 5 2
  let used := if op = 2 then [b, b + 1] else [b]
  if !k.owns g b then .next ((s.setAur x).setX x rd 0)
  else if op = 3 then ttFault 6 0
  else if !k.cvtSource g b op then ttFault 7 b
  else
    match used.find? (fun i => !(k.bank i).heldBy x.sl) with
    | some i => ttFault 1 i
    | none =>
      if !s.tileRoom x then .wait
      else
        let id := s.nextId
        let loss : Word64 := if (k.bank b).state = .el && (k.bank b).loss then 1 else 0
        let k := (used.foldl (fun k i => k.setToken i .engine) k).countTile id x
        let k := { k with convs := k.convs ++ [{ id := id, slot := x.sl, bank := b, op := BitVec.ofNat 2 op }] }
        .next ({ s.setCore x.c k with nextId := id + 1 }.setX x rd loss)

/-- The exact element of an FP32 value; an exponent below the field's range leaves the element free (log 3). -/
def exactOf (free : BitVec 64) (w : Word32) : BitVec 64 × Bool :=
  match fp32.value w.toNat with
  | .fin s m e => if m = 0 then (0, false) else if e < -128 then (free, false) else (exactWord (signed s m) e, false)
  | _ => (0, true)

/-- A conversion ends: the tile is rewritten and the tokens return. -/
def State.cvtComplete (s : State) (c bank : Nat) : State :=
  match (s.core c).convs.find? (fun v => v.bank = bank) with
  | none => s
  | some v =>
    let k := s.core c
    let b := v.bank
    let k := { k.tileDone v.id with convs := k.convs.filter (fun w => w.id ≠ v.id) }
    let bk := k.bank b
    if v.op = 0#2 then
      let k' := k.setBank b { bk with
        state := .f, loss := false
        words := bankWords (fun e =>
          let q := k.exactElem b e
          BitVec.ofNat 32 (fp32.round .rne false (.ofInt (exactN q) (exactX q)))) }
      let k' := k'.setBank (b + 1) { k.bank (b + 1) with state := .f, words := [] }
      s.setCore c ((k'.returnToken b v.slot).returnToken (b + 1) v.slot)
    else if v.op = 1#2 then
      let k' := k.setBank b { bk with
        words := bankWords (fun e => BitVec.ofNat 32 (fp32.round .rne false (.ofInt (bk.word e).toInt 0))) }
      s.setCore c (k'.returnToken b v.slot)
    else
      let f (e : Nat) := exactOf (Config.freeWord (s.freeCtr + e)) (bk.word e)
      let k' := k.setBank b { bk with state := .el }
      let k' := k'.setBank (b + 1) { k.bank (b + 1) with state := .eh, loss := false }
      let k' := k'.setExact b (fun e => (f e).1) ((List.range 256).any (fun e => (f e).2))
      { s.setCore c (k'.returnToken b v.slot) with freeCtr := s.freeCtr + 256 }

/-- ACCRD and ACCWR: engine instructions of class 1 with lane operands. -/
def accReq (md : Option Word32) (vd : BitVec 6) (xs : BitVec 5) (x : Ctx) (s : State) : Req :=
  { laneReq shBare md [vd] x s with
    xs := [xs], slot := x.handler, eng := 1, fence := some (12, 0), mdOk := md.getD 0 = 0
    cycles := laneCycles (s.grp x) none }

/-- The word of a tile that a lane names: its bank and element (12 R248). -/
def accWord (k : Core) (g : Group) (sp : Nat) (q : Nat) (l : Nat) : Nat × Nat :=
  let b := field q 0 5
  let e := (field q 8 8 + (l - g.base sp)) % 256
  (if (k.bank b).state = .el && field q 16 1 = 1 then b + 1 else b, e)

def accrdBody (vd : BitVec 6) (xs : BitVec 5) (x : Ctx) (s : State) : Res :=
  let g := s.grp x
  let k := s.core x.c
  let q := (g.x x.sp xs).toNat
  let b := field q 0 5
  if !k.owns g b then .next (let s := s.setAur x; s.setGrp x ((s.grp x).writeLanes x.sp vd (fun _ => 0)))
  else if (k.bank b).state = .eh then ttFault 2 b
  else if !(k.bank b).heldBy x.sl then ttFault 1 b
  else .next (s.setGrp x (g.writeLanes x.sp vd (fun l =>
    let p := accWord k g x.sp q l
    (k.bank p.1).word p.2)))

def accwrBody (vd : BitVec 6) (xs : BitVec 5) (x : Ctx) (s : State) : Res :=
  let g := s.grp x
  let k := s.core x.c
  let q := (g.x x.sp xs).toNat
  let b := field q 0 5
  if !k.owns g b then .next (s.setAur x)
  else if (k.bank b).state = .eh then ttFault 2 b
  else if !(k.bank b).heldBy x.sl then ttFault 1 b
  else .next (s.setCore x.c ((g.active x.sp).foldl (fun k' l =>
    let p := accWord k g x.sp q l
    let bk := k'.bank p.1
    k'.setBank p.1 { bk with words := Map.setD 0 bk.words p.2 (g.v32 vd l) }) k))

/-! ## Tokens and the Bellwether (12 R249, R250) -/

/-- Slot t of the core holds a group of the unit. -/
def State.sameUnit (s : State) (x : Ctx) (t : Nat) : Bool :=
  t ≤ 3 && (s.group x.c t).any (fun h => h.unit = (s.grp x).unit)

def tgiveBody (rd rs1 rs2 : BitVec 5) (x : Ctx) (s : State) : Res :=
  let g := s.grp x
  let k := s.core x.c
  let b := field (g.x x.sp rs1).toNat 0 5
  let t := (g.x x.sp rs2).toNat
  if !k.owns g b then .next ((s.setAur x).setX x rd 1)
  else if (k.bank b).state = .eh then ttFault 2 b
  else if !(k.bank b).heldBy x.sl then ttFault 1 b
  else if !s.sameUnit x t then .next (s.setX x rd 1)
  else .next ((s.setCore x.c (k.setToken b (.vector t true))).setX x rd 0)

/-- The caller takes the token of a bank: NEW := 0. -/
def State.takeToken (s : State) (x : Ctx) (rd : BitVec 5) (b : Nat) : Res :=
  .next ((s.setCore x.c ((s.core x.c).setToken b (.vector x.sl false))).setX x rd (BitVec.ofNat 64 b))

def ttakeBody (rd rs1 : BitVec 5) (x : Ctx) (s : State) : Res :=
  let g := s.grp x
  let k := s.core x.c
  let v := (g.x x.sp rs1).toNat
  let b := field v 0 5
  if field v 6 1 = 1 then
    match firstFrom (fun b => (k.bank b).newFor x.sl) 0 32 with
    | some b => s.takeToken x rd b
    | none => .park s .anyToken
  else if !k.owns g b then .next ((s.setAur x).setX x rd (-1))
  else if (k.bank b).state = .eh then ttFault 2 b
  else if (k.bank b).heldBy x.sl then s.takeToken x rd b
  else .park s (.token b)

def bpassBody (rd rs1 : BitVec 5) (x : Ctx) (s : State) : Res :=
  let k := s.core x.c
  let t := (s.x x rs1).toNat
  if k.bell ≠ some x.sl || 5 ≤ t || (t ≤ 3 && !s.sameUnit x t) then .next (s.setX x rd 1)
  else if t = 4 then .next ((s.setCore x.c k.grantBell).setX x rd 0)
  else .next ((s.setCore x.c { k with bell := some t }).setX x rd 0)

/-! ## Partials across cores (12 R238-R240, R251) -/

def redsendBody (rs1 rs2 : BitVec 5) (x : Ctx) (s : State) : Res :=
  let g := s.grp x
  let k := s.core x.c
  let b := field (g.x x.sp rs1).toNat 0 5
  let d := g.x x.sp rs2
  match (coreOf (d.setWidth 18)).filter (fun n => (s.unit g.unit).cores.contains n) with
  | none => .trap 28 d
  | some dest =>
    let own := k.owns g b
    if own && (k.bank b).state ≠ .el then ttFault 7 b
    else if own && !(k.bank b).heldBy x.sl then ttFault 1 b
    else if !s.tileRoom x then .wait
    else
      let id := s.nextId
      let t : Send := {
        id := id, core := x.c, slot := x.sl, unit := g.unit, bank := b, held := own, dest := dest
        tile := field d.toNat 24 1, tag := (d >>> 32).setWidth 32
        elems := (List.range 256).map (fun e =>
          if own then (BitVec.ofInt 64 (exactN (k.exactElem b e)), BitVec.ofInt 32 (exactX (k.exactElem b e))) else (0, 0)) }
      let k := (if own then k.setToken b .engine else k).countTile id x
      let s' := { s.setCore x.c k with nextId := id + 1, sends := s.sends ++ [t] }
      .next (if own then s' else s'.setAur x)

def State.putSend (s : State) (t : Send) : State :=
  { s with sends := (s.sends.map (fun q => if q.id = t.id then t else q)).filter (fun q => q.held || !q.elems.isEmpty) }

/-- The banks of a send have been read: its tokens return, unless its unit has freed the banks (R222). -/
def State.sendReturn (s : State) (c n : Nat) : State :=
  match s.sends.find? (fun t => t.id = n && t.core = c) with
  | some t =>
    let k := s.core c
    let k := if (k.bank t.bank).unit = t.unit && (k.bank t.bank).state ≠ .free then k.returnToken t.bank t.slot else k
    if t.held then (s.setCore c k).putSend { t with held := false } else s
  | none => s

/-- The tile as arrivals and collectors of a unit see it: another unit's behaves as one never armed (12 R221, R251). -/
def Core.rtileFor (k : Core) (n u : Nat) : RTile :=
  let t := k.rtile n
  if t.unit = some u then t else { drops := Map.getD 0 t.loose u }

/-- The tile as a unit sees it changes: of one that it has not armed, only its count of dropped arrivals can. -/
def Core.setRtileFor (k : Core) (n u : Nat) (t : RTile) : Core :=
  let old := k.rtile n
  k.setRtile n (if old.unit = some u then t else { old with loose := Map.setD 0 old.loose u t.drops })

/-- One sum after one arrival (12 R240). -/
def sumWith (old : Option (BitVec 128 × BitVec 32 × Bool)) (n : BitVec 64) (x : BitVec 32) : BitVec 128 × BitVec 32 × Bool :=
  match old with
  | none => (n.signExtend 128, x, false)
  | some (m, y, l) =>
    let q := alignAdd 128 (2 ^ 31 - 1) m.toInt y.toInt n.toInt x.toInt
    (BitVec.ofInt 128 q.1, BitVec.ofInt 32 q.2.1, l || q.2.2)

/-- The next partial of a send arrives; after the last, PEND or DROPS moves and the sender's tile counter falls. -/
def State.partialArrives (s : State) (n : Nat) : State :=
  match s.sends.find? (fun t => t.id = n) with
  | none => s
  | some t =>
    match t.elems with
    | [] => s
    | (v, w) :: r =>
      let k := s.core t.dest
      let tl := k.rtileFor t.tile t.unit
      let taken := tl.pend ≠ 0 && tl.tag = t.tag
      let e := 255 - r.length
      let tl := if taken then { tl with sums := Map.put tl.sums e (sumWith (Map.find tl.sums e) v w) } else tl
      let tl := if r.isEmpty then
          (if taken then { tl with pend := tl.pend - 1 }
           else { tl with drops := if tl.drops = BitVec.allOnes 16 then tl.drops else tl.drops + 1 }) else tl
      let s := s.setCore t.dest (k.setRtileFor t.tile t.unit tl)
      let s := if r.isEmpty then s.setCore t.core ((s.core t.core).tileDone t.id) else s
      s.putSend { t with elems := r }

/-- REDACC COLLECT: the sums go to a tile of the caller. -/
def collect (rd : BitVec 5) (x : Ctx) (s : State) (n b : Nat) (exact : Bool) : Res :=
  let g := s.grp x
  let k := s.core x.c
  let tl := k.rtileFor n g.unit
  let own := k.owns g b
  if tl.pend ≠ 0 then .park s (.pendZero n)
  else if own && (k.bank b).state ≠ (if exact then .el else .f) then ttFault 7 b
  else if own && !(k.bank b).heldBy x.sl then ttFault 1 b
  else
    let sum (e : Nat) : Int × Int × Bool := match Map.find tl.sums e with
      | some (m, y, l) => (m.toInt, y.toInt, l)
      | none => (0, 0, false)
    let fitted (e : Nat) : Int × Int × Bool := fit 56 127 (sum e).1 (sum e).2.1
    let loss := (List.range 256).any (fun e => (sum e).2.2 || (exact && (fitted e).2.2))
    let k' :=
      if !own then k
      else if exact then
        k.setExact b (fun e => exactWord (fitted e).1 (fitted e).2.1) ((k.bank b).loss || loss)
      else k.setBank b { k.bank b with
        words := bankWords (fun e => BitVec.ofNat 32 (fp32.round .rne false (.ofInt (sum e).1 (sum e).2.1))) }
    let s' := s.setCore x.c k'
    let s' := if own then s' else s'.setAur x
    .next (s'.setX x rd (BitVec.ofNat 64 (tl.drops.toNat + (if loss then 65536 else 0))))

def redaccBody (rd rs1 rs2 : BitVec 5) (x : Ctx) (s : State) : Res :=
  let g := s.grp x
  let k := s.core x.c
  let v := (g.x x.sp rs1).toNat
  let n := field v 0 1
  let op := field v 1 2
  let count := field v 32 16
  if op = 3 then ttFault 6 0
  else if op = 0 then
    let tl := k.rtile n
    if tl.pend ≠ 0 || (tl.unit.isSome && tl.unit ≠ some g.unit) then .next (s.setX x rd 1)
    else if count = 0 then ttFault 6 0
    else .next ((s.setCore x.c (k.setRtile n {
      unit := some g.unit, pend := BitVec.ofNat 16 count, tag := (g.x x.sp rs2).setWidth 32
      loose := tl.loose.filter (fun e => e.1 ≠ g.unit) })).setX x rd 0)
  else collect rd x s n (field v 8 5) (op = 2)

/-! ## Meanings -/

/-- R243: Claims the n lowest free operand slots. -/
def execTclaim (rd rs1 : BitVec 5) (s : State) : Result :=
  issue (encR 0x10#7 0#5 rs1 0#3 rd 0xB#7) (matReq 1 [rd, rs1]) (tclaimBody rd rs1) s

/-- R243: Releases the group's slots named in the mask. -/
def execTrel (rd rs1 : BitVec 5) (s : State) : Result :=
  issue (encR 0x11#7 0#5 rs1 0#3 rd 0xB#7) (matReq 1 [rd, rs1]) (trelBody rd rs1) s

/-- R244: Tags the slot and appends a slot fill to the matrix queue. -/
def execTload (rs1 rs2 : BitVec 5) (s : State) : Result :=
  issue (encR 0x12#7 rs2 rs1 0#3 0#5 0xB#7) (matReq 1 [rs1, rs2]) (tloadBody rs1 rs2) s

/-- R245: Enters one matrix step into the step queue. -/
def execMma (rs1 : BitVec 5) (s : State) : Result :=
  issue (encR 0x13#7 0#5 rs1 0#3 0#5 0xB#7) (fun x s => stepReq [rs1] x s) (mmaBody rs1) s

/-- R245: Reads an MLOOP descriptor and enters a sequence of fills and steps into the step queue. -/
def execMloop (rs1 : BitVec 5) (s : State) : Result :=
  issue (encR 0x14#7 0#5 rs1 0#3 0#5 0xB#7) (fun x s => stepReq [rs1] x s) (mloopBody rs1) s

/-- R246: Allocates n contiguous free accumulator banks as FP32 or exact tiles. -/
def execAccalloc (rd rs1 : BitVec 5) (s : State) : Result :=
  issue (encR 0x15#7 0#5 rs1 0#3 rd 0xB#7) (matReq 1 [rd, rs1]) (accallocBody rd rs1) s

/-- R246: Frees a range of the unit's banks. -/
def execAccfree (rd rs1 rs2 : BitVec 5) (s : State) : Result :=
  issue (encR 0x16#7 rs2 rs1 0#3 rd 0xB#7) (matReq 1 [rd, rs1, rs2]) (accfreeBody rd rs1 rs2) s

/-- R247: Starts an in-place tile conversion on the engine. -/
def execAcccvt (rd rs1 : BitVec 5) (s : State) : Result :=
  issue (encR 0x17#7 0#5 rs1 0#3 rd 0xB#7) (fun x s => { matReq 1 [rd, rs1] x s with
      takes := true, fmtOk := (x.fmt.map Takes.fp32.accepts).getD true }) (acccvtBody rd rs1) s

/-- R249: Moves a tile's token to another group of the unit and sets NEW. -/
def execTgive (rd rs1 rs2 : BitVec 5) (s : State) : Result :=
  issue (encR 0x18#7 rs2 rs1 0#3 rd 0xB#7) (matReq 1 [rd, rs1, rs2]) (tgiveBody rd rs1 rs2) s

/-- R249: Waits until a named token, or any token with NEW set, is on the caller's side. -/
def execTtake (rd rs1 : BitVec 5) (s : State) : Result :=
  issue (encR 0x19#7 0#5 rs1 0#3 rd 0xB#7) (matReq 1 [rd, rs1]) (ttakeBody rd rs1) s

/-- R250: Takes the Bellwether or parks until it is granted. -/
def execBtake (s : State) : Result :=
  issue (encR 0x1A#7 0#5 0#5 0#3 0#5 0xB#7) (matReq 1 [])
    (fun x s =>
      let k := s.core x.c
      if k.bell = some x.sl then .next s
      else if k.bell.isNone then .next (s.setCore x.c { k with bell := some x.sl })
      else .park s .bell) s

/-- R250: Passes the Bellwether to a named group or releases it. -/
def execBpass (rd rs1 : BitVec 5) (s : State) : Result :=
  issue (encR 0x1B#7 0#5 rs1 0#3 rd 0xB#7) (matReq 1 [rd, rs1]) (bpassBody rd rs1) s

/-- R251: Sends an exact tile's elements as partials to another core of the unit. -/
def execRedsend (rs1 rs2 : BitVec 5) (s : State) : Result :=
  issue (encR 0x40#7 rs2 rs1 0#3 0#5 0xB#7) (matReq 4 [rs1, rs2]) (redsendBody rs1 rs2) s

/-- R251: Arms a reduction tile or collects its sums into a bank. -/
def execRedacc (rd rs1 rs2 : BitVec 5) (s : State) : Result :=
  issue (encR 0x41#7 rs2 rs1 0#3 rd 0xB#7) (matReq 4 [rd, rs1, rs2]) (redaccBody rd rs1 rs2) s

/-- R248: Reads accumulator bank words into lanes. -/
def execAccrd (md : Option (BitVec 32)) (vd : BitVec 6) (xs : BitVec 5) (s : State) : Result :=
  issue (encLX (mBit md) 0x11#7 xs 0#6 vd 0x7B#7) (accReq md vd xs) (accrdBody vd xs) s

/-- R248: Writes lane values into accumulator bank words. -/
def execAccwr (md : Option (BitVec 32)) (vd : BitVec 6) (xs : BitVec 5) (s : State) : Result :=
  issue (encLX (mBit md) 0x12#7 xs 0#6 vd 0x7B#7) (accReq md vd xs) (accwrBody vd xs) s

/-- R233: A fill at the head of the matrix queue starts writing its slot once earlier steps that read the slot have completed and its local lines are present. -/
def execTloadFillStart (c : Nat) (s : State) : Result :=
  .next (s.fillStart c)

/-- R234: Every byte of a slot fill has landed and the tile counter falls. -/
def execTloadFillComplete (c : Nat) (s : State) : Result :=
  .next (s.fillComplete c)

/-- R232: A 16 × 16 step ends after 128 cycles, writes its tile, returns the token when its entry ends, and the next queued step begins. -/
def execMatrixStepComplete (c : Nat) (s : State) : Result :=
  .next (s.stepComplete c)

/-- R236: The MLOOP sequencer starts step t once both of its fills have landed, issuing the fills of the following step. -/
def execMloopStepStart (c : Nat) (s : State) : Result :=
  .next (s.loopStart c)

/-- R247: An in-place tile conversion ends after 32 cycles and the tokens return. -/
def execAcccvtComplete (c : Nat) (bank : BitVec 5) (s : State) : Result :=
  .next (s.cvtComplete c bank.toNat)

/-- R251: The banks of a REDSEND have been read after 128 cycles and the tokens return to the sender. -/
def execRedsendTokenReturn (c n : Nat) (s : State) : Result :=
  .next (s.sendReturn c n)

/-- R240: A partial arrives at a reduction tile and is discarded or added through align_add; after the 256th, PEND or DROPS moves and the sender's tile counter falls. -/
def execRedsendPartialArrival (n : Nat) (s : State) : Result :=
  .next (s.partialArrives n)

end Sys2Proof.Machine
end

