-- ==== Sys2Proof/Machine/Sheepdog.lean ====
section
/-! DEFINITION. Conflict batching: the Sheepdog (15 R298-R313). -/

namespace Sys2Proof.Machine

/-! ## Records and batches (15 R300, R301) -/

def noBody : BitVec 24 := 0xFFFFFF

/-- The bodies a record names, each once. -/
def recBodies (r : BitVec 128) : List (BitVec 24) :=
  ([32, 56, 80, 104].map (fun i => r.extractLsb' i 24)).filter (fun b => b ≠ noBody) |>.eraseDups

/-- Body field i of a record as a lane receives it. -/
def recBody (r : BitVec 128) (i : Nat) : Word32 := (r.extractLsb' (32 + 24 * i) 24).setWidth 32

def Sheep.occupied (h : Sheep) : List (BitVec 24) := h.batches.flatMap (fun b => b.bodies)

/-- The scan of R301: the records taken, what they claim, and the records left, oldest first. -/
def pickBatch (occ : List (BitVec 24)) : Nat → List (BitVec 128) → List (BitVec 128) × List (BitVec 24) × List (BitVec 128)
  | _, [] => ([], [], [])
  | 0, rs => ([], [], rs)
  | c + 1, r :: rs =>
    if (recBodies r).any occ.contains then
      let q := pickBatch occ (c + 1) rs
      (q.1, q.2.1, r :: q.2.2)
    else
      let q := pickBatch (occ ++ recBodies r) c rs
      (r :: q.1, recBodies r ++ q.2.1, q.2.2)

def Sheep.take (h : Sheep) (c hart : Nat) : Sheep × List (BitVec 128) :=
  if 32 ≤ h.batches.length then (h, [])
  else
    let q := pickBatch h.occupied c h.window
    if q.1.isEmpty then (h, [])
    else ({ h with
      window := q.2.2, batches := h.batches ++ [{ holder := hart, count := q.1.length, bodies := q.2.1 }] }, q.1)

/-- 15 Table 15.6. -/
def Sheep.status (h : Sheep) : Word64 :=
  BitVec.ofNat 64 (h.sweeps.toNat * 2 ^ 32 + h.batches.length * 2 ^ 11 + h.window.length)
def notOwner : Word64 := 0x8000000000000000

/-! ## Issue -/

/-- Sheepdog misuse (15 Table 15.3). -/
def misuse (reason index : Nat) : Res := .trap 29 (BitVec.ofNat 64 (index * 256 + reason))

def State.holdsBatch (s : State) (x : Ctx) : Bool :=
  (s.die (dieOf x.c)).sheep.batches.any (fun b => b.holder = hartId x.c x.sl)

/-- No CBTAKE or CBDONE of the group is unanswered (15 R309). -/
def State.sheepIdle (s : State) (c sl : Nat) : Bool :=
  s.flights.all (fun f => !(f.core = c && f.slot = sl && f.what.batching))

def cbpushBody (rd rs1 rs2 : BitVec 5) (x : Ctx) (s : State) : Res :=
  let u := s.unit (s.grp x).unit
  let a := (s.x x rs1).toNat % 2 ^ 32
  let n := (s.x x rs2).toNat % 128
  if n = 0 || 64 < n then .trap 2 (x.word.setWidth 64)
  else if a % 16 ≠ 0 then .trap 4 (BitVec.ofNat 64 a)
  else
    match u.localByte a, u.localByte (a + 16 * n - 1) with
    | some _, some _ =>
      let places := (List.range n).map (fun i => (u.localByte (a + 16 * i)).getD 0)
      let absent := (places.map lineOf).filter (fun l => !s.linePresent l)
      if !absent.isEmpty then parkOrBlock x s (.lines absent)
      else if !(s.core x.c).storesDone x.sl then .wait
      else
        let recs := places.map (fun b => BitVec.ofNat 128 (leValue (s.scratch.bytes b 16)))
        match recs.findIdx? (fun r => (recBodies r).isEmpty) with
        | some k => misuse 3 k
        | none => .next (s.askFor x (.push recs) rd)
    | _, _ => s.violate x none (BitVec.ofNat 64 a)

def cbtakeBody (vd : BitVec 6) (k : BitVec 3) (xs : BitVec 5) (x : Ctx) (s : State) : Res :=
  let g := s.grp x
  if !s.sheepIdle x.c x.sl then .park s .sheepIdle
  else if s.holdsBatch x then misuse 1 0
  else
    let lanes := g.active x.sp
    let c := (g.x x.sp xs).toNat % 64
    let c := min (if c = 0 then g.lanesSeen else c) lanes.length
    if c = 0 then .next s
    else .next (s.askFor x (.take c lanes (g.split x.sp).m0 vd k) 0)

def cbdoneBody (rd : BitVec 5) (x : Ctx) (s : State) : Res :=
  if !s.sheepIdle x.c x.sl then .park s .sheepIdle
  else if !s.holdsBatch x then misuse 2 0
  else .next (s.askFor x .done rd)

/-- CBFLUSH: ARM and QUERY never wait; WAIT and RELEASE park, and hold the instruction at issue in the handler slot. -/
def cbflushBody (rd rs1 : BitVec 5) (x : Ctx) (s : State) : Res :=
  let op : BitVec 2 := (s.x x rs1).extractLsb' 0 2
  let finish (t : State) (vs : List Word64) : State := t.setX x rd (vs.headD 0)
  if op = 1 || op = 3 then .next (s.askFor x (.flush op) rd)
  else if x.handler then
    match s.parkedErrand x (s.spl x) (.flush op) with
    | none => .hold (s.ask x (.flush op) rd)
    | some f =>
      match f.answer with
      | none => .wait
      | some vs =>
        if f.failed then .trapIn (s.dropFlight f.id) 26 (x.word.setWidth 64)
        else .next ((finish (s.dropFlight f.id) vs).dropL1 x.c (s.grp x).asid)
  else parkAsk x s (.flush op) rd finish

/-! ## At the Sheepdog (15 R302, R306, R310-R313) -/

def State.answer (s : State) (f : Flight) (vs : List Word64) : State := s.putFlight { f with answer := some vs }

def State.sheepPush (s : State) (d : Nat) (f : Flight) (recs : List (BitVec 128)) : State :=
  let h := (s.die d).sheep
  let h := if h.owner.isNone then { h with owner := some f.unit, sweeps := 0 } else h
  if (s.unit f.unit).ended then s.dropFlight f.id
  else if h.owner ≠ some f.unit then s.answer f [-1]
  else
    let m := min recs.length (1024 - h.window.length)
    (s.setSheep d { h with window := h.window ++ recs.take m }).answer f [BitVec.ofNat 64 m]

def State.sheepTake (s : State) (d : Nat) (f : Flight) (c : Nat) : State :=
  let h := (s.die d).sheep
  if (s.group f.core f.slot).isNone then s.dropFlight f.id
  else if h.owner ≠ some f.unit then s.putFlight { f with answer := some [], batch := [] }
  else
    let q := h.take c (hartId f.core f.slot)
    (s.setSheep d q.1).putFlight { f with answer := some [], batch := q.2 }

def State.sheepDone (s : State) (d : Nat) (f : Flight) : State :=
  let h := (s.die d).sheep
  let hart := hartId f.core f.slot
  let n := ((h.batches.find? (fun b => b.holder = hart)).map (fun b => b.count)).getD 0
  (s.setSheep d { h with batches := h.batches.filter (fun b => b.holder ≠ hart) }).answer f [BitVec.ofNat 64 n]

/-- CBFLUSH arrives: an operation that waits for a drain of a group slot is performed only when the Sheepdog is drained. -/
def State.sheepFlush (s : State) (d : Nat) (f : Flight) (op : BitVec 2) : State :=
  let h := (s.die d).sheep
  let hart := hartId f.core f.slot
  if h.owner ≠ some f.unit then s.answer f [notOwner]
  else if op = 3 then s.answer f [h.status]
  else if op = 1 then
    if h.drained then (s.raiseDrain hart).answer f [h.status]
    else (s.setSheep d { h with armed := if h.armed.contains hart then h.armed else h.armed ++ [hart] }).answer f [h.status]
  else if h.drained then
    (if op = 2 then s.setSheep d { h with owner := none } else s).answer f [h.status]
  else if f.slot = handlerSlot then s.putFlight { f with answer := some [], failed := true }
  else s.putFlight { f with posted := true }

/-- The release of a batch whose group has finished arrives. -/
def State.sheepRelease (s : State) (d : Nat) (f : Flight) (holder : Nat) : State :=
  let h := (s.die d).sheep
  (s.setSheep d { h with batches := h.batches.filter (fun b => b.holder ≠ holder) }).dropFlight f.id

/-- Two operations come from one issuer: from one split, or the second is the release of their group's batch. -/
def Flight.sameIssuer (g f : Flight) : Bool :=
  g.core = f.core && g.slot = f.slot && (g.split = f.split || (match f.what with | .release _ => true | _ => false))

/-- AN OPERATION ARRIVES at the Sheepdog of its die: after every earlier one of its split has, a release after the split's
earlier accesses. One that stands there until a drain holds no later one back (R302, R313). -/
def State.sheepArrive (s : State) (f : Flight) : State :=
  let d := dieOf f.core
  let first := s.flights.all (fun g => !(g.sameIssuer f && g.what.sheep && g.answer.isNone && !g.posted && decide (g.id < f.id)))
  let done := (s.core f.core).earlierDone f.slot f.id
  if f.answer.isSome || !first then s
  else
    match f.what with
    | .push recs => if done then s.sheepPush d f recs else s
    | .take c _ _ _ _ => s.sheepTake d f c
    | .done => if done then s.sheepDone d f else s
    | .flush op => s.sheepFlush d f op
    | .release holder => if done then s.sheepRelease d f holder else s
    | _ => s

/-- The lanes of a batch, and the mask of the lanes that received a constraint (15 R311). -/
def Group.landBatch (g : Group) (sp : Nat) (lanes : List Nat) (m0 : Word32) (vd : BitVec 6) (k : BitVec 3)
    (recs : List (BitVec 128)) : Group :=
  let got := lanes.zip recs
  let g := got.foldl (fun g e =>
    let g := g.setV vd e.1 (e.2.setWidth 32)
    [0, 1, 2, 3].foldl (fun g i => g.setV (vd + 1 + BitVec.ofNat 6 i) e.1 (recBody e.2 i)) g) g
  g.setRawMask sp k ((g.rawMask sp k &&& ~~~m0) ||| maskOf (fun l => (got.map Prod.fst).contains l))

/-- The answer returns to its group. The handler slot takes the answer of a CBFLUSH up at its instruction; while its unit is being saved
the result is written before the image is (R307), and an instruction whose test has failed is issued again after the resume. -/
def State.sheepAnswer (s : State) (f : Flight) : State :=
  match f.answer with
  | none => s
  | some vs =>
    match f.what with
    | .take _ lanes m0 vd k =>
      match s.group f.core f.slot with
      | none => s.dropFlight f.id
      | some g =>
        let sp := ((g.findPend (fun q => q.id = f.id)).map Prod.fst).getD f.split
        let g := if g.uses sp then g.landBatch sp lanes m0 vd k f.batch else g
        let s := (s.dropFlight f.id).setGroup f.core f.slot g
        (if f.batch.isEmpty then s else s.dropL1 f.core g.asid).landPend f.core f.slot f.id 0
    | .flush op =>
      if op = 1 || op = 3 then (s.dropFlight f.id).landPend f.core f.slot f.id (vs.headD 0)
      else if f.slot = handlerSlot then
        if !(s.unit f.unit).saving then s
        else if f.failed then s.dropFlight f.id
        else ((s.dropFlight f.id).errandX f (vs.headD 0)).dropL1 f.core f.asid |>.completeParked f.core f.slot f.split none
      else
        let s := match s.group f.core f.slot with
          | some g => s.dropL1 f.core g.asid
          | none => s
        s.answerParked f vs (fun t => t.errandX f (vs.headD 0))
    | .push _ => (s.dropFlight f.id).landPend f.core f.slot f.id (vs.headD 0)
    | .done => (s.dropFlight f.id).landPend f.core f.slot f.id (vs.headD 0)
    | _ => s

/-- R310: Pushes constraint records into the Sheepdog window. -/
def execCbpush (rd rs1 rs2 : BitVec 5) (s : State) : Result :=
  issue (encR 0x50#7 rs2 rs1 0#3 rd 0xB#7)
    (fun x s => { engReq 5 [rd, rs1, rs2] with cycles := 1 + (s.x x rs2).toNat % 128 }) (cbpushBody rd rs1 rs2) s

/-- R312: Releases the group's batch. -/
def execCbdone (rd : BitVec 5) (s : State) : Result :=
  issue (encR 0x51#7 0#5 0#5 0#3 rd 0xB#7) (fun x _ => { engReq 5 [rd] with sheep := true, slot := x.handler }) (cbdoneBody rd) s

/-- R313: Waits for, arms, releases or queries a Sheepdog drain. -/
def execCbflush (rd rs1 : BitVec 5) (s : State) : Result :=
  issue (encR 0x52#7 0#5 rs1 0#3 rd 0xB#7) (fun _ _ => { engReq 5 [rd, rs1] with sheep := true }) (cbflushBody rd rs1) s

/-- R311: Takes a body-disjoint batch of constraints, one per active lane. -/
def execCbtake (md : Option (BitVec 32)) (vd : BitVec 6) (k : BitVec 3) (xs : BitVec 5) (s : State) : Result :=
  issue (encLX (mBit md) 0x13#7 xs (0#3 ++ k) vd 0x7B#7)
    (fun x s =>
      let g := s.grp x
      { xs := [xs], vs := [vd.toNat], more := [1, 2, 3, 4].map (vd.toNat + ·), dev := true, eng := 5, fence := some (12, 0), sheep := true
        slot := x.handler, md := md, mdOk := md.getD 0 = 0, cycles := if g.lw16 then 4 else 8 })
    (cbtakeBody vd k xs) s

/-- R302: A CBPUSH, CBTAKE, CBDONE or CBFLUSH operation arrives at the Sheepdog and is performed indivisibly. -/
def execSheepdogArrival (n : Nat) (s : State) : Result :=
  match s.flight n with
  | some f => .next (s.sheepArrive f)
  | none => .next s

/-- R309: The Sheepdog's answer returns to the issuing group and its x or lane result is written. -/
def execSheepdogAnswer (n : Nat) (s : State) : Result :=
  match s.flight n with
  | some f => .next (s.sheepAnswer f)
  | none => .next s

end Sys2Proof.Machine
end

