-- ==== Sys2Proof/Machine/Trace.lean ====
section
/-! DEFINITION. Instruction trace: the records a step emits (19 R360-R364). -/

namespace Sys2Proof.Machine

/-! ## Emission (19 R361, R362, R364) -/

def Core.trace (k : Core) (sl : Nat) : SlotTrace := (Map.find k.traces sl).getD {}
def State.putTrace (s : State) (c sl : Nat) (x : SlotTrace) : State :=
  let k := s.core c
  s.setCore c { k with traces := Map.put k.traces sl x }

/-- The slot is given full detail. -/
def Core.full (k : Core) (sl : Nat) : Bool := k.tFull = sl

def satTo (bits n : Nat) : Nat := min n (2 ^ bits - 1)

/-- 19 Table 19.5. -/
def recordHeader (typ dt c sl sp : Nat) (g : Group) : Nat :=
  typ + sl * 2 ^ 8 + (if sl = handlerSlot then 0 else sp % 4) * 2 ^ 11 + (if g.frames.isEmpty then 0 else 2 ^ 13) +
    (coordOf c).toNat * 2 ^ 14 + g.asid.toNat * 2 ^ 32 + satTo 16 dt * 2 ^ 48

/-- EMIT and LOST of a core. -/
def Core.emitted (k : Core) : Nat := field k.tstat.toNat 0 32
def Core.countRecord (k : Core) (lost : Bool) : Core :=
  if lost then
    { k with tstat := BitVec.ofNat 64 (k.emitted + satTo 16 (field k.tstat.toNat 32 16 + 1) * 2 ^ 32)
             traces := k.traces.map (fun (e : Nat × SlotTrace) => (e.1, { e.2 with since := k.emits, need := [0, 1, 2, 3] })) }
  else { k with emits := k.emits + 1, tstat := BitVec.ofNat 64 ((k.emitted + 1) % 2 ^ 32 + field k.tstat.toNat 32 16 * 2 ^ 32) }

/-- ONE RECORD enters the die's ring, or is dropped; the answer says whether it entered. -/
def State.emit (s : State) (c sl sp : Nat) (g : Group) (typ : Nat) (body : Nat) : State × Bool :=
  let k := s.core c
  let d := s.die (dieOf c)
  let n := 2 ^ (field d.trbase.toNat 0 4 + 7)
  if n ≤ (d.trprod - d.trcons).toNat then
    ((s.setCore c (k.countRecord true)).setDie (dieOf c) { d with trdrop := satInc d.trdrop }, false)
  else
    let dt := if typ = 0xF0 then 0 else s.cycle - k.tlast
    let a := field d.trbase.toNat 12 40 * 4096 + d.trprod.toNat % n * 32
    let s := s.engineStore (dieOf c) a (leBytes (recordHeader typ dt c sl sp g + body) 32)
    ((s.setCore c { k.countRecord false with tlast := s.cycle }).setDie (dieOf c) { s.die (dieOf c) with trprod := d.trprod + 1 }, true)

def heapField (pc : Word64) : Nat := heapOff pc % 2 ^ 28

/-- The SYNC record of a split (19 Table 19.6). -/
def State.syncBody (s : State) (g : Group) (p : Split) : Nat :=
  s.time.toNat * 2 ^ 64 + heapField p.pc * 2 ^ 128 + p.crem.toNat * 2 ^ 156 + (if p.pp then 2 ^ 160 else 0) +
    p.depth.toNat * 2 ^ 161 + g.splits.foldl (fun m e => m + 2 ^ (168 + e.1 % 4)) 0 + p.m0.toNat * 2 ^ 192 + p.lanes.toNat * 2 ^ 224

/-- Splits whose SYNC can be written: in use and in U-mode (19 R360). -/
def SlotTrace.due (x : SlotTrace) (g : Group) : List Nat :=
  x.need.filter (fun k => g.uses k && (g.split k).mode = .u)

/-- The slot emits no other record: the SYNC of a split in use has not been written (19 R364). -/
def SlotTrace.shut (x : SlotTrace) (g : Group) : Bool := x.need.any g.uses

/-- After 4,096 records of the core every split of the slot needs a SYNC (19 R364). -/
def State.renew (s : State) (c sl : Nat) (g : Group) : State :=
  let x := (s.core c).trace sl
  if x.on && decide (x.since + 4096 ≤ (s.core c).emits) then s.putTrace c sl { x with need := g.splits.map Prod.fst } else s

/-- The SYNC records that are due are emitted, until one is dropped. -/
def State.syncSlot (s : State) (c sl : Nat) (g : Group) : State :=
  let s := s.renew c sl g
  ((s.core c).trace sl |>.due g).foldl (fun s sp =>
    let r := s.emit c sl sp g 0xF0 (s.syncBody g (g.split sp))
    if r.2 then
      let x := (r.1.core c).trace sl
      r.1.putTrace c sl { x with need := x.need.filter (fun k => k ≠ sp), since := (r.1.core c).emits }
    else r.1) s

/-- A record of a traced slot, after its SYNC records. -/
def State.record (s : State) (c sl sp : Nat) (g : Group) (typ body : Nat) : State :=
  let s := s.syncSlot c sl g
  if ((s.core c).trace sl).shut g then s else (s.emit c sl sp g typ body).1

/-- The lowest split of a group in U-mode: only such splits emit records (19 R360). -/
def Group.emitter (g : Group) : Option Nat := (g.splits.find? (fun e => e.2.mode = .u)).map Prod.fst

/-! ## SUMMARY (19 R363) -/

def SlotTrace.summary (x : SlotTrace) (now : Nat) : Nat :=
  let f (n i : Nat) : Nat := n % 2 ^ 32 * 2 ^ (64 + 32 * i)
  f x.clauses 0 + f x.insns 1 + f x.waits 2 + f x.parks 3 + f x.holds 4 + f (now - x.start) 5

/-- The SUMMARY record of a slot with a split in U-mode; its counters start again. -/
def State.summarise (s : State) (c sl : Nat) (g : Group) : State :=
  if g.emitter.isNone then s
  else
    let s := s.record c sl 0 g 2 (((s.core c).trace sl).summary s.cycle)
    let x := (s.core c).trace sl
    s.putTrace c sl { x with clauses := 0, insns := 0, waits := 0, parks := 0, holds := 0, start := s.cycle }

/-- A split waits for the counters of a CLH or a WAITC. -/
def State.waitsCounters (s : State) (c sl : Nat) (g : Group) (e : Nat × Split) : Bool :=
  match e.2.wake with
  | some (.counters _ _ _ _) => true
  | some _ => false
  | none =>
    match s.fetch c g e.2.mode e.2.pc with
    | .word w => match clhWaits w with
      | some (t, cp, st, l) => !(s.core c).met sl e.1 t cp st l
      | none => false
    | _ => false

def Split.waitsOther (p : Split) : Bool := match p.wake with
  | some (.counters _ _ _ _) => false
  | some _ => true
  | none => false

/-! ## What a step has done in a slot -/

/-- The step was an instruction of the slot, and that instruction ended its group: no lease end did (03 R61). -/
def State.endedItself (s t : State) (c sl : Nat) (g0 : Group) : Bool :=
  s.atIssue.any (fun x => x.c = c && x.sl = sl) && (t.group c sl).isNone && !(t.unit g0.unit).ended

/-- Instructions of the slot that the step completed: an instruction that a cancel, a lease end or a save forestalls is none. -/
def State.ranIn (s t : State) (c sl : Nat) : Nat :=
  match s.group c sl, t.group c sl with
  | some a, some b => (b.instret - a.instret).toNat
  | some a, none => if s.endedItself t c sl a then 1 else 0
  | _, _ => 0

/-- Splits that need a SYNC: those created by LJALR, those that a merge has given lanes, those back in U-mode (19 R364). -/
def newlyNeeded (g0 g1 : Group) : List Nat :=
  (g1.splits.filter (fun e => match Map.find g0.splits e.1 with
    | none => true
    | some p => e.2.lanes &&& ~~~p.lanes ≠ 0 || (p.mode ≠ .u && e.2.mode = .u))).map Prod.fst

/-- Brings what a traced slot keeps up to this step. -/
def State.followSlot (s t : State) (c sl : Nat) : State :=
  match (if t.traced c sl then t.group c sl else none) with
  | none => t
  | some g =>
    let x := (t.core c).trace sl
    if !x.on then t.putTrace c sl { on := true, need := g.splits.map Prod.fst, start := t.cycle, since := (t.core c).emits }
    else
      let g0 := s.group c sl
      let dt := t.cycle - s.cycle
      let mine := (s.core c).issuing.any (fun i => i.1 = sl)
      let restarted := g0.any (fun a => a.halted && !g.halted)
      let need := if restarted then g.splits.map Prod.fst
        else (x.need ++ (g0.map (fun a => newlyNeeded a g)).getD (g.splits.map Prod.fst)).eraseDups
      t.putTrace c sl { x with
        need := need
        insns := x.insns + s.ranIn t c sl
        clauses := x.clauses + (if (t.core c).issuing.any (fun i => i.1 = sl) && !mine then 1 else 0)
        waits := x.waits + (if g.splits.any (t.waitsCounters c sl g) then dt else 0)
        parks := x.parks + (if g.splits.any (fun e => e.2.waitsOther) then dt else 0)
        holds := x.holds + (if mine then dt else 0) }

/-! ## CLAUSE -/

def OpenClause.body (o : OpenClause) : Nat :=
  heapField o.pc * 2 ^ 64 + o.words % 16 * 2 ^ 92 + (if o.resume then 2 ^ 96 else 0) + o.engc.toNat * 2 ^ 97 +
    satTo 16 o.stall * 2 ^ 104 + o.m0.toNat * 2 ^ 128

/-- The open clause counts the instruction of this step, and ends with the split's hold on the issue slot. -/
def State.followClause (s t : State) (c : Nat) : State :=
  let k := t.core c
  match k.clause with
  | none => t
  | some o =>
    let g0 := s.group c o.slot
    let n := if (s.core c).issuing = some (o.slot, o.split) then s.ranIn t c o.slot else 0
    let p := (g0.map (fun g => g.split o.split)).getD {}
    let o := if 0 < n then { o with pc := if o.words = 0 then p.pc else o.pc, words := o.words + n, engc := p.engc } else o
    if k.issuing = some (o.slot, o.split) then t.setCore c { k with clause := some o }
    else
      let t := t.setCore c { k with clause := none }
      match (match t.group c o.slot with | some g => some g | none => g0) with
      | none => t
      | some g =>
        let t := if 0 < o.words then t.record c o.slot o.split g 1 o.body else t
        let x := (t.core c).trace o.slot
        t.putTrace c o.slot { x with last := Map.put x.last o.split t.cycle }

/-- A split of a full-detail slot in U-mode has taken the issue slot. -/
def State.openClause (s t : State) (c : Nat) : State :=
  let k := t.core c
  match k.issuing with
  | none => t
  | some (sl, sp) =>
    if (s.core c).issuing = some (sl, sp) || !k.full sl || !t.traced c sl then t
    else match t.group c sl with
      | none => t
      | some g =>
        let p := g.split sp
        if p.mode ≠ .u then t
        else
          let last := Map.getD t.cycle (k.trace sl).last sp
          t.setCore c { k with clause := some {
            slot := sl, split := sp, pc := p.pc, words := 0, resume := p.left ≠ 0, engc := p.engc, stall := t.cycle - last, m0 := p.m0 } }

/-! ## TRAP, ACTIVATION, TASK, STOP -/

/-- A trap of a split, and a delivery to the fault entry of the gate frame that the group is in; a return into a frame whose fault entry
has been entered before is none. -/
def State.trapRecords (_s t : State) (c sl : Nat) (g0 g : Group) : State :=
  let w := t.slot c sl
  let t := g.splits.foldl (fun t e =>
    let p := e.2
    if g0.uses e.1 && (g0.split e.1).traps ≠ p.traps then
      let m := p.mode = .m
      let cause := if m then w.mcause else g.csr.scause
      let pc := if m then w.mepc else g.csr.sepc
      let tval := if m then w.mtval else g.csr.stval
      t.record c sl e.1 g 4 (tval.toNat * 2 ^ 64 + heapField pc * 2 ^ 128 + cause.toNat % 256 * 2 ^ 156 +
        (if cause.getLsbD 63 then 2 ^ 164 else 0))
    else t) t
  match g0.frames.getLast?, g.frames.getLast? with
  | some a, some b =>
    if g0.frames.length = g.frames.length && !a.faulted && b.faulted then
      let sp := g.gateSplit
      t.record c sl sp g 4 ((g.x sp 11).toNat * 2 ^ 64 + heapField (g.x sp 12) * 2 ^ 128 + (g.x sp 10).toNat % 256 * 2 ^ 156 + 2 ^ 165)
    else t
  | _, _ => t

/-- 19 Table 19.6, ACTIVATION. -/
def State.activationBody (s : State) (c : Nat) (w : Slot) (u ev : Nat) : Nat :=
  ev * 2 ^ 64 + field w.actHdr.toNat 32 16 * 2 ^ 72 + (coreTag c handlerSlot (w.activation.getD 0)).toNat * 2 ^ 88 +
    field w.actHdr.toNat 0 24 * 2 ^ 112 + field w.actPc.toNat 0 48 * 2 ^ 136 + (s.unit u).index % 2 ^ 32 * 2 ^ 184

/-- The start of an activation, its traps and its returns. -/
def State.activationRecords (s t : State) (c : Nat) (g0 g : Group) : State :=
  let w := t.slot c handlerSlot
  let out (t : State) (ev : Nat) : State := t.record c handlerSlot 0 g 3 (t.activationBody c w g.unit ev)
  if (s.slot c handlerSlot).activation.isNone && w.activation.isSome then out t 0
  else if (g0.split 0).traps ≠ (g.split 0).traps then out t 2
  else if (g0.split 0).trapFrom.isSome && (g.split 0).trapFrom.isNone then out t 3
  else t

/-- HEND: the activation is over and its slot is no longer traced. -/
def State.activationEnd (s t : State) (c : Nat) (g0 : Group) : State :=
  let w0 := s.slot c handlerSlot
  if w0.activation.isSome && (t.slot c handlerSlot).activation.isNone && (t.group c handlerSlot).isSome then
    t.record c handlerSlot 0 g0 3 (t.activationBody c w0 g0.unit 1)
  else t

/-- TDONE of a split in U-mode, which is the one at issue. -/
def State.taskRecord (s t : State) (c sl : Nat) (g : Group) : State :=
  let w := s.slot c sl
  let sp := ((s.core c).issuing.map Prod.snd).getD 0
  if w.tvalid && !(t.slot c sl).tvalid && statusBit (t.core c).tctl 58 && (g.split sp).mode = .u then
    let f (n : Word64) (i : Nat) : Nat := satTo 32 n.toNat * 2 ^ i
    t.record c sl sp g 5 (field w.tfn.toNat 0 48 * 2 ^ 64 + f (w.tdeq - w.tenq) 128 + f (w.tdeq - w.tsrch) 160 + f (s.time - w.tdeq) 192)
  else t

/-- The barrier and its phase of a step of a unit that has ended with this step, and has counted. -/
def State.stepEnded (s t : State) (u : Nat) : Option (BitVec 4 × BitVec 16) :=
  s.dies.findSome? (fun e =>
    (e.2.stepping.find? (fun q => q.1 = u && !(t.die e.1).stepping.contains q && (t.die e.1).dsteps ≠ e.2.dsteps)).map (fun q =>
      (q.2.1, ((t.unit u).bar q.2.1).phase)))

/-- A slot that the debug port, a breakpoint or the end of a step has halted, or that the debug port lets go on. -/
def State.stopRecord (s t : State) (c sl : Nat) (g0 g : Group) : State :=
  match g.emitter with
  | none => t
  | some sp =>
    let out (ev : Nat) (q : BitVec 4 × BitVec 16) : State :=
      t.record c sl sp g 6 (ev * 2 ^ 64 + q.1.toNat * 2 ^ 72 + q.2.toNat * 2 ^ 76 + heapField (g.split sp).pc * 2 ^ 128)
    match s.stepEnded t g.unit with
    | some q => out 2 q
    | none =>
      if g0.halted && !g.halted then out 1 (0, 0)
      else if !g0.halted && g.halted && !t.dies.any (fun e => e.2.stepping.any (fun q => q.1 = g.unit)) then
        out (if s.breaksIn c sl then 3 else 0) (0, 0)
      else t

/-! ## Observation of a step -/

/-- A slot that is traced no longer: its activation or its group has ended, or the trace settings have changed. -/
def State.observeEnd (s t : State) (c sl : Nat) : State :=
  let x := (t.core c).trace sl
  if !x.on then t
  else
    let t := match (if (t.core c).tEn then s.group c sl else none) with
      | some g0 =>
        if sl = handlerSlot then s.activationEnd t c g0
        else if !(t.core c).full sl && (t.group c sl).isNone then
          (t.putTrace c sl { x with insns := x.insns + s.ranIn t c sl }).summarise c sl g0
        else t
      | none => t
    t.putTrace c sl {}

/-- What a step made a slot emit. -/
def State.observeSlot (s t : State) (c sl : Nat) : State :=
  if !t.traced c sl then s.observeEnd t c sl
  else
    match t.group c sl with
    | none => t
    | some g =>
      let t := t.syncSlot c sl g
      match s.group c sl with
      | none => t
      | some g0 =>
        let t := s.trapRecords t c sl g0 g
        let t := if sl = handlerSlot then s.activationRecords t c g0 g else t
        let t := s.taskRecord t c sl g
        let t := s.stopRecord t c sl g0 g
        if !(t.core c).full sl && !g0.halted && g.halted then t.summarise c sl g else t

/-- What was due of a traced slot before this step: the SYNC records of the splits as they stood then, which a trap may have taken out
of U-mode. Those that the step itself makes due are written of the splits as it leaves them. -/
def State.syncBefore (s t : State) (c sl : Nat) : State :=
  match s.group c sl with
  | some g0 => if s.traced c sl && t.traced c sl then t.syncSlot c sl g0 else t
  | none => t

def State.observeCore (s t : State) (c : Nat) : State :=
  let t := s.followClause ([0, 1, 2, 3, 4].foldl (fun t sl => s.syncBefore t c sl) t) c
  let t := [0, 1, 2, 3, 4].foldl (fun t sl => s.followSlot t c sl) t
  let t := [0, 1, 2, 3, 4].foldl (fun t sl => s.observeSlot t c sl) t
  s.openClause t c

/-- THE TRACE of a step from s that ended in t: every core whose trace is on emits its records. -/
def State.observe (s t : State) : State :=
  ((t.cores.filter (fun e => e.2.tEn || !e.2.traces.isEmpty)).map Prod.fst).foldl (fun t c => s.observeCore t c) t

/-- R363: Every 4,096 cycles a summarised traced slot emits a SUMMARY record. -/
def execSummaryPeriod (c sl : Nat) (s : State) : Result :=
  let x := (s.core c).trace sl
  match s.group c sl with
  | none => .next s
  | some g =>
    if !s.traced c sl || !x.on || (s.core c).full sl || g.emitter.isNone then .next s
    else .next ({ s with cycle := max s.cycle (x.start + 4096) }.summarise c sl g)

end Sys2Proof.Machine
end

