-- ==== Sys2Proof/Machine/Dispatch.lean ====
section
/-! DEFINITION. One arm per constructor of Instr: a direct call of its meaning. -/

namespace Sys2Proof.Machine

def exec (i : Instr) (s : State) : Host.Outcome State Fault Refusal :=
  match i with
  | .imageLoad job img => Sys2Proof.Machine.execImageLoad job img s
  | .kernelReplace handle img points => Sys2Proof.Machine.execKernelReplace handle img points s
  | .heapCompaction job old new len => Sys2Proof.Machine.execHeapCompaction job old new len s
  | .textReclaim job old => Sys2Proof.Machine.execTextReclaim job old s
  | .queueDoorbell q p => Sys2Proof.Machine.execQueueDoorbell q p s
  | .qcfgWrite q who v => Sys2Proof.Machine.execQcfgWrite q who v s
  | .qsizeWrite q v => Sys2Proof.Machine.execQsizeWrite q v s
  | .qstatClear q v => Sys2Proof.Machine.execQstatClear q v s
  | .queueEntryDispatch iod => Sys2Proof.Machine.execQueueEntryDispatch iod s
  | .launchAdmit l => Sys2Proof.Machine.execLaunchAdmit l s
  | .leaseInstall l => Sys2Proof.Machine.execLeaseInstall l s
  | .replayStart r => Sys2Proof.Machine.execReplayStart r s
  | .phaseStart job => Sys2Proof.Machine.execPhaseStart job s
  | .unitPlace iod => Sys2Proof.Machine.execUnitPlace iod s
  | .unitRetire u => Sys2Proof.Machine.execUnitRetire u s
  | .doneMessage n => Sys2Proof.Machine.execDoneMessage n s
  | .sealed l => Sys2Proof.Machine.execSealed l s
  | .collectorForward l die => Sys2Proof.Machine.execCollectorForward l die s
  | .launchRetire l => Sys2Proof.Machine.execLaunchRetire l s
  | .counterDecrement n => Sys2Proof.Machine.execCounterDecrement n s
  | .lcCancel level => Sys2Proof.Machine.execLcCancel level s
  | .lcEnd level => Sys2Proof.Machine.execLcEnd level s
  | .fwdTableWrite die idx high v => Sys2Proof.Machine.execFwdTableWrite die idx high v s
  | .icinvWrite die v => Sys2Proof.Machine.execIcinvWrite die v s
  | .icinvComplete die => Sys2Proof.Machine.execIcinvComplete die s
  | .icacheMissFill c sl sp => Sys2Proof.Machine.execIcacheMissFill c sl sp s
  | .issueArbitration c => Sys2Proof.Machine.execIssueArbitration c s
  | .stallWindowExpire c sl sp => Sys2Proof.Machine.execStallWindowExpire c sl sp s
  | .summaryPeriod c sl => Sys2Proof.Machine.execSummaryPeriod c sl s
  | .loadReturn c op lane err => Sys2Proof.Machine.execLoadReturn c op lane err s
  | .storePerformed c op => Sys2Proof.Machine.execStorePerformed c op s
  | .homeRequest c op idx fill err => Sys2Proof.Machine.execHomeRequest c op idx fill err s
  | .peerAccess peer addr write n data => Sys2Proof.Machine.execPeerAccess peer addr write n data s
  | .hostMemWrite port hdm1 off data => Sys2Proof.Machine.execHostMemWrite port hdm1 off data s
  | .hostMemRead port hdm1 off n => Sys2Proof.Machine.execHostMemRead port hdm1 off n s
  | .deferredSelfTest die kind part pass => Sys2Proof.Machine.execDeferredSelfTest die kind part pass s
  | .sfenceVmaComplete c sl sp => Sys2Proof.Machine.execSfenceVmaComplete c sl sp s
  | .snapshot die => Sys2Proof.Machine.execSnapshot die s
  | .snapshotComplete die => Sys2Proof.Machine.execSnapshotComplete die s
  | .wsgateWrite die v => Sys2Proof.Machine.execWsgateWrite die v s
  | .refreshWindowStart g => Sys2Proof.Machine.execRefreshWindowStart g s
  | .refreshWindowEnd g => Sys2Proof.Machine.execRefreshWindowEnd g s
  | .copyFetch c q => Sys2Proof.Machine.execCopyFetch c q s
  | .copyLand c q err line => Sys2Proof.Machine.execCopyLand c q err line s
  | .copyComplete c q => Sys2Proof.Machine.execCopyComplete c q s
  | .qfenceJoinComplete c => Sys2Proof.Machine.execQfenceJoinComplete c s
  | .tloadFillStart c => Sys2Proof.Machine.execTloadFillStart c s
  | .tloadFillComplete c => Sys2Proof.Machine.execTloadFillComplete c s
  | .matrixStepComplete c => Sys2Proof.Machine.execMatrixStepComplete c s
  | .mloopStepStart c => Sys2Proof.Machine.execMloopStepStart c s
  | .acccvtComplete c bank => Sys2Proof.Machine.execAcccvtComplete c bank s
  | .redsendTokenReturn c n => Sys2Proof.Machine.execRedsendTokenReturn c n s
  | .redsendPartialArrival n => Sys2Proof.Machine.execRedsendPartialArrival n s
  | .barrierWatchdogExpire u bar => Sys2Proof.Machine.execBarrierWatchdogExpire u bar s
  | .messageArrival n => Sys2Proof.Machine.execMessageArrival n s
  | .refusalArrival n => Sys2Proof.Machine.execRefusalArrival n s
  | .activationStart c => Sys2Proof.Machine.execActivationStart c s
  | .stealRequestArrival n => Sys2Proof.Machine.execStealRequestArrival n s
  | .stealTimeout c => Sys2Proof.Machine.execStealTimeout c s
  | .stealAnswer n => Sys2Proof.Machine.execStealAnswer n s
  | .sheepdogArrival n => Sys2Proof.Machine.execSheepdogArrival n s
  | .sheepdogAnswer n => Sys2Proof.Machine.execSheepdogAnswer n s
  | .sireqWrite die v => Sys2Proof.Machine.execSireqWrite die v s
  | .timerCompare c sl => Sys2Proof.Machine.execTimerCompare c sl s
  | .preempt die => Sys2Proof.Machine.execPreempt die s
  | .preemptSaveComplete die => Sys2Proof.Machine.execPreemptSaveComplete die s
  | .unitResume die => Sys2Proof.Machine.execUnitResume die s
  | .pctlReservedOp die op => Sys2Proof.Machine.execPctlReservedOp die op s
  | .debugHalt die force => Sys2Proof.Machine.execDebugHalt die force s
  | .debugResume die => Sys2Proof.Machine.execDebugResume die s
  | .debugStep die bar => Sys2Proof.Machine.execDebugStep die bar s
  | .stepEnd die => Sys2Proof.Machine.execStepEnd die s
  | .debugBadRequest die op bar => Sys2Proof.Machine.execDebugBadRequest die op bar s
  | .migrationStart => Sys2Proof.Machine.execMigrationStart s
  | .migrationStop force => Sys2Proof.Machine.execMigrationStop force s
  | .migrationAbort => Sys2Proof.Machine.execMigrationAbort s
  | .migrationReceive => Sys2Proof.Machine.execMigrationReceive s
  | .mgctlReservedOp op => Sys2Proof.Machine.execMgctlReservedOp op s
  | .precopyRound => Sys2Proof.Machine.execPrecopyRound s
  | .stopDrainComplete => Sys2Proof.Machine.execStopDrainComplete s
  | .migrationRecordReceive hdr body tag => Sys2Proof.Machine.execMigrationRecordReceive hdr body tag s
  | .migrationAck ack => Sys2Proof.Machine.execMigrationAck ack s
  | .migrationLinkFail => Sys2Proof.Machine.execMigrationLinkFail s
  | .nonce host req => Sys2Proof.Machine.execNonce host req s
  | .fuseread host req => Sys2Proof.Machine.execFuseread host req s
  | .unlock host req => Sys2Proof.Machine.execUnlock host req s
  | .logread host req => Sys2Proof.Machine.execLogread host req s
  | .measread host req => Sys2Proof.Machine.execMeasread host req s
  | .extend host req => Sys2Proof.Machine.execExtend host req s
  | .lcadv host req => Sys2Proof.Machine.execLcadv host req s
  | .svnraise host req => Sys2Proof.Machine.execSvnraise host req s
  | .mailboxBadCommand host cmd => Sys2Proof.Machine.execMailboxBadCommand host cmd s
  | .nonceExpire => Sys2Proof.Machine.execNonceExpire s
  | .spdmMessage code arg => Sys2Proof.Machine.execSpdmMessage code arg s
  | .report req => Sys2Proof.Machine.execReport req s
  | .keyset slot hbm mig => Sys2Proof.Machine.execKeyset slot hbm mig s
  | .keyclr slot => Sys2Proof.Machine.execKeyclr slot s
  | .powerManagerTick power => Sys2Proof.Machine.execPowerManagerTick power s
  | .thermalLimit temp => Sys2Proof.Machine.execThermalLimit temp s
  | .thermalShutdown temp => Sys2Proof.Machine.execThermalShutdown temp s
  | .bringUp ok => Sys2Proof.Machine.execBringUp ok s
  | .functionLevelReset port => Sys2Proof.Machine.execFunctionLevelReset port s
  | .peerTableWrite idx part v => Sys2Proof.Machine.execPeerTableWrite idx part v s
  | .registerWrite die off who v => Sys2Proof.Machine.execRegisterWrite die off who v s
  | .clh stall wtile wcopy wstore wload engc count => Sys2Proof.Machine.execClh stall wtile wcopy wstore wload engc count s
  | .fmt rnd fd fb fa => Sys2Proof.Machine.execFmt rnd fd fb fa s
  | .waitc tile copy store load => Sys2Proof.Machine.execWaitc tile copy store load s
  | .fenceS ord scope => Sys2Proof.Machine.execFenceS ord scope s
  | .qfence qmask => Sys2Proof.Machine.execQfence qmask s
  | .movyRd rd y => Sys2Proof.Machine.execMovyRd rd y s
  | .movyYn y rs1 => Sys2Proof.Machine.execMovyYn y rs1 s
  | .lq rd rs1 => Sys2Proof.Machine.execLq rd rs1 s
  | .mpush ma => Sys2Proof.Machine.execMpush ma s
  | .melse => Sys2Proof.Machine.execMelse s
  | .mpop => Sys2Proof.Machine.execMpop s
  | .mrd rd ma => Sys2Proof.Machine.execMrd rd ma s
  | .mwr md rs1 => Sys2Proof.Machine.execMwr md rs1 s
  | .mmv md ma => Sys2Proof.Machine.execMmv md ma s
  | .lexit => Sys2Proof.Machine.execLexit s
  | .lbr cond mi off => Sys2Proof.Machine.execLbr cond mi off s
  | .ljalr rd va imm => Sys2Proof.Machine.execLjalr rd va imm s
  | .tclaim rd rs1 => Sys2Proof.Machine.execTclaim rd rs1 s
  | .trel rd rs1 => Sys2Proof.Machine.execTrel rd rs1 s
  | .tload rs1 rs2 => Sys2Proof.Machine.execTload rs1 rs2 s
  | .mma rs1 => Sys2Proof.Machine.execMma rs1 s
  | .mloop rs1 => Sys2Proof.Machine.execMloop rs1 s
  | .accalloc rd rs1 => Sys2Proof.Machine.execAccalloc rd rs1 s
  | .accfree rd rs1 rs2 => Sys2Proof.Machine.execAccfree rd rs1 rs2 s
  | .acccvt rd rs1 => Sys2Proof.Machine.execAcccvt rd rs1 s
  | .tgive rd rs1 rs2 => Sys2Proof.Machine.execTgive rd rs1 rs2 s
  | .ttake rd rs1 => Sys2Proof.Machine.execTtake rd rs1 s
  | .btake => Sys2Proof.Machine.execBtake s
  | .bpass rd rs1 => Sys2Proof.Machine.execBpass rd rs1 s
  | .cpyk rs1 rs2 => Sys2Proof.Machine.execCpyk rs1 rs2 s
  | .barinit rs1 rs2 => Sys2Proof.Machine.execBarinit rs1 rs2 s
  | .bararr rd rs1 rs2 => Sys2Proof.Machine.execBararr rd rs1 rs2 s
  | .barwait rd rs1 rs2 => Sys2Proof.Machine.execBarwait rd rs1 rs2 s
  | .prset rd rs1 rs2 => Sys2Proof.Machine.execPrset rd rs1 rs2 s
  | .prclr rd rs1 rs2 => Sys2Proof.Machine.execPrclr rd rs1 rs2 s
  | .bar rd rs1 => Sys2Proof.Machine.execBar rd rs1 s
  | .discard rd rs1 rs2 => Sys2Proof.Machine.execDiscard rd rs1 rs2 s
  | .barA rd rs1 => Sys2Proof.Machine.execBarA rd rs1 s
  | .barW rd rs1 rs2 => Sys2Proof.Machine.execBarW rd rs1 rs2 s
  | .msend rd rs1 rs2 => Sys2Proof.Machine.execMsend rd rs1 rs2 s
  | .mchan rd rs1 rs2 => Sys2Proof.Machine.execMchan rd rs1 rs2 s
  | .hend => Sys2Proof.Machine.execHend s
  | .spawn rd rs1 rs2 => Sys2Proof.Machine.execSpawn rd rs1 rs2 s
  | .steal rd rs1 rs2 => Sys2Proof.Machine.execSteal rd rs1 rs2 s
  | .tdone rd => Sys2Proof.Machine.execTdone rd s
  | .rfork rd rs1 => Sys2Proof.Machine.execRfork rd rs1 s
  | .join rs1 => Sys2Proof.Machine.execJoin rs1 s
  | .redsend rs1 rs2 => Sys2Proof.Machine.execRedsend rs1 rs2 s
  | .redacc rd rs1 rs2 => Sys2Proof.Machine.execRedacc rd rs1 rs2 s
  | .depdec rd rs1 => Sys2Proof.Machine.execDepdec rd rs1 s
  | .launch rd rs1 rs2 => Sys2Proof.Machine.execLaunch rd rs1 rs2 s
  | .cancel rd rs1 rs2 => Sys2Proof.Machine.execCancel rd rs1 rs2 s
  | .cbpush rd rs1 rs2 => Sys2Proof.Machine.execCbpush rd rs1 rs2 s
  | .cbdone rd => Sys2Proof.Machine.execCbdone rd s
  | .cbflush rd rs1 => Sys2Proof.Machine.execCbflush rd rs1 s
  | .gate rs1 => Sys2Proof.Machine.execGate rs1 s
  | .gret => Sys2Proof.Machine.execGret s
  | .gabort rd rs1 rs2 => Sys2Proof.Machine.execGabort rd rs1 rs2 s
  | .ladd md vd va vb => Sys2Proof.Machine.execLadd md vd va vb s
  | .lsub md vd va vb => Sys2Proof.Machine.execLsub md vd va vb s
  | .lmul md vd va vb => Sys2Proof.Machine.execLmul md vd va vb s
  | .lmulh md vd va vb => Sys2Proof.Machine.execLmulh md vd va vb s
  | .lmulhu md vd va vb => Sys2Proof.Machine.execLmulhu md vd va vb s
  | .lmin md vd va vb => Sys2Proof.Machine.execLmin md vd va vb s
  | .lmax md vd va vb => Sys2Proof.Machine.execLmax md vd va vb s
  | .lminu md vd va vb => Sys2Proof.Machine.execLminu md vd va vb s
  | .lmaxu md vd va vb => Sys2Proof.Machine.execLmaxu md vd va vb s
  | .land md vd va vb => Sys2Proof.Machine.execLand md vd va vb s
  | .lor md vd va vb => Sys2Proof.Machine.execLor md vd va vb s
  | .lxor md vd va vb => Sys2Proof.Machine.execLxor md vd va vb s
  | .landn md vd va vb => Sys2Proof.Machine.execLandn md vd va vb s
  | .lsll md vd va vb => Sys2Proof.Machine.execLsll md vd va vb s
  | .lsrl md vd va vb => Sys2Proof.Machine.execLsrl md vd va vb s
  | .lsra md vd va vb => Sys2Proof.Machine.execLsra md vd va vb s
  | .lbext md vd va vb => Sys2Proof.Machine.execLbext md vd va vb s
  | .lbextu md vd va vb => Sys2Proof.Machine.execLbextu md vd va vb s
  | .lbins md vd va vb => Sys2Proof.Machine.execLbins md vd va vb s
  | .lpopc md vd va => Sys2Proof.Machine.execLpopc md vd va s
  | .lclz md vd va => Sys2Proof.Machine.execLclz md vd va s
  | .lctz md vd va => Sys2Proof.Machine.execLctz md vd va s
  | .lsel md vd va vb => Sys2Proof.Machine.execLsel md vd va vb s
  | .lmov md vd va => Sys2Proof.Machine.execLmov md vd va s
  | .lidx md vd => Sys2Proof.Machine.execLidx md vd s
  | .lcmpEq md k va vb => Sys2Proof.Machine.execLcmpEq md k va vb s
  | .lcmpNe md k va vb => Sys2Proof.Machine.execLcmpNe md k va vb s
  | .lcmpLt md k va vb => Sys2Proof.Machine.execLcmpLt md k va vb s
  | .lcmpGe md k va vb => Sys2Proof.Machine.execLcmpGe md k va vb s
  | .lcmpLtu md k va vb => Sys2Proof.Machine.execLcmpLtu md k va vb s
  | .lcmpGeu md k va vb => Sys2Proof.Machine.execLcmpGeu md k va vb s
  | .laddi md vd va imm => Sys2Proof.Machine.execLaddi md vd va imm s
  | .landi md vd va imm => Sys2Proof.Machine.execLandi md vd va imm s
  | .lori md vd va imm => Sys2Proof.Machine.execLori md vd va imm s
  | .lxori md vd va imm => Sys2Proof.Machine.execLxori md vd va imm s
  | .lslli md vd va sh => Sys2Proof.Machine.execLslli md vd va sh s
  | .lsrli md vd va sh => Sys2Proof.Machine.execLsrli md vd va sh s
  | .lsrai md vd va sh => Sys2Proof.Machine.execLsrai md vd va sh s
  | .lmovi md vd imm => Sys2Proof.Machine.execLmovi md vd imm s
  | .laddx md vd va xs => Sys2Proof.Machine.execLaddx md vd va xs s
  | .lsubx md vd va xs => Sys2Proof.Machine.execLsubx md vd va xs s
  | .lmulx md vd va xs => Sys2Proof.Machine.execLmulx md vd va xs s
  | .lminx md vd va xs => Sys2Proof.Machine.execLminx md vd va xs s
  | .lmaxx md vd va xs => Sys2Proof.Machine.execLmaxx md vd va xs s
  | .landx md vd va xs => Sys2Proof.Machine.execLandx md vd va xs s
  | .lorx md vd va xs => Sys2Proof.Machine.execLorx md vd va xs s
  | .lxorx md vd va xs => Sys2Proof.Machine.execLxorx md vd va xs s
  | .lsllx md vd va xs => Sys2Proof.Machine.execLsllx md vd va xs s
  | .lsrlx md vd va xs => Sys2Proof.Machine.execLsrlx md vd va xs s
  | .lsrax md vd va xs => Sys2Proof.Machine.execLsrax md vd va xs s
  | .lmovx md vd xs => Sys2Proof.Machine.execLmovx md vd xs s
  | .lcmpxEq md k va xs => Sys2Proof.Machine.execLcmpxEq md k va xs s
  | .lcmpxLt md k va xs => Sys2Proof.Machine.execLcmpxLt md k va xs s
  | .lcmpxLtu md k va xs => Sys2Proof.Machine.execLcmpxLtu md k va xs s
  | .lfaddx md vd va xs => Sys2Proof.Machine.execLfaddx md vd va xs s
  | .lfmulx md vd va xs => Sys2Proof.Machine.execLfmulx md vd va xs s
  | .accrd md vd xs => Sys2Proof.Machine.execAccrd md vd xs s
  | .accwr md vd xs => Sys2Proof.Machine.execAccwr md vd xs s
  | .cbtake md vd k xs => Sys2Proof.Machine.execCbtake md vd k xs s
  | .lldc md ww hh vd xs va => Sys2Proof.Machine.execLldc md ww hh vd xs va s
  | .lstc md ww hh vd xs va => Sys2Proof.Machine.execLstc md ww hh vd xs va s
  | .latom md loc oo op vd xs va => Sys2Proof.Machine.execLatom md loc oo op vd xs va s
  | .lld imm wid space vd xs vo => Sys2Proof.Machine.execLld imm wid space vd xs vo s
  | .lst imm wid space vd xs vo => Sys2Proof.Machine.execLst imm wid space vd xs vo s
  | .lfadd md vd va vb => Sys2Proof.Machine.execLfadd md vd va vb s
  | .lfsub md vd va vb => Sys2Proof.Machine.execLfsub md vd va vb s
  | .lfmul md vd va vb => Sys2Proof.Machine.execLfmul md vd va vb s
  | .lfmin md vd va vb => Sys2Proof.Machine.execLfmin md vd va vb s
  | .lfmax md vd va vb => Sys2Proof.Machine.execLfmax md vd va vb s
  | .lfrcp md vd va => Sys2Proof.Machine.execLfrcp md vd va s
  | .lfrsq md vd va => Sys2Proof.Machine.execLfrsq md vd va s
  | .lfexp2 md vd va => Sys2Proof.Machine.execLfexp2 md vd va s
  | .lflog2 md vd va => Sys2Proof.Machine.execLflog2 md vd va s
  | .lfsin md vd va => Sys2Proof.Machine.execLfsin md vd va s
  | .lfcos md vd va => Sys2Proof.Machine.execLfcos md vd va s
  | .lfcvt md vd va esel => Sys2Proof.Machine.execLfcvt md vd va esel s
  | .lfcmpEq md k va vb => Sys2Proof.Machine.execLfcmpEq md k va vb s
  | .lfcmpLt md k va vb => Sys2Proof.Machine.execLfcmpLt md k va vb s
  | .lfcmpLe md k va vb => Sys2Proof.Machine.execLfcmpLe md k va vb s
  | .lfcmpUn md k va vb => Sys2Proof.Machine.execLfcmpUn md k va vb s
  | .lfma md vd va vb vc => Sys2Proof.Machine.execLfma md vd va vb vc s
  | .lfms md vd va vb vc => Sys2Proof.Machine.execLfms md vd va vb vc s
  | .lfnms md vd va vb vc => Sys2Proof.Machine.execLfnms md vd va vb vc s
  | .lfnma md vd va vb vc => Sys2Proof.Machine.execLfnma md vd va vb vc s
  | .lmatch md vd va => Sys2Proof.Machine.execLmatch md vd va s
  | .lmatchF md vd va => Sys2Proof.Machine.execLmatchF md vd va s
  | .lreduceAdd md vd va => Sys2Proof.Machine.execLreduceAdd md vd va s
  | .lreduceMin md vd va => Sys2Proof.Machine.execLreduceMin md vd va s
  | .lreduceMax md vd va => Sys2Proof.Machine.execLreduceMax md vd va s
  | .lreduceFadd md vd va => Sys2Proof.Machine.execLreduceFadd md vd va s
  | .lscanAdd md vd va => Sys2Proof.Machine.execLscanAdd md vd va s
  | .lscanFadd md vd va => Sys2Proof.Machine.execLscanFadd md vd va s
  | .lballot md vd va => Sys2Proof.Machine.execLballot md vd va s
  | .lwhileLt md k va vb => Sys2Proof.Machine.execLwhileLt md k va vb s
  | .lwhileLtu md k va vb => Sys2Proof.Machine.execLwhileLtu md k va vb s
  | .mand kd ka kb => Sys2Proof.Machine.execMand kd ka kb s
  | .mor kd ka kb => Sys2Proof.Machine.execMor kd ka kb s
  | .mxor kd ka kb => Sys2Proof.Machine.execMxor kd ka kb s
  | .mandn kd ka kb => Sys2Proof.Machine.execMandn kd ka kb s
  | .mnot kd ka => Sys2Proof.Machine.execMnot kd ka s
  | .lshflUp md vd va kk => Sys2Proof.Machine.execLshflUp md vd va kk s
  | .lshflDn md vd va kk => Sys2Proof.Machine.execLshflDn md vd va kk s
  | .lshflIdx md vd va vi => Sys2Proof.Machine.execLshflIdx md vd va vi s
  | .lshflXor md vd va kk => Sys2Proof.Machine.execLshflXor md vd va kk s
  | .lui rd imm => Sys2Proof.Machine.execLui rd imm s
  | .auipc rd imm => Sys2Proof.Machine.execAuipc rd imm s
  | .jal rd off => Sys2Proof.Machine.execJal rd off s
  | .jalr rd rs1 imm => Sys2Proof.Machine.execJalr rd rs1 imm s
  | .beq rs1 rs2 off => Sys2Proof.Machine.execBeq rs1 rs2 off s
  | .bne rs1 rs2 off => Sys2Proof.Machine.execBne rs1 rs2 off s
  | .blt rs1 rs2 off => Sys2Proof.Machine.execBlt rs1 rs2 off s
  | .bge rs1 rs2 off => Sys2Proof.Machine.execBge rs1 rs2 off s
  | .bltu rs1 rs2 off => Sys2Proof.Machine.execBltu rs1 rs2 off s
  | .bgeu rs1 rs2 off => Sys2Proof.Machine.execBgeu rs1 rs2 off s
  | .lb rd rs1 imm => Sys2Proof.Machine.execLb rd rs1 imm s
  | .lh rd rs1 imm => Sys2Proof.Machine.execLh rd rs1 imm s
  | .lw rd rs1 imm => Sys2Proof.Machine.execLw rd rs1 imm s
  | .ld rd rs1 imm => Sys2Proof.Machine.execLd rd rs1 imm s
  | .lbu rd rs1 imm => Sys2Proof.Machine.execLbu rd rs1 imm s
  | .lhu rd rs1 imm => Sys2Proof.Machine.execLhu rd rs1 imm s
  | .lwu rd rs1 imm => Sys2Proof.Machine.execLwu rd rs1 imm s
  | .sb rs1 rs2 imm => Sys2Proof.Machine.execSb rs1 rs2 imm s
  | .sh rs1 rs2 imm => Sys2Proof.Machine.execSh rs1 rs2 imm s
  | .sw rs1 rs2 imm => Sys2Proof.Machine.execSw rs1 rs2 imm s
  | .sd rs1 rs2 imm => Sys2Proof.Machine.execSd rs1 rs2 imm s
  | .addi rd rs1 imm => Sys2Proof.Machine.execAddi rd rs1 imm s
  | .slti rd rs1 imm => Sys2Proof.Machine.execSlti rd rs1 imm s
  | .sltiu rd rs1 imm => Sys2Proof.Machine.execSltiu rd rs1 imm s
  | .xori rd rs1 imm => Sys2Proof.Machine.execXori rd rs1 imm s
  | .ori rd rs1 imm => Sys2Proof.Machine.execOri rd rs1 imm s
  | .andi rd rs1 imm => Sys2Proof.Machine.execAndi rd rs1 imm s
  | .slli rd rs1 sh => Sys2Proof.Machine.execSlli rd rs1 sh s
  | .srli rd rs1 sh => Sys2Proof.Machine.execSrli rd rs1 sh s
  | .srai rd rs1 sh => Sys2Proof.Machine.execSrai rd rs1 sh s
  | .add rd rs1 rs2 => Sys2Proof.Machine.execAdd rd rs1 rs2 s
  | .sll rd rs1 rs2 => Sys2Proof.Machine.execSll rd rs1 rs2 s
  | .slt rd rs1 rs2 => Sys2Proof.Machine.execSlt rd rs1 rs2 s
  | .sltu rd rs1 rs2 => Sys2Proof.Machine.execSltu rd rs1 rs2 s
  | .xor rd rs1 rs2 => Sys2Proof.Machine.execXor rd rs1 rs2 s
  | .srl rd rs1 rs2 => Sys2Proof.Machine.execSrl rd rs1 rs2 s
  | .or rd rs1 rs2 => Sys2Proof.Machine.execOr rd rs1 rs2 s
  | .and rd rs1 rs2 => Sys2Proof.Machine.execAnd rd rs1 rs2 s
  | .sub rd rs1 rs2 => Sys2Proof.Machine.execSub rd rs1 rs2 s
  | .sra rd rs1 rs2 => Sys2Proof.Machine.execSra rd rs1 rs2 s
  | .addiw rd rs1 imm => Sys2Proof.Machine.execAddiw rd rs1 imm s
  | .slliw rd rs1 sh => Sys2Proof.Machine.execSlliw rd rs1 sh s
  | .srliw rd rs1 sh => Sys2Proof.Machine.execSrliw rd rs1 sh s
  | .sraiw rd rs1 sh => Sys2Proof.Machine.execSraiw rd rs1 sh s
  | .addw rd rs1 rs2 => Sys2Proof.Machine.execAddw rd rs1 rs2 s
  | .sllw rd rs1 rs2 => Sys2Proof.Machine.execSllw rd rs1 rs2 s
  | .srlw rd rs1 rs2 => Sys2Proof.Machine.execSrlw rd rs1 rs2 s
  | .subw rd rs1 rs2 => Sys2Proof.Machine.execSubw rd rs1 rs2 s
  | .sraw rd rs1 rs2 => Sys2Proof.Machine.execSraw rd rs1 rs2 s
  | .fence rd rs1 fm pred succ => Sys2Proof.Machine.execFence rd rs1 fm pred succ s
  | .fenceI rd rs1 imm => Sys2Proof.Machine.execFenceI rd rs1 imm s
  | .ecall => Sys2Proof.Machine.execEcall s
  | .ebreak => Sys2Proof.Machine.execEbreak s
  | .mul rd rs1 rs2 => Sys2Proof.Machine.execMul rd rs1 rs2 s
  | .mulh rd rs1 rs2 => Sys2Proof.Machine.execMulh rd rs1 rs2 s
  | .mulhsu rd rs1 rs2 => Sys2Proof.Machine.execMulhsu rd rs1 rs2 s
  | .mulhu rd rs1 rs2 => Sys2Proof.Machine.execMulhu rd rs1 rs2 s
  | .div rd rs1 rs2 => Sys2Proof.Machine.execDiv rd rs1 rs2 s
  | .divu rd rs1 rs2 => Sys2Proof.Machine.execDivu rd rs1 rs2 s
  | .rem rd rs1 rs2 => Sys2Proof.Machine.execRem rd rs1 rs2 s
  | .remu rd rs1 rs2 => Sys2Proof.Machine.execRemu rd rs1 rs2 s
  | .mulw rd rs1 rs2 => Sys2Proof.Machine.execMulw rd rs1 rs2 s
  | .divw rd rs1 rs2 => Sys2Proof.Machine.execDivw rd rs1 rs2 s
  | .divuw rd rs1 rs2 => Sys2Proof.Machine.execDivuw rd rs1 rs2 s
  | .remw rd rs1 rs2 => Sys2Proof.Machine.execRemw rd rs1 rs2 s
  | .remuw rd rs1 rs2 => Sys2Proof.Machine.execRemuw rd rs1 rs2 s
  | .lrW aq rl rd rs1 => Sys2Proof.Machine.execLrW aq rl rd rs1 s
  | .lrD aq rl rd rs1 => Sys2Proof.Machine.execLrD aq rl rd rs1 s
  | .scW aq rl rd rs1 rs2 => Sys2Proof.Machine.execScW aq rl rd rs1 rs2 s
  | .scD aq rl rd rs1 rs2 => Sys2Proof.Machine.execScD aq rl rd rs1 rs2 s
  | .amoswapW aq rl rd rs1 rs2 => Sys2Proof.Machine.execAmoswapW aq rl rd rs1 rs2 s
  | .amoswapD aq rl rd rs1 rs2 => Sys2Proof.Machine.execAmoswapD aq rl rd rs1 rs2 s
  | .amoaddW aq rl rd rs1 rs2 => Sys2Proof.Machine.execAmoaddW aq rl rd rs1 rs2 s
  | .amoaddD aq rl rd rs1 rs2 => Sys2Proof.Machine.execAmoaddD aq rl rd rs1 rs2 s
  | .amoxorW aq rl rd rs1 rs2 => Sys2Proof.Machine.execAmoxorW aq rl rd rs1 rs2 s
  | .amoxorD aq rl rd rs1 rs2 => Sys2Proof.Machine.execAmoxorD aq rl rd rs1 rs2 s
  | .amoandW aq rl rd rs1 rs2 => Sys2Proof.Machine.execAmoandW aq rl rd rs1 rs2 s
  | .amoandD aq rl rd rs1 rs2 => Sys2Proof.Machine.execAmoandD aq rl rd rs1 rs2 s
  | .amoorW aq rl rd rs1 rs2 => Sys2Proof.Machine.execAmoorW aq rl rd rs1 rs2 s
  | .amoorD aq rl rd rs1 rs2 => Sys2Proof.Machine.execAmoorD aq rl rd rs1 rs2 s
  | .amominW aq rl rd rs1 rs2 => Sys2Proof.Machine.execAmominW aq rl rd rs1 rs2 s
  | .amominD aq rl rd rs1 rs2 => Sys2Proof.Machine.execAmominD aq rl rd rs1 rs2 s
  | .amomaxW aq rl rd rs1 rs2 => Sys2Proof.Machine.execAmomaxW aq rl rd rs1 rs2 s
  | .amomaxD aq rl rd rs1 rs2 => Sys2Proof.Machine.execAmomaxD aq rl rd rs1 rs2 s
  | .amominuW aq rl rd rs1 rs2 => Sys2Proof.Machine.execAmominuW aq rl rd rs1 rs2 s
  | .amominuD aq rl rd rs1 rs2 => Sys2Proof.Machine.execAmominuD aq rl rd rs1 rs2 s
  | .amomaxuW aq rl rd rs1 rs2 => Sys2Proof.Machine.execAmomaxuW aq rl rd rs1 rs2 s
  | .amomaxuD aq rl rd rs1 rs2 => Sys2Proof.Machine.execAmomaxuD aq rl rd rs1 rs2 s
  | .csrrw rd rs1 csr => Sys2Proof.Machine.execCsrrw rd rs1 csr s
  | .csrrs rd rs1 csr => Sys2Proof.Machine.execCsrrs rd rs1 csr s
  | .csrrc rd rs1 csr => Sys2Proof.Machine.execCsrrc rd rs1 csr s
  | .csrrwi rd uimm csr => Sys2Proof.Machine.execCsrrwi rd uimm csr s
  | .csrrsi rd uimm csr => Sys2Proof.Machine.execCsrrsi rd uimm csr s
  | .csrrci rd uimm csr => Sys2Proof.Machine.execCsrrci rd uimm csr s
  | .sh1add rd rs1 rs2 => Sys2Proof.Machine.execSh1add rd rs1 rs2 s
  | .sh2add rd rs1 rs2 => Sys2Proof.Machine.execSh2add rd rs1 rs2 s
  | .sh3add rd rs1 rs2 => Sys2Proof.Machine.execSh3add rd rs1 rs2 s
  | .addUw rd rs1 rs2 => Sys2Proof.Machine.execAddUw rd rs1 rs2 s
  | .sh1addUw rd rs1 rs2 => Sys2Proof.Machine.execSh1addUw rd rs1 rs2 s
  | .sh2addUw rd rs1 rs2 => Sys2Proof.Machine.execSh2addUw rd rs1 rs2 s
  | .sh3addUw rd rs1 rs2 => Sys2Proof.Machine.execSh3addUw rd rs1 rs2 s
  | .slliUw rd rs1 sh => Sys2Proof.Machine.execSlliUw rd rs1 sh s
  | .andn rd rs1 rs2 => Sys2Proof.Machine.execAndn rd rs1 rs2 s
  | .orn rd rs1 rs2 => Sys2Proof.Machine.execOrn rd rs1 rs2 s
  | .xnor rd rs1 rs2 => Sys2Proof.Machine.execXnor rd rs1 rs2 s
  | .min rd rs1 rs2 => Sys2Proof.Machine.execMin rd rs1 rs2 s
  | .minu rd rs1 rs2 => Sys2Proof.Machine.execMinu rd rs1 rs2 s
  | .max rd rs1 rs2 => Sys2Proof.Machine.execMax rd rs1 rs2 s
  | .maxu rd rs1 rs2 => Sys2Proof.Machine.execMaxu rd rs1 rs2 s
  | .rol rd rs1 rs2 => Sys2Proof.Machine.execRol rd rs1 rs2 s
  | .ror rd rs1 rs2 => Sys2Proof.Machine.execRor rd rs1 rs2 s
  | .rolw rd rs1 rs2 => Sys2Proof.Machine.execRolw rd rs1 rs2 s
  | .rorw rd rs1 rs2 => Sys2Proof.Machine.execRorw rd rs1 rs2 s
  | .zextH rd rs1 => Sys2Proof.Machine.execZextH rd rs1 s
  | .clz rd rs1 => Sys2Proof.Machine.execClz rd rs1 s
  | .ctz rd rs1 => Sys2Proof.Machine.execCtz rd rs1 s
  | .cpop rd rs1 => Sys2Proof.Machine.execCpop rd rs1 s
  | .sextB rd rs1 => Sys2Proof.Machine.execSextB rd rs1 s
  | .sextH rd rs1 => Sys2Proof.Machine.execSextH rd rs1 s
  | .rori rd rs1 sh => Sys2Proof.Machine.execRori rd rs1 sh s
  | .orcB rd rs1 => Sys2Proof.Machine.execOrcB rd rs1 s
  | .rev8 rd rs1 => Sys2Proof.Machine.execRev8 rd rs1 s
  | .clzw rd rs1 => Sys2Proof.Machine.execClzw rd rs1 s
  | .ctzw rd rs1 => Sys2Proof.Machine.execCtzw rd rs1 s
  | .cpopw rd rs1 => Sys2Proof.Machine.execCpopw rd rs1 s
  | .roriw rd rs1 sh => Sys2Proof.Machine.execRoriw rd rs1 sh s
  | .czeroEqz rd rs1 rs2 => Sys2Proof.Machine.execCzeroEqz rd rs1 rs2 s
  | .czeroNez rd rs1 rs2 => Sys2Proof.Machine.execCzeroNez rd rs1 rs2 s
  | .sret => Sys2Proof.Machine.execSret s
  | .mret => Sys2Proof.Machine.execMret s
  | .wfi => Sys2Proof.Machine.execWfi s
  | .sfenceVma rs1 rs2 => Sys2Proof.Machine.execSfenceVma rs1 rs2 s
  | .divRemResultReturn c sl sp => Sys2Proof.Machine.execDivRemResultReturn c sl sp s
  | .engineResultReturn n => Sys2Proof.Machine.execEngineResultReturn n s
  | .idleMemoryPatrol at_ corrected pass => Sys2Proof.Machine.execIdleMemoryPatrol at_ corrected pass s
  | .mainPowerLoss => Sys2Proof.Machine.execMainPowerLoss s

end Sys2Proof.Machine
end

