-- ==== Sys2Proof/Machine/Progress.lean ====
section
/-! DEFINITION. What one step does: the next event of the agenda, else the next instruction of the focus core, else progress of
that core's memory accesses and its arbitration (05 R83, R88, R102; 06 R123; log 2); and how a word is laid out where the next
step fetches it. -/

namespace Sys2Proof.Machine

/-! ## The next instruction (05 R83, R87-R92, R102) -/

/-- A word that no table assigns: illegal-instruction, charged to a prefix before it (05 R89, R92). -/
def State.illegalWord (s : State) (x : Ctx) (w : Word32) : State :=
  let p := s.spl x
  match p.fmt with
  | some f => s.raise x.c x.sl x.sp 2 ((fmtWord f).setWidth 64) (p.pc - 4) (if p.left = 0 then 2 else p.left + 1)
  | none => s.raise x.c x.sl x.sp 2 (w.setWidth 64) p.pc p.remaining

/-- A fetch fault on the word at an address, of the instruction at the pc. Where the first word of a clause cannot be fetched, no clause
has begun, and CREM is 0 (06 R126). -/
def State.fetchFault (s : State) (x : Ctx) (code : Nat) (va : Word64) : State :=
  let p := s.spl x
  s.raise x.c x.sl x.sp code va p.pc (if va = p.pc && p.left = 0 && p.fmt.isNone then 0 else p.remaining)

/-- The pc becomes the redirected address, which costs 8 cycles (05 R83). -/
def State.redirectPc (s : State) (x : Ctx) (pc : Word64) : State :=
  { s.setSpl x { s.spl x with pc := pc } with cycle := s.cycle + 8 }

/-- What the issue stage meets at the pc of the issuing split: the words of an instruction, or what takes its place. -/
inductive AtPc where
  | words (w md : Word32)
  | broken
  | redirect (pc : Word64)
  | fault (code : Nat) (va : Word64)
  /-- the word at va cannot be read: zero in its place, after the word w of the instruction, if it is not the first (18 R349) -/
  | lost (va : Word64) (pl : Place) (f : Flaw) (w : Word32)
deriving DecidableEq, Repr

/-- The modifier word after a lane instruction, followed through the forwarding table. -/
def State.fetchModifier (s : State) (x : Ctx) (va : Word64) : Fetched :=
  match s.fetch x.c (s.grp x) (s.spl x).mode va with
  | .redirect q => s.fetch x.c (s.grp x) (s.spl x).mode q
  | r => r

/-- The fetch of a word from memory meets the error that stands in its way. -/
def State.fetchFlaw (s : State) (x : Ctx) (va : Word64) : Option (Place × Flaw) :=
  if (Map.find s.icache (tagKey (flockOf x.c) (s.grp x).asid va)).isSome then none
  else
    match s.translate (s.grp x).asid va .fetch (s.spl x).mode false false with
    | .ok pl _ => (s.flawAt x pl true).map (fun f => (pl, f))
    | _ => none

noncomputable def State.atPc (s : State) (x : Ctx) : AtPc :=
  let p := s.spl x
  if s.atBreak x then .broken
  else
    match s.fetch x.c (s.grp x) p.mode p.pc with
    | .redirect pc => .redirect pc
    | .fault code => .fault code p.pc
    | .word w =>
      match s.fetchFlaw x p.pc with
      | some q => .lost p.pc q.1 q.2 0
      | none =>
      if wantsModifier w then
        match s.fetchModifier x (p.pc + 4) with
        | .word md =>
          match s.fetchFlaw x (p.pc + 4) with
          | some q => .lost (p.pc + 4) q.1 q.2 w
          | none => .words w md
        | .fault code => .fault code (p.pc + 4)
        | .redirect _ => .fault 1 (p.pc + 4)
      else .words w 0

/-- THE NEXT INSTRUCTION of the split at issue. -/
noncomputable def State.issueStep (s : State) (x : Ctx) : Result :=
  match s.atPc x with
  | .broken => .next (s.takeBreak x)
  | .redirect pc => .next (s.redirectPc x pc)
  | .fault code va => .next (s.fetchFault x code va)
  | .lost va pl f w =>
    let t := s.meetFlaw x va pl false f
    match decodeWord w 0 with
    | none => .next (t.illegalWord x w)
    | some i => exec i t
  | .words w md =>
    match decodeWord w md with
    | none => .next (s.illegalWord x w)
    | some i => exec i s

/-! ## Progress without an instruction (log 2) -/

/-- The oldest operation of a core: its next access is performed, or its result lands and it is counted no more. -/
def State.performOldest (s : State) (c : Nat) : State :=
  match (s.core c).ops with
  | [] => s
  | o :: _ =>
    if o.accs.any (fun a => !a.done) then
      s.perform c o (o.accs.findIdx (fun a => !a.done)) true
    else
      let s := (o.accs.foldl (fun s a => if o.load && !a.wrote then s.landLane c o a else s) s).landHart c o
      (s.putOp c { o with
        load := false, store := false, into := none, accs := o.accs.map (fun a => { a with wrote := true }) }).reapOp c o.id

/-- The core after a core, in the order of their numbers, around to the first. -/
def State.nextCore (s : State) (c : Nat) : Nat :=
  let ks := s.cores.map Prod.fst
  (ks.find? (fun k => decide (c < k))).getD (ks.headD c)

/-- ONE STEP OF PROGRESS of the focus core; the next core comes to the focus unless an instruction waits here. -/
def State.progress (s : State) : State :=
  let c := s.focus
  let s := s.performOldest c
  let s := s.arbitrate c
  let s := match (s.core c).issuing with
    | some _ => s.setCore c { s.core c with waiting := false }
    | none => { s with focus := s.nextCore c }
  { s with cycle := s.cycle + 1 }

/-! ## One step -/

/-- A step in progress of a debugged unit halts those who have arrived, and the trace records the step (19 R363, R368). -/
def State.concluded (s : State) (r : Result) : Result :=
  match r with
  | .next t => .next (s.observe t.stepHalts)
  | r => r

/-- Power is applied: the event is a step of bring-up. -/
def powersUp : Instr → Bool
  | .bringUp _ => true
  | _ => false

/-- Without main power nothing runs until it is applied again (22 R410, R411). -/
noncomputable def State.stepCore (s : State) : Result :=
  match s.agenda with
  | e :: rest =>
    if (encode e).isEmpty && (!s.power.off || powersUp e) then exec e { s with agenda := rest } else .next { s with agenda := rest }
  | [] =>
    if s.power.off then .next s
    else
    match s.atIssue with
    | some x => s.issueStep x
    | none => .next s.progress

noncomputable def State.oneStep (s : State) : Result := s.concluded s.stepCore

/-! ## Placing a word where the next step fetches it -/

/-- A group of one unit in slot 0 of core 0, in U-mode at the start of the heap window, with the issue slot: what bringing up
the module, registering a job, loading its kernel and placing a unit of it leave behind, as far as a fetch needs it. -/
def State.staged (s : State) : State :=
  let p : Split := { pc := 0x7F0000000000, m0 := BitVec.allOnes 32, lanes := BitVec.allOnes 32 }
  let g : Group := { unit := 1, vregs := 64, splits := [(0, p)], csr := { satp := 0x9000100000000000 } }
  let s := s.setGroup 0 0 g
  let s := s.setCore 0 { s.core 0 with issuing := some (0, 0) }
  let u : Unit := { s.unit 1 with cores := [0], slots := [0], vregs := 64, asid := 1 }
  { s.setUnit 1 u with focus := 0 }

/-- A leaf for a page with every permission, on a frame of the page's home. -/
def stagedLeaf (va : Word64) (md : Mode) : Word64 :=
  BitVec.ofNat 64 ((homeOf va * 2 ^ 26 + 5 + va.toNat / 4096 % 2) * 1024 + (if md = .u then 0xDF else 0xCF))

/-- One word at an address that the split at issue fetches from: mapped, loaded text, not cached, not forwarded. -/
def State.putWord (s : State) (x : Ctx) (va : Word64) (w : Word32) : State :=
  let g := s.grp x
  let md := (s.spl x).mode
  let s := match s.translate g.asid va .fetch md false false with
    | .ok _ _ => s
    | _ => { s with pins := Map.put s.pins (g.asid.toNat * 2 ^ 36 + (va.extractLsb' 12 36).toNat) (stagedLeaf va md, 0) }
  let s := match s.translate g.asid va .fetch md false false with
    | .ok (.hbm pa) _ => { s with hbm := s.hbm.setBytes pa (leBytes w.toNat 4) }
    | .ok pl _ => s.writePlace pl (leBytes w.toNat 4)
    | _ => s
  let s := { s with icache := Map.del s.icache (tagKey (flockOf x.c) g.asid va) }
  let d := s.die (dieOf x.c)
  let s := if inHeap va && (d.forward g.asid (heapOff va)).isSome then s.setDie (dieOf x.c) { d with fwd := [] } else s
  if inHeap va && !s.textAt g.asid (heapOff va) then
    { s with extents := { job := 0, asid := g.asid, off := heapOff va, len := 4, text := 4 } :: s.extents }
  else s

/-- The split at issue, or a staged one where there is none or its pc cannot be fetched from. -/
def State.stage (s : State) : State :=
  let s := { s with agenda := [], power := { s.power with off := false } }
  match s.current with
  | some x => if (s.spl x).mode = .u && !inHeap (s.spl x).pc then s.staged else s
  | none => s.staged

/-- Two words laid out from the pc of the split at issue on. -/
def State.withWords (s : State) (w md : Word32) : State :=
  let s := s.stage
  let s := s.setCore s.focus { s.core s.focus with waiting := false }
  match s.current with
  | none => s
  | some x =>
    let p := s.spl x
    let s := if s.breaks x p.pc then s.setSpl x { p with skipBrk := true } else s
    (s.putWord x p.pc w).putWord x (p.pc + 4) md

end Sys2Proof.Machine
end

