-- ==== Sys2Proof/Machine/Step.lean ====
section
/-! DEFINITION. The step function, and a state in which the next step runs a given word. -/

noncomputable section

namespace Sys2Proof.Machine

/-- ONE STEP of the machine. -/
def step (s : State) : Host.Outcome State Fault Refusal := s.oneStep

/-- The state with an instruction of the opcode table where the next step fetches it. -/
def State.withFetchWord (s : State) (nbits w : Nat) : State :=
  let v := BitVec.ofNat 64 (w % 2 ^ nbits)
  s.withWords (v.extractLsb' 0 32) (v.extractLsb' 32 32)

end Sys2Proof.Machine

end
end

