-- ==== Sys2Proof/WellFormed.lean ====
section
/-! DEFINITION. Well-formed instructions: what the spec asks of the fields of an encoding whatever the state. A word that
breaks one of these checks decodes, and its meaning raises illegal-instruction (05 R89-R93, R95-R100, 07 Table 7.3, 14
Table 14.5). The rows that are events carry no encoding and no check. -/

namespace Sys2Proof

open Sys2Proof.Machine

/-- The checks of an encoding that no state is needed for. -/
def Instr.wf (i : Instr) : Bool :=
  match i with
  | .imageLoad .. => true
  | .kernelReplace .. => true
  | .heapCompaction .. => true
  | .textReclaim .. => true
  | .queueDoorbell .. => true
  | .qcfgWrite .. => true
  | .qsizeWrite .. => true
  | .qstatClear .. => true
  | .queueEntryDispatch .. => true
  | .launchAdmit .. => true
  | .leaseInstall .. => true
  | .replayStart .. => true
  | .phaseStart .. => true
  | .unitPlace .. => true
  | .unitRetire .. => true
  | .doneMessage .. => true
  | .sealed .. => true
  | .collectorForward .. => true
  | .launchRetire .. => true
  | .counterDecrement .. => true
  | .lcCancel .. => true
  | .lcEnd .. => true
  | .fwdTableWrite .. => true
  | .icinvWrite .. => true
  | .icinvComplete .. => true
  | .icacheMissFill .. => true
  | .issueArbitration .. => true
  | .stallWindowExpire .. => true
  | .summaryPeriod .. => true
  | .loadReturn .. => true
  | .storePerformed .. => true
  | .homeRequest .. => true
  | .peerAccess .. => true
  | .hostMemWrite .. => true
  | .hostMemRead .. => true
  | .deferredSelfTest .. => true
  | .sfenceVmaComplete .. => true
  | .snapshot .. => true
  | .snapshotComplete .. => true
  | .wsgateWrite .. => true
  | .refreshWindowStart .. => true
  | .refreshWindowEnd .. => true
  | .copyFetch .. => true
  | .copyLand .. => true
  | .copyComplete .. => true
  | .qfenceJoinComplete .. => true
  | .tloadFillStart .. => true
  | .tloadFillComplete .. => true
  | .matrixStepComplete .. => true
  | .mloopStepStart .. => true
  | .acccvtComplete .. => true
  | .redsendTokenReturn .. => true
  | .redsendPartialArrival .. => true
  | .barrierWatchdogExpire .. => true
  | .messageArrival .. => true
  | .refusalArrival .. => true
  | .activationStart .. => true
  | .stealRequestArrival .. => true
  | .stealTimeout .. => true
  | .stealAnswer .. => true
  | .sheepdogArrival .. => true
  | .sheepdogAnswer .. => true
  | .sireqWrite .. => true
  | .timerCompare .. => true
  | .preempt .. => true
  | .preemptSaveComplete .. => true
  | .unitResume .. => true
  | .pctlReservedOp .. => true
  | .debugHalt .. => true
  | .debugResume .. => true
  | .debugStep .. => true
  | .stepEnd .. => true
  | .debugBadRequest .. => true
  | .migrationStart => true
  | .migrationStop .. => true
  | .migrationAbort => true
  | .migrationReceive => true
  | .mgctlReservedOp .. => true
  | .precopyRound => true
  | .stopDrainComplete => true
  | .migrationRecordReceive .. => true
  | .migrationAck .. => true
  | .migrationLinkFail => true
  | .nonce .. => true
  | .fuseread .. => true
  | .unlock .. => true
  | .logread .. => true
  | .measread .. => true
  | .extend .. => true
  | .lcadv .. => true
  | .svnraise .. => true
  | .mailboxBadCommand .. => true
  | .nonceExpire => true
  | .spdmMessage .. => true
  | .report .. => true
  | .keyset .. => true
  | .keyclr .. => true
  | .powerManagerTick .. => true
  | .thermalLimit .. => true
  | .thermalShutdown .. => true
  | .bringUp .. => true
  | .functionLevelReset .. => true
  | .peerTableWrite .. => true
  | .registerWrite .. => true
  | .clh _ _ _ _ _ _ count => count ≠ 0
  | .fmt rnd fd fb fa => fmtListed fa && fmtListed fb && fmtListed fd && rndListed rnd
  | .waitc .. => true
  | .fenceS ord _ => ord ≠ 3
  | .qfence .. => true
  | .movyRd .. => true
  | .movyYn .. => true
  | .lq _ rs1 => decide (rs1.toNat < 9)
  | .mpush .. => true
  | .melse => true
  | .mpop => true
  | .mrd .. => true
  | .mwr .. => true
  | .mmv .. => true
  | .lexit => true
  | .lbr cond _ _ => decide (cond.toNat < 4)
  | .ljalr .. => true
  | .tclaim .. => true
  | .trel .. => true
  | .tload .. => true
  | .mma .. => true
  | .mloop .. => true
  | .accalloc .. => true
  | .accfree .. => true
  | .acccvt .. => true
  | .tgive .. => true
  | .ttake .. => true
  | .btake => true
  | .bpass .. => true
  | .cpyk .. => true
  | .barinit .. => true
  | .bararr .. => true
  | .barwait .. => true
  | .prset .. => true
  | .prclr .. => true
  | .bar .. => true
  | .discard .. => true
  | .barA .. => true
  | .barW .. => true
  | .msend _ _ rs2 => rs2 ≠ 0 && decide (rs2.toNat % 4 = 0)
  | .mchan .. => true
  | .hend => true
  | .spawn .. => true
  | .steal rd _ _ => decide (rd.toNat % 2 = 0) && rd ≠ 0
  | .tdone .. => true
  | .rfork rd _ => decide (rd.toNat % 2 = 0) && rd ≠ 0
  | .join .. => true
  | .redsend .. => true
  | .redacc .. => true
  | .depdec .. => true
  | .launch .. => true
  | .cancel .. => true
  | .cbpush .. => true
  | .cbdone .. => true
  | .cbflush .. => true
  | .gate .. => true
  | .gret => true
  | .gabort .. => true
  | .ladd md _ _ _ => shArith2.mdOk md
  | .lsub md _ _ _ => shArith2.mdOk md
  | .lmul md _ _ _ => shArith2.mdOk md
  | .lmulh md _ _ _ => shLogic2.mdOk md
  | .lmulhu md _ _ _ => shLogic2.mdOk md
  | .lmin md _ _ _ => shLogic2.mdOk md
  | .lmax md _ _ _ => shLogic2.mdOk md
  | .lminu md _ _ _ => shLogic2.mdOk md
  | .lmaxu md _ _ _ => shLogic2.mdOk md
  | .land md _ _ _ => shLogic2.mdOk md
  | .lor md _ _ _ => shLogic2.mdOk md
  | .lxor md _ _ _ => shLogic2.mdOk md
  | .landn md _ _ _ => shLogic2.mdOk md
  | .lsll md _ _ _ => shLogic2.mdOk md
  | .lsrl md _ _ _ => shLogic2.mdOk md
  | .lsra md _ _ _ => shLogic2.mdOk md
  | .lbext md _ _ _ => shBits2.mdOk md
  | .lbextu md _ _ _ => shBits2.mdOk md
  | .lbins md _ _ _ => shBits2.mdOk md
  | .lpopc md _ _ => shLogic1.mdOk md
  | .lclz md _ _ => shLogic1.mdOk md
  | .lctz md _ _ => shLogic1.mdOk md
  | .lsel md _ _ _ => shLogic2.mdOk md
  | .lmov md _ _ => shLogic1.mdOk md
  | .lidx md _ => shIdx.mdOk md
  | .lcmpEq md _ _ _ => shBits2.mdOk md
  | .lcmpNe md _ _ _ => shBits2.mdOk md
  | .lcmpLt md _ _ _ => shBits2.mdOk md
  | .lcmpGe md _ _ _ => shBits2.mdOk md
  | .lcmpLtu md _ _ _ => shBits2.mdOk md
  | .lcmpGeu md _ _ _ => shBits2.mdOk md
  | .laddi md _ _ _ => shArith1.mdOk md
  | .landi md _ _ _ => shLogic1.mdOk md
  | .lori md _ _ _ => shLogic1.mdOk md
  | .lxori md _ _ _ => shLogic1.mdOk md
  | .lslli md _ _ _ => shLogic1.mdOk md
  | .lsrli md _ _ _ => shLogic1.mdOk md
  | .lsrai md _ _ _ => shLogic1.mdOk md
  | .lmovi md _ _ => shNoRoute.mdOk md
  | .laddx md _ _ _ => shArith1.mdOk md
  | .lsubx md _ _ _ => shArith1.mdOk md
  | .lmulx md _ _ _ => shArith1.mdOk md
  | .lminx md _ _ _ => shLogic1.mdOk md
  | .lmaxx md _ _ _ => shLogic1.mdOk md
  | .landx md _ _ _ => shLogic1.mdOk md
  | .lorx md _ _ _ => shLogic1.mdOk md
  | .lxorx md _ _ _ => shLogic1.mdOk md
  | .lsllx md _ _ _ => shLogic1.mdOk md
  | .lsrlx md _ _ _ => shLogic1.mdOk md
  | .lsrax md _ _ _ => shLogic1.mdOk md
  | .lmovx md _ _ => shNoRoute.mdOk md
  | .lcmpxEq md _ _ _ => shBits1.mdOk md
  | .lcmpxLt md _ _ _ => shBits1.mdOk md
  | .lcmpxLtu md _ _ _ => shBits1.mdOk md
  | .lfaddx md _ _ _ => shFloat1.mdOk md
  | .lfmulx md _ _ _ => shFloat1.mdOk md
  | .accrd md _ _ => md.getD 0 = 0
  | .accwr md _ _ => md.getD 0 = 0
  | .cbtake md _ _ _ => md.getD 0 = 0
  | .lldc md ww hh _ _ _ => ww ≠ 3 && hh ≠ 3 && shMatch.mdOk md
  | .lstc md ww hh _ _ _ => ww ≠ 3 && hh ≠ 3 && shMatch.mdOk md
  | .latom md _ _ _ _ _ _ => shMatch.mdOk md
  | .lld _ _ space _ _ _ => space ≠ 3
  | .lst _ _ space _ _ _ => space ≠ 3
  | .lfadd md _ _ _ => shFloat2.mdOk md
  | .lfsub md _ _ _ => shFloat2.mdOk md
  | .lfmul md _ _ _ => shFloat2.mdOk md
  | .lfmin md _ _ _ => shFloat2.mdOk md
  | .lfmax md _ _ _ => shFloat2.mdOk md
  | .lfrcp md _ _ => shApprox.mdOk md
  | .lfrsq md _ _ => shApprox.mdOk md
  | .lfexp2 md _ _ => shApprox.mdOk md
  | .lflog2 md _ _ => shApprox.mdOk md
  | .lfsin md _ _ => shApprox.mdOk md
  | .lfcos md _ _ => shApprox.mdOk md
  | .lfcvt md _ _ _ => shCvt.mdOk md
  | .lfcmpEq md _ _ _ => shFcmp.mdOk md
  | .lfcmpLt md _ _ _ => shFcmp.mdOk md
  | .lfcmpLe md _ _ _ => shFcmp.mdOk md
  | .lfcmpUn md _ _ _ => shFcmp.mdOk md
  | .lfma md _ _ _ _ => shFloat3.mdOk md
  | .lfms md _ _ _ _ => shFloat3.mdOk md
  | .lfnms md _ _ _ _ => shFloat3.mdOk md
  | .lfnma md _ _ _ _ => shFloat3.mdOk md
  | .lmatch md _ _ => shMatch.mdOk md
  | .lmatchF md _ _ => shMatch.mdOk md
  | .lreduceAdd md _ _ => shSum.mdOk md
  | .lreduceMin md _ _ => shExt.mdOk md
  | .lreduceMax md _ _ => shExt.mdOk md
  | .lreduceFadd md _ _ => shFsum.mdOk md
  | .lscanAdd md _ _ => shSum.mdOk md
  | .lscanFadd md _ _ => shFsum.mdOk md
  | .lballot md _ _ => shMatch.mdOk md
  | .lwhileLt md _ _ _ => shWhile.mdOk md
  | .lwhileLtu md _ _ _ => shWhile.mdOk md
  | .mand .. => true
  | .mor .. => true
  | .mxor .. => true
  | .mandn .. => true
  | .mnot .. => true
  | .lshflUp md _ _ _ => shBare.mdOk md
  | .lshflDn md _ _ _ => shBare.mdOk md
  | .lshflIdx md _ _ _ => shBare.mdOk md
  | .lshflXor md _ _ _ => shBare.mdOk md
  | .lui .. => true
  | .auipc .. => true
  | .jal .. => true
  | .jalr .. => true
  | .beq .. => true
  | .bne .. => true
  | .blt .. => true
  | .bge .. => true
  | .bltu .. => true
  | .bgeu .. => true
  | .lb .. => true
  | .lh .. => true
  | .lw .. => true
  | .ld .. => true
  | .lbu .. => true
  | .lhu .. => true
  | .lwu .. => true
  | .sb .. => true
  | .sh .. => true
  | .sw .. => true
  | .sd .. => true
  | .addi .. => true
  | .slti .. => true
  | .sltiu .. => true
  | .xori .. => true
  | .ori .. => true
  | .andi .. => true
  | .slli .. => true
  | .srli .. => true
  | .srai .. => true
  | .add .. => true
  | .sll .. => true
  | .slt .. => true
  | .sltu .. => true
  | .xor .. => true
  | .srl .. => true
  | .or .. => true
  | .and .. => true
  | .sub .. => true
  | .sra .. => true
  | .addiw .. => true
  | .slliw .. => true
  | .srliw .. => true
  | .sraiw .. => true
  | .addw .. => true
  | .sllw .. => true
  | .srlw .. => true
  | .subw .. => true
  | .sraw .. => true
  | .fence .. => true
  | .fenceI .. => true
  | .ecall => true
  | .ebreak => true
  | .mul .. => true
  | .mulh .. => true
  | .mulhsu .. => true
  | .mulhu .. => true
  | .div .. => true
  | .divu .. => true
  | .rem .. => true
  | .remu .. => true
  | .mulw .. => true
  | .divw .. => true
  | .divuw .. => true
  | .remw .. => true
  | .remuw .. => true
  | .lrW .. => true
  | .lrD .. => true
  | .scW .. => true
  | .scD .. => true
  | .amoswapW .. => true
  | .amoswapD .. => true
  | .amoaddW .. => true
  | .amoaddD .. => true
  | .amoxorW .. => true
  | .amoxorD .. => true
  | .amoandW .. => true
  | .amoandD .. => true
  | .amoorW .. => true
  | .amoorD .. => true
  | .amominW .. => true
  | .amominD .. => true
  | .amomaxW .. => true
  | .amomaxD .. => true
  | .amominuW .. => true
  | .amominuD .. => true
  | .amomaxuW .. => true
  | .amomaxuD .. => true
  | .csrrw .. => true
  | .csrrs .. => true
  | .csrrc .. => true
  | .csrrwi .. => true
  | .csrrsi .. => true
  | .csrrci .. => true
  | .sh1add .. => true
  | .sh2add .. => true
  | .sh3add .. => true
  | .addUw .. => true
  | .sh1addUw .. => true
  | .sh2addUw .. => true
  | .sh3addUw .. => true
  | .slliUw .. => true
  | .andn .. => true
  | .orn .. => true
  | .xnor .. => true
  | .min .. => true
  | .minu .. => true
  | .max .. => true
  | .maxu .. => true
  | .rol .. => true
  | .ror .. => true
  | .rolw .. => true
  | .rorw .. => true
  | .zextH .. => true
  | .clz .. => true
  | .ctz .. => true
  | .cpop .. => true
  | .sextB .. => true
  | .sextH .. => true
  | .rori .. => true
  | .orcB .. => true
  | .rev8 .. => true
  | .clzw .. => true
  | .ctzw .. => true
  | .cpopw .. => true
  | .roriw .. => true
  | .czeroEqz .. => true
  | .czeroNez .. => true
  | .sret => true
  | .mret => true
  | .wfi => true
  | .sfenceVma .. => true
  | .divRemResultReturn .. => true
  | .engineResultReturn .. => true
  | .idleMemoryPatrol .. => true
  | .mainPowerLoss => true

/-- The instruction has an encoding: it is no event. -/
def Instr.encoded (i : Instr) : Bool := !(encode i).isEmpty

end Sys2Proof
end

