-- ==== Sys2Proof/Safety.lean ====
section
/-! DEFINITION. What counts as a safe run, in the terms the statements use: a step that answers a next state; memories in
canonical form; and the read of one byte of each memory. -/

namespace Sys2Proof.Machine

/-- A step from the state answers a next state. -/
def Runs (s : State) : Prop := ∃ t, step s = .next t

/-- An instruction executed in a state answers a next state. -/
def Completes (i : Instr) (s : State) : Prop := ∃ t, exec i s = .next t

/-- Every memory is in its canonical form: rising addresses, and no entry that equals what an unlisted byte reads as. -/
def State.memWf (s : State) : Prop :=
  s.hbm.wf = true ∧ s.scratch.wf = true ∧ s.weight.wf = true ∧ s.hostMem.wf = true ∧ s.peerMem.wf = true

/-- Every byte of every memory reads in t as it reads in s. -/
def SameMemory (s t : State) : Prop :=
  ∀ a, t.hbm.get a = s.hbm.get a ∧ t.scratch.get a = s.scratch.get a ∧ t.weight.get a = s.weight.get a ∧
    t.hostMem.get a = s.hostMem.get a ∧ t.peerMem.get a = s.peerMem.get a

/-! ## When an instruction issues (05 R102, 06 R122-R128, Table 6.11) -/

/-- The split x holds the issue slot of the focus core, no prefix is in force, and no result of one of the x registers is
outstanding. -/
structure Issues (s : State) (x : Ctx) (xs : List (BitVec 5)) : Prop where
  current : s.current = some x
  plain   : (s.spl x).format = none
  ready   : ∀ q ∈ (s.spl x).pend, q.bank = x.sp → q.rd ≠ 0 → q.rd ∉ xs

/-- The word at the pc is the last of a counted clause, or the whole of an implicit one (05 R91). -/
def LastWord (s : State) (x : Ctx) : Prop := (s.spl x).left.toNat ≤ 1

/-- An engine instruction of a class may stand in the clause (05 R91, R97). -/
def ClauseTakes (s : State) (x : Ctx) (eng : Nat) : Prop :=
  (s.spl x).left = 0 ∨ (s.spl x).engc = 7 ∨ (s.spl x).engc.toNat = eng

/-- The lane registers that the group of x has: in the handler slot 16. -/
def State.laneLimit (s : State) (x : Ctx) : Nat := if x.handler then 16 else (s.grp x).vregs

/-- A lane register may be named: it is below the limit, and inside a gate frame in U-mode below 16 (06 Table 6.9, 17 R339). -/
def State.mayName (s : State) (x : Ctx) (v : Nat) : Prop :=
  v < s.laneLimit x ∧ ((s.spl x).mode = .u → (s.grp x).frames ≠ [] → v < 16)

/-- The split is in U-mode inside no gate frame, or in S-mode: no restriction of 17 R339 applies. -/
def Ungated (s : State) (x : Ctx) : Prop := (s.spl x).mode = .u → (s.grp x).frames = []

/-- In interlocked mode, no outstanding load of the slot writes one of the lane registers (05 R105); no CBTAKE of the group is
unanswered (15 R309); and no fence of the split has still to take effect (13 R263). -/
def Unblocked (s : State) (x : Ctx) (vs : List Nat) : Prop :=
  (s.native (s.grp x) (s.spl x).pc = true ∨ (s.core x.c).loadsInto x.sl vs = false) ∧
    (∀ f ∈ s.flights, f.core = x.c → f.slot = x.sl → f.what.taking = false) ∧ (s.spl x).fenceHeld = false

/-- A Molesy-3 instruction without a prefix and a modifier word may issue: as `Issues`, the split is not in M-mode, and its
lane registers may be named and are not being loaded. -/
structure IssuesDev (s : State) (x : Ctx) (xs : List (BitVec 5)) (vs : List (BitVec 6)) : Prop extends Issues s x xs where
  mode : (s.spl x).mode ≠ .m
  regs : ∀ v ∈ vs, s.mayName x v.toNat
  free : Unblocked s x (vs.map BitVec.toNat)

/-- A lane instruction with any prefix in force and any modifier word that its entry takes may issue. -/
structure IssuesLane (s : State) (x : Ctx) (sh : Shape) (md : Option Word32) (xs : List (BitVec 5)) (vs : List (BitVec 6)) :
    Prop where
  current : s.current = some x
  format  : ∀ f, (s.spl x).format = some f → sh.takes ≠ .none ∧ sh.takes.accepts f = true
  modOk   : sh.mdOk md = true
  ready   : ∀ q ∈ (s.spl x).pend, q.bank = x.sp → q.rd ≠ 0 → q.rd ∉ xs
  mode    : (s.spl x).mode ≠ .m
  regs    : ∀ v ∈ vs.map BitVec.toNat ++ modRoutes (md.getD 0), s.mayName x v
  free    : Unblocked s x (vs.map BitVec.toNat ++ modRoutes (md.getD 0))

/-- The split at issue as a lane instruction sees it: with the formats in force. -/
def State.withFormat (s : State) (x : Ctx) : Ctx := { x with fmt := (s.spl x).format }

/-- The instruction completes at the next word: the state t with the bookkeeping of a completed instruction. -/
def State.done (s t : State) (x : Ctx) (cycles : Nat) : State := t.finish x ((s.spl x).pc + 4) cycles false

/-- The x register receives a value, x0 discards it, and the instruction completes. -/
def State.doneX (s : State) (x : Ctx) (rd : BitVec 5) (v : Word64) : State := s.done (s.setX x rd v) x 1

/-- The same where the effect has left the state t before the x register is written. -/
def State.doneX' (s : State) (x : Ctx) (rd : BitVec 5) (v : Word64) (t : State) : State := s.done (t.setX x rd v) x 1

/-- Bytes of a lane instruction. -/
def laneLen (md : Option Word32) : Word64 := if md.isSome then 8 else 4

/-- The answer r is a completed lane instruction of `cycles` cycles that has written f to lane register vd in the active lanes
and nothing else. -/
def WritesLanes (s : State) (x : Ctx) (md : Option Word32) (cycles : Nat) (vd : BitVec 6) (f : Nat → Word32)
    (r : Result) : Prop :=
  ∃ g, r = .next ((s.setGrp x g).finish x ((s.spl x).pc + laneLen md) cycles false) ∧
    g = { s.grp x with v := g.v } ∧
    (∀ l, l < 32 → bit (s.spl x).m0 l = true → g.v32 vd l = f l) ∧
    (∀ v l, l < 32 → ¬ (v = vd ∧ bit (s.spl x).m0 l = true) → g.v32 v l = (s.grp x).v32 v l)

/-- The answer r is a completed lane instruction that has written the bits p of mask k for the active lanes and nothing else. -/
def WritesMask (s : State) (x : Ctx) (md : Option Word32) (cycles : Nat) (k : BitVec 3) (p : Nat → Bool)
    (r : Result) : Prop :=
  ∃ v, r = .next ((s.setGrp x ((s.grp x).setRawMask x.sp k v)).finish x ((s.spl x).pc + laneLen md) cycles false) ∧
    ∀ l, l < 32 → bit v l = if bit (s.spl x).m0 l then p l else bit ((s.grp x).rawMask x.sp k) l

/-! ## Memory accesses -/

/-- The instruction at issue traps: the pc and the rest of its clause are those of the instruction. -/
def State.traps (s : State) (x : Ctx) (code : Nat) (v : Word64) : State :=
  s.raise x.c x.sl x.sp code v (s.spl x).pc (s.spl x).remaining

/-- The instruction at issue waits there for one more cycle. -/
def State.waits (s : State) (x : Ctx) : State :=
  { s.setCore x.c { s.core x.c with waiting := true } with cycle := s.cycle + 1 }

/-- Byte i of a place. -/
def State.byteAt (s : State) (pl : Place) (i : Nat) : Byte :=
  match pl with
  | .hbm a => s.hbm.get (a + i)
  | .peer d a => s.peerMem.get (peerByte d a + i)
  | .host a => s.hostMem.get (a + i)

/-- A hart access of memory may issue: as `Issues`, no CBTAKE of the group is unanswered (15 R303), and no fence of the split has still to
take effect (13 R263). -/
structure IssuesMem (s : State) (x : Ctx) (xs : List (BitVec 5)) : Prop extends Issues s x xs where
  taken : ∀ f ∈ s.flights, f.core = x.c → f.slot = x.sl → f.what.taking = false
  fence : (s.spl x).fenceHeld = false

/-- An aligned hart access of n bytes outside the control-space window reaches a place. `plain` is a load or a store. -/
def State.Reaches (s : State) (x : Ctx) (va : Word64) (n : Nat) (k : Kind) (plain : Bool) (pl : Place) : Prop :=
  va.toNat % n = 0 ∧ inWindow va = false ∧ s.hartPlace x va k plain = some pl

/-- An aligned access of an S-mode or M-mode split outside the window has no usable translation; or an M-mode access with the permissions of
U-mode is of the window, which no page of U-mode is. -/
def State.Unmapped (s : State) (x : Ctx) (va : Word64) (n : Nat) (k : Kind) (plain : Bool) : Prop :=
  (s.spl x).mode ≠ .u ∧ ((inWindow va = false ∧ va.toNat % n = 0 ∧ s.hartPlace x va k plain = none) ∨
    (inWindow va = true ∧ s.dataMode x = .u))

/-- A misaligned access outside the window. -/
def State.Misaligned (s : State) (x : Ctx) (va : Word64) (n : Nat) : Prop := va.toNat % n ≠ 0 ∧ inWindow va = false

/-- An access of a U-mode split that no lease or no leaf allows: an aligned one, or one of the control-space window, which lies in no lease
(22 R404). -/
def State.Unleased (s : State) (x : Ctx) (va : Word64) (n : Nat) (k : Kind) (plain : Bool) : Prop :=
  (s.spl x).mode = .u ∧ (inWindow va = true ∨ (va.toNat % n = 0 ∧ s.hartPlace x va k plain = none))

/-- No error stands in the way of a data access of the split (18 R349, log 16), and the schedule does not hold its next load back (log 5). -/
def State.Undisturbed (s : State) : Prop := s.flaw = none ∧ s.late.headD false = false

/-- The unit of the issuing split ends, or, while it is being saved, its image ends (03 R61, 16 R330). -/
def EndsUnit (s : State) (x : Ctx) (r : Result) : Prop :=
  ∃ t : State, r = .next t ∧
    ((t.unit (s.grp x).unit).ended = true ∨ (t.unit (s.grp x).unit).doomed = true)

/-- A lane's address lies in the unit's local window, or in its job's weight region and is read; a global one always does
(03 Table 3.3). -/
def State.Within (s : State) (x : Ctx) (space : BitVec 2) (n : Nat) (store : Bool) (a : Nat) : Prop :=
  let u := s.unit (s.grp x).unit
  (space = 1 → ∃ b b', u.localByte a = some b ∧ u.localByte (a + n - 1) = some b') ∧
  (space = 2 → store = false ∧ ∃ b b', s.weightByte u.job (dieOf x.c) a = some b ∧
    s.weightByte u.job (dieOf x.c) (a + n - 1) = some b')

/-- The accesses of the active lanes may all be made: aligned to n, in the local space present, in the global space of a privileged
split mapped and outside the control-space window, in the local window or in the job's weight region (10 R199-R203). -/
structure LanesReach (s : State) (x : Ctx) (space : BitVec 2) (n : Nat) (store : Bool) (as_ : List LaneAddr) : Prop where
  aligned : ∀ a ∈ as_, a.2.toNat % n = 0
  present : space = 1 → s.absentLines (s.grp x).unit n as_ = []
  mapped  : space = 0 → (s.spl x).mode ≠ .u → ∀ a ∈ as_, inWindow a.2 = false ∧
    ∃ pl at_, s.translate (s.grp x).asid a.2 (if store then .write else .read) (s.spl x).mode (sumBit (s.grp x))
      (mxrBit (s.grp x)) = .ok pl at_
  within  : ∀ a ∈ as_, s.Within x space n store a.2.toNat

/-- The addresses of the active lanes, ascending; local and weight addresses have 32 bits. -/
def State.laneAddrs (s : State) (x : Ctx) (space : BitVec 2) (f : Nat → Word64) : List LaneAddr :=
  ((s.grp x).active x.sp).map (fun l => (l, if space = 0 then f l else ((f l).setWidth 32).setWidth 64))

/-- The operation that a lane memory instruction leaves outstanding: one access for each active lane. -/
def State.laneOpOf (s : State) (x : Ctx) (i : LaneMem) (as_ : List LaneAddr) : Op :=
  { s.opOf x with
    load := i.load, store := i.store, vd := i.vd, hint := i.hint, acq := i.acq
    behind := if i.rel then s.nextId else (s.spl x).rel
    accs := as_.map (fun a => {
      lane := a.1, space := i.space, addr := a.2, size := i.n, what := i.what a.1
      place := if i.space = 0 then s.fixedPlace (s.grp x) (s.spl x).mode (if i.store then .write else .read) a.2
        else none }) }

/-! ## Engine instructions (05 R97, 17 Table 17.3) -/

/-- An engine instruction of a class may issue, with any prefix in force that its entry takes. -/
structure IssuesFmt (s : State) (x : Ctx) (takes : Takes) (cls : Nat) (xs : List (BitVec 5)) : Prop where
  current : s.current = some x
  format  : ∀ f, (s.spl x).format = some f → takes ≠ .none ∧ takes.accepts f = true
  ready   : ∀ q ∈ (s.spl x).pend, q.bank = x.sp → q.rd ≠ 0 → q.rd ∉ xs
  mode    : (s.spl x).mode ≠ .m
  free    : Unblocked s x []
  gate    : Ungated s x
  clause  : ClauseTakes s x cls

/-- The same without a prefix. -/
structure IssuesEng (s : State) (x : Ctx) (cls : Nat) (xs : List (BitVec 5)) : Prop extends IssuesDev s x xs [] where
  gate   : Ungated s x
  clause : ClauseTakes s x cls

/-- The group's unit, and the scratchpad byte of a local address of it. -/
def State.own (s : State) (x : Ctx) : Unit := s.unit (s.grp x).unit

/-- The instruction completes with its split parked at the next word. -/
def State.parksNext (s : State) (x : Ctx) (w : Wake) : State :=
  (s.counted x).parkSplit x ((s.spl x).pc + 4) ((s.spl x).remaining - 1) w

/-- The split parks at the instruction, which is issued again when it wakes. -/
def State.parks (s t : State) (x : Ctx) (w : Wake) : State := t.parkSplit x (s.spl x).pc (s.spl x).remaining w

/-- Two states that differ in one core only. -/
def OnlyCore (s t : State) (c : Nat) : Prop := t = { s with cores := t.cores } ∧ ∀ d, d ≠ c → t.core d = s.core d

/-- A core with new queues, operand slots, banks, tile counts or engine state only: its slots, operations and deque stay. -/
def SameGroups (k h : Core) : Prop := h.slots = k.slots ∧ h.ops = k.ops ∧ h.deque = k.deque ∧ h.channels = k.channels

end Sys2Proof.Machine
end

