-- ==== Sys2Proof/Certificates/Slice0/Obligations.lean ====
section
/-! DEFINITION. The statements for the provers: what each part of the machine does, and the obligations that join the parts. -/

open Sys2Proof Sys2Proof.Machine

namespace Sys2Proof.Claims

/-! ## The hart: RV64 arithmetic, branches and jumps (06 R109, R110, R119, R120) -/

/-- 06 R119: the two-register arithmetic of RV64I on 64-bit values. -/
def hartRegisterResults : Prop :=
  ∀ (s : State) (x : Ctx) (rd rs1 rs2 : BitVec 5), Issues s x [rd, rs1, rs2] →
    let a := s.x x rs1
    let b := s.x x rs2
    exec (.add rd rs1 rs2) s = .next (s.doneX x rd (a + b)) ∧
    exec (.sub rd rs1 rs2) s = .next (s.doneX x rd (a - b)) ∧
    exec (.and rd rs1 rs2) s = .next (s.doneX x rd (a &&& b)) ∧
    exec (.or rd rs1 rs2) s = .next (s.doneX x rd (a ||| b)) ∧
    exec (.xor rd rs1 rs2) s = .next (s.doneX x rd (a ^^^ b)) ∧
    exec (.sll rd rs1 rs2) s = .next (s.doneX x rd (a <<< (b.extractLsb' 0 6).toNat)) ∧
    exec (.srl rd rs1 rs2) s = .next (s.doneX x rd (a >>> (b.extractLsb' 0 6).toNat)) ∧
    exec (.sra rd rs1 rs2) s = .next (s.doneX x rd (a.sshiftRight (b.extractLsb' 0 6).toNat)) ∧
    exec (.slt rd rs1 rs2) s = .next (s.doneX x rd (if a.toInt < b.toInt then 1 else 0)) ∧
    exec (.sltu rd rs1 rs2) s = .next (s.doneX x rd (if a.toNat < b.toNat then 1 else 0))

/-- 06 R119: the word forms act on the low words and sign-extend their result. -/
def hartWordResults : Prop :=
  ∀ (s : State) (x : Ctx) (rd rs1 rs2 : BitVec 5), Issues s x [rd, rs1, rs2] →
    let a := (s.x x rs1).extractLsb' 0 32
    let b := (s.x x rs2).extractLsb' 0 32
    let n := ((s.x x rs2).extractLsb' 0 5).toNat
    let out (v : BitVec 32) : Result := .next (s.doneX x rd (v.signExtend 64))
    exec (.addw rd rs1 rs2) s = out (a + b) ∧
    exec (.subw rd rs1 rs2) s = out (a - b) ∧
    exec (.sllw rd rs1 rs2) s = out (a <<< n) ∧
    exec (.srlw rd rs1 rs2) s = out (a >>> n) ∧
    exec (.sraw rd rs1 rs2) s = out (a.sshiftRight n) ∧
    exec (.mulw rd rs1 rs2) s = out (a * b) ∧
    exec (.rolw rd rs1 rs2) s = out ((a <<< n) ||| (a >>> ((32 - n) % 32))) ∧
    exec (.rorw rd rs1 rs2) s = out ((a >>> n) ||| (a <<< ((32 - n) % 32)))

/-- 06 R119: the register-immediate forms; a 12-bit immediate is sign-extended. -/
def hartImmediateResults : Prop :=
  ∀ (s : State) (x : Ctx) (rd rs1 : BitVec 5) (imm : BitVec 12) (sh : BitVec 6) (shw : BitVec 5), Issues s x [rd, rs1] →
    let a := s.x x rs1
    let i := imm.signExtend 64
    let lo := a.extractLsb' 0 32
    exec (.addi rd rs1 imm) s = .next (s.doneX x rd (a + i)) ∧
    exec (.andi rd rs1 imm) s = .next (s.doneX x rd (a &&& i)) ∧
    exec (.ori rd rs1 imm) s = .next (s.doneX x rd (a ||| i)) ∧
    exec (.xori rd rs1 imm) s = .next (s.doneX x rd (a ^^^ i)) ∧
    exec (.slti rd rs1 imm) s = .next (s.doneX x rd (if a.toInt < i.toInt then 1 else 0)) ∧
    exec (.sltiu rd rs1 imm) s = .next (s.doneX x rd (if a.toNat < i.toNat then 1 else 0)) ∧
    exec (.slli rd rs1 sh) s = .next (s.doneX x rd (a <<< sh.toNat)) ∧
    exec (.srli rd rs1 sh) s = .next (s.doneX x rd (a >>> sh.toNat)) ∧
    exec (.srai rd rs1 sh) s = .next (s.doneX x rd (a.sshiftRight sh.toNat)) ∧
    exec (.addiw rd rs1 imm) s = .next (s.doneX x rd ((lo + imm.signExtend 32).signExtend 64)) ∧
    exec (.slliw rd rs1 shw) s = .next (s.doneX x rd ((lo <<< shw.toNat).signExtend 64)) ∧
    exec (.srliw rd rs1 shw) s = .next (s.doneX x rd ((lo >>> shw.toNat).signExtend 64)) ∧
    exec (.sraiw rd rs1 shw) s = .next (s.doneX x rd ((lo.sshiftRight shw.toNat).signExtend 64)) ∧
    exec (.slliUw rd rs1 sh) s = .next (s.doneX x rd (lo.setWidth 64 <<< sh.toNat)) ∧
    exec (.rori rd rs1 sh) s = .next (s.doneX x rd ((a >>> sh.toNat) ||| (a <<< ((64 - sh.toNat) % 64)))) ∧
    exec (.roriw rd rs1 shw) s =
      .next (s.doneX x rd (((lo >>> shw.toNat) ||| (lo <<< ((32 - shw.toNat) % 32))).signExtend 64))

/-- 06 R119: Zba, Zbb and Zicond on two registers. -/
def hartBitResults : Prop :=
  ∀ (s : State) (x : Ctx) (rd rs1 rs2 : BitVec 5), Issues s x [rd, rs1, rs2] →
    let a := s.x x rs1
    let b := s.x x rs2
    let z := (a.extractLsb' 0 32).setWidth 64
    let n := (b.extractLsb' 0 6).toNat
    let out (v : Word64) : Result := .next (s.doneX x rd v)
    exec (.sh1add rd rs1 rs2) s = out (a * 2 + b) ∧
    exec (.sh2add rd rs1 rs2) s = out (a * 4 + b) ∧
    exec (.sh3add rd rs1 rs2) s = out (a * 8 + b) ∧
    exec (.addUw rd rs1 rs2) s = out (z + b) ∧
    exec (.sh1addUw rd rs1 rs2) s = out (z * 2 + b) ∧
    exec (.sh2addUw rd rs1 rs2) s = out (z * 4 + b) ∧
    exec (.sh3addUw rd rs1 rs2) s = out (z * 8 + b) ∧
    exec (.andn rd rs1 rs2) s = out (a &&& ~~~b) ∧
    exec (.orn rd rs1 rs2) s = out (a ||| ~~~b) ∧
    exec (.xnor rd rs1 rs2) s = out (~~~(a ^^^ b)) ∧
    exec (.min rd rs1 rs2) s = out (if a.toInt ≤ b.toInt then a else b) ∧
    exec (.minu rd rs1 rs2) s = out (if a.toNat ≤ b.toNat then a else b) ∧
    exec (.max rd rs1 rs2) s = out (if b.toInt ≤ a.toInt then a else b) ∧
    exec (.maxu rd rs1 rs2) s = out (if b.toNat ≤ a.toNat then a else b) ∧
    exec (.rol rd rs1 rs2) s = out ((a <<< n) ||| (a >>> ((64 - n) % 64))) ∧
    exec (.ror rd rs1 rs2) s = out ((a >>> n) ||| (a <<< ((64 - n) % 64))) ∧
    exec (.czeroEqz rd rs1 rs2) s = out (if b = 0 then 0 else a) ∧
    exec (.czeroNez rd rs1 rs2) s = out (if b = 0 then a else 0)

/-- 06 R119: the one-register forms of Zbb: extensions, counts, OR-combine and byte reversal. -/
def hartUnaryResults : Prop :=
  ∀ (s : State) (x : Ctx) (rd rs1 : BitVec 5), Issues s x [rd, rs1] →
    let a := s.x x rs1
    let out (v : Word64) : Result := .next (s.doneX x rd v)
    let leading (w : Nat) (n : Nat) : Prop :=
      n ≤ w ∧ (∀ i, w - n ≤ i → i < w → a.getLsbD i = false) ∧ (n < w → a.getLsbD (w - 1 - n) = true)
    let trailing (w : Nat) (n : Nat) : Prop :=
      n ≤ w ∧ (∀ i, i < n → a.getLsbD i = false) ∧ (n < w → a.getLsbD n = true)
    let ones (w : Nat) : Nat := ((List.range w).filter (fun i => a.getLsbD i)).length
    exec (.sextB rd rs1) s = out ((a.extractLsb' 0 8).signExtend 64) ∧
    exec (.sextH rd rs1) s = out ((a.extractLsb' 0 16).signExtend 64) ∧
    exec (.zextH rd rs1) s = out ((a.extractLsb' 0 16).setWidth 64) ∧
    (∃ n, leading 64 n ∧ exec (.clz rd rs1) s = out (BitVec.ofNat 64 n)) ∧
    (∃ n, leading 32 n ∧ exec (.clzw rd rs1) s = out (BitVec.ofNat 64 n)) ∧
    (∃ n, trailing 64 n ∧ exec (.ctz rd rs1) s = out (BitVec.ofNat 64 n)) ∧
    (∃ n, trailing 32 n ∧ exec (.ctzw rd rs1) s = out (BitVec.ofNat 64 n)) ∧
    exec (.cpop rd rs1) s = out (BitVec.ofNat 64 (ones 64)) ∧
    exec (.cpopw rd rs1) s = out (BitVec.ofNat 64 (ones 32)) ∧
    (∃ v, exec (.orcB rd rs1) s = out v ∧ ∀ i, i < 8 →
      v.extractLsb' (8 * i) 8 = if a.extractLsb' (8 * i) 8 = 0#8 then 0#8 else 0xFF#8) ∧
    (∃ v, exec (.rev8 rd rs1) s = out v ∧ ∀ i, i < 8 → v.extractLsb' (8 * i) 8 = a.extractLsb' (56 - 8 * i) 8)

/-- 06 R119, R120: the multiplications; the high halves read each operand as signed or unsigned. -/
def hartMultiplyResults : Prop :=
  ∀ (s : State) (x : Ctx) (rd rs1 rs2 : BitVec 5), Issues s x [rd, rs1, rs2] →
    let a := s.x x rs1
    let b := s.x x rs2
    exec (.mul rd rs1 rs2) s = .next (s.doneX x rd (a * b)) ∧
    exec (.mulh rd rs1 rs2) s = .next (s.doneX x rd (BitVec.ofInt 64 (a.toInt * b.toInt / 2 ^ 64))) ∧
    exec (.mulhsu rd rs1 rs2) s = .next (s.doneX x rd (BitVec.ofInt 64 (a.toInt * (b.toNat : Int) / 2 ^ 64))) ∧
    exec (.mulhu rd rs1 rs2) s = .next (s.doneX x rd (BitVec.ofNat 64 (a.toNat * b.toNat / 2 ^ 64)))

/-- 06 Table 6.11: a division completes at once with its quotient or remainder outstanding for rd, which
DIV_REM_RESULT_RETURN then writes; a divisor of 0 gives all ones and the dividend. -/
def hartDivideResults : Prop :=
  ∀ (s : State) (x : Ctx) (rd rs1 rs2 : BitVec 5), Issues s x [rd, rs1, rs2] →
    let a := s.x x rs1
    let b := s.x x rs2
    let c := a.extractLsb' 0 32
    let d := b.extractLsb' 0 32
    let out (v : Word64) : Result := .next (s.done (s.addPend x rd (some v)) x 1)
    exec (.div rd rs1 rs2) s = out (if b = 0 then BitVec.allOnes 64 else BitVec.ofInt 64 (a.toInt.tdiv b.toInt)) ∧
    exec (.divu rd rs1 rs2) s = out (if b = 0 then BitVec.allOnes 64 else BitVec.ofNat 64 (a.toNat / b.toNat)) ∧
    exec (.rem rd rs1 rs2) s = out (if b = 0 then a else BitVec.ofInt 64 (a.toInt.tmod b.toInt)) ∧
    exec (.remu rd rs1 rs2) s = out (if b = 0 then a else BitVec.ofNat 64 (a.toNat % b.toNat)) ∧
    exec (.divw rd rs1 rs2) s =
      out ((if d = 0 then BitVec.allOnes 32 else BitVec.ofInt 32 (c.toInt.tdiv d.toInt)).signExtend 64) ∧
    exec (.divuw rd rs1 rs2) s =
      out ((if d = 0 then BitVec.allOnes 32 else BitVec.ofNat 32 (c.toNat / d.toNat)).signExtend 64) ∧
    exec (.remw rd rs1 rs2) s = out ((if d = 0 then c else BitVec.ofInt 32 (c.toInt.tmod d.toInt)).signExtend 64) ∧
    exec (.remuw rd rs1 rs2) s = out ((if d = 0 then c else BitVec.ofNat 32 (c.toNat % d.toNat)).signExtend 64)

/-- 06 R119: LUI, AUIPC, JAL and JALR; the jumps are the last word of their clause (05 R91), and a target that is not a multiple of 4
is misaligned, cause 0 with the target as its value, and changes no register (05 R87). -/
def hartJumps : Prop :=
  ∀ (s : State) (x : Ctx) (rd rs1 : BitVec 5) (imm : BitVec 20) (off : BitVec 20) (lo : BitVec 12),
    Issues s x [rd, rs1] → LastWord s x →
    let pc := (s.spl x).pc
    let go (t : Word64) : Result :=
      if t.extractLsb' 0 2 = 0#2 then .next ((s.setX x rd (pc + 4)).finish x t 1 false)
      else .next (s.raise x.c x.sl x.sp 0 t pc (s.spl x).remaining)
    exec (.lui rd imm) s = .next (s.doneX x rd ((imm ++ 0#12).signExtend 64)) ∧
    exec (.auipc rd imm) s = .next (s.doneX x rd (pc + (imm ++ 0#12).signExtend 64)) ∧
    exec (.jal rd off) s = go (pc + (off ++ 0#1).signExtend 64) ∧
    exec (.jalr rd rs1 lo) s = go ((s.x x rs1 + lo.signExtend 64) &&& ~~~1#64)

/-- 06 R119: the branches; one taken to a misaligned target raises cause 0 with the target, one not taken goes on. -/
def hartBranches : Prop :=
  ∀ (s : State) (x : Ctx) (rs1 rs2 : BitVec 5) (off : BitVec 12), Issues s x [rs1, rs2] → LastWord s x →
    let a := s.x x rs1
    let b := s.x x rs2
    let pc := (s.spl x).pc
    let t := pc + (off ++ 0#1).signExtend 64
    let go (c : Bool) : Result :=
      if c then
        if t.extractLsb' 0 2 = 0#2 then .next (s.finish x t 1 false)
        else .next (s.raise x.c x.sl x.sp 0 t pc (s.spl x).remaining)
      else .next (s.done s x 1)
    exec (.beq rs1 rs2 off) s = go (decide (a = b)) ∧
    exec (.bne rs1 rs2 off) s = go (decide (a ≠ b)) ∧
    exec (.blt rs1 rs2 off) s = go (decide (a.toInt < b.toInt)) ∧
    exec (.bge rs1 rs2 off) s = go (decide (b.toInt ≤ a.toInt)) ∧
    exec (.bltu rs1 rs2 off) s = go (decide (a.toNat < b.toNat)) ∧
    exec (.bgeu rs1 rs2 off) s = go (decide (b.toNat ≤ a.toNat))

/-! ## Reset -/

/-- 03 Table 3.1, 10 Table 10.5, 12 Table 12.1, 13 Table 13.5, 19 Tables 19.3 and 19.4, 20 Table 20.1, 21 R390, R391, 22 Tables
22.3 and 22.6: the values the spec states for reset. -/
def resetValues : Prop :=
  let s := State.reset
  s.agenda = [] ∧ s.cores = [] ∧ s.units = [] ∧ s.jobs = [] ∧ s.launches = [] ∧
  (∀ q, let Q := (Map.find s.queues q).getD {}
    Q.base = 0 ∧ Q.logn = 4 ∧ Q.prod = 0 ∧ Q.cons = 0 ∧ Q.ctl = false ∧ Q.qjob = 0 ∧ Q.en = false ∧ Q.qprio = 0 ∧
      Q.badent = 0 ∧ Q.qerr = false) ∧
  s.lcres = 0 ∧ s.lcop = 0 ∧ s.lclevel = 0 ∧ s.lcaddr = 0 ∧
  (∀ d, let D := s.die d
    D.fwd = [] ∧ D.wsOpen = false ∧ D.bwEn = true ∧ D.bwLimit = 0x01000000 ∧ D.elprod = 0 ∧ D.elcons = 0 ∧
      D.trprod = 0 ∧ D.trcons = 0 ∧ D.trdrop = 0 ∧ D.stepping = [] ∧ D.psaving = none) ∧
  (∀ c, let k := s.core c
    k.tctl = 0x0380000000000000 ∧ k.tunit = 0 ∧ k.tentry = 0 ∧ k.tbrk = 0 ∧ k.tstat = 0 ∧ k.bell = none ∧ k.steps = []) ∧
  s.mig.phase = 0 ∧ s.mig.round = 0 ∧ s.mig.res = 0 ∧
  (∀ i, (Map.find s.sec.m i).getD 0 = 0) ∧ s.sec.log = [] ∧ s.sec.nonce = none ∧ s.sec.level = 0 ∧
  s.power.cap = 4400 ∧ s.power.gate = 0 ∧ s.power.ready = false ∧ s.power.therm = false ∧ s.power.bstep = 0

/-- At reset every memory is in its canonical form, every byte reads 0 (the model's choice, log 4), and no split is at issue. -/
def resetMemory : Prop :=
  let s := State.reset
  s.memWf ∧ s.current = none ∧
    ∀ a, s.hbm.get a = 0 ∧ s.scratch.get a = 0 ∧ s.weight.get a = 0 ∧ s.hostMem.get a = 0 ∧ s.peerMem.get a = 0

/-- From every state whose memories are in their canonical form, a step leaves them so: no entry out of order, none that repeats what an
unlisted byte reads as. -/
def stepKeepsMemory : Prop := ∀ s t : State, s.memWf → step s = .next t → t.memWf

/-! ## Encodings -/

/-- Every encoded instruction is read back from its own words, whatever bytes follow. -/
def decodeEncode : Prop :=
  ∀ i : Instr, i.encoded = true → ∀ rest, decode ((encode i).flatMap bytesOfWord ++ rest) = .ok (i, rest)

/-- Words of 05 Table 5.13 and of the entries of 06 R128, R129 and R133, as the spec prints them. -/
def decodeWords : Prop :=
  decodeWord 0x3FE0718B 0 = some (.clh 0 7 7 7 0 0 3) ∧
  decodeWord 0x801000AB 0x00002100 = some (.ladd (some 0x00002100) 1 0 2) ∧
  decodeWord 0x822021AB 0x08000000 = some (.lsub (some 0x08000000) 3 1 4) ∧
  decodeWord 0x001862AB 0 = some (.ladd none 5 3 3) ∧
  decodeWord 0x0201610B 0 = some (.fmt 1 0 2 2) ∧
  decodeWord 0x47FC300B 0 = some (.waitc 7 7 7 0) ∧
  decodeWord 0x6415200B 0 = some (.movyYn 200 10) ∧
  decodeWord 0x0E00150B 0 = some (.lq 10 0) ∧
  decodeWord 0x0001900B 0 = some (.mpush 3) ∧
  decodeWord 0x00000013 0 = some (.addi 0 0 0) ∧
  decodeWord 0x0000700B 0 = some (.clh 0 0 0 0 0 0 0) ∧
  decodeWord 0x0000400B 0 = none ∧ decodeWord 0x0000001F 0 = none ∧ decodeWord 0x00002100 0 = none

/-! ## One step -/

/-- The split at issue executes the instruction that the words at its pc decode to, and the step then makes the halts of a debug step
(19 R368) and the trace records (19 R363) that follow; when no debug step is in progress and no core traces, nothing follows. The module
has power (22 R410), and no error meets the fetch (18 R349, log 16). -/
def stepRunsInstruction : Prop :=
  ∀ (s : State) (x : Ctx) (w md : Word32) (i : Instr),
    s.agenda = [] → s.power.off = false → (s.core s.focus).waiting = false → s.current = some x → s.breaks x (s.spl x).pc = false →
    s.fetch x.c (s.grp x) (s.spl x).mode (s.spl x).pc = .word w → s.fetchFlaw x (s.spl x).pc = none →
    (if wantsModifier w then s.fetchModifier x ((s.spl x).pc + 4) = .word md ∧ s.fetchFlaw x ((s.spl x).pc + 4) = none else md = 0) →
    decodeWord w md = some i →
    ∀ t, exec i s = .next t →
      step s = .next (s.observe t.stepHalts) ∧
      ((∀ d ∈ t.dies, d.2.stepping = []) → (∀ c ∈ t.cores, c.2.tEn = false ∧ c.2.traces = []) → step s = .next t)

/-- An event of the agenda is executed before any instruction; an encoded instruction in the agenda is dropped (log 2). Without main power
nothing runs but the bring-up of the module (22 R410, R411). -/
def stepRunsEvent : Prop :=
  ∀ (s : State) (e : Instr) (rest : List Instr), s.agenda = e :: rest →
    let u := { s with agenda := rest }
    let runs : Prop := e.encoded = false ∧ (s.power.off = false ∨ ∃ q, e = .bringUp q)
    (runs → ∀ t, exec e u = .next t → step s = .next (s.observe t.stepHalts)) ∧
    (¬ runs → step s = .next (s.observe u.stepHalts))

/-- 05 R89: a word that decodes to nothing raises illegal-instruction with the word, at its own address. -/
def stepIllegalWord : Prop :=
  ∀ (s : State) (x : Ctx) (w md : Word32),
    s.agenda = [] → s.power.off = false → (s.core s.focus).waiting = false → s.current = some x → s.breaks x (s.spl x).pc = false →
    s.fetch x.c (s.grp x) (s.spl x).mode (s.spl x).pc = .word w → s.fetchFlaw x (s.spl x).pc = none →
    (if wantsModifier w then s.fetchModifier x ((s.spl x).pc + 4) = .word md ∧ s.fetchFlaw x ((s.spl x).pc + 4) = none else md = 0) →
    decodeWord w md = none → (s.spl x).fmt = none →
    step s = s.concluded (.next (s.raise x.c x.sl x.sp 2 (w.setWidth 64) (s.spl x).pc (s.spl x).remaining))

/-- 18 R349: the first word of an instruction that cannot be read is a word of zero: the error is counted, and the step raises
illegal-instruction. 22 R410: without power and with nothing to come a step changes nothing but what the trace has due. -/
def stepLostWord : Prop :=
  ∀ (s : State) (x : Ctx) (w : Word32) (pl : Place) (f : Flaw), s.agenda = [] →
    (s.power.off = true → step s = .next (s.observe s.stepHalts)) ∧
    (s.power.off = false → (s.core s.focus).waiting = false → s.current = some x → s.breaks x (s.spl x).pc = false →
      s.fetch x.c (s.grp x) (s.spl x).mode (s.spl x).pc = .word w → s.fetchFlaw x (s.spl x).pc = some (pl, f) →
      let t := s.meetFlaw x (s.spl x).pc pl false f
      (t.spl x).fmt = none →
      step s = s.concluded (.next (t.raise x.c x.sl x.sp 2 0 (t.spl x).pc (t.spl x).remaining)) ∧ t.flaw = none)

/-- No state makes a step fault or be refused. -/
def stepAnswers : Prop := ∀ s : State, Runs s

/-- 19 R368: a participant of a debug step that has arrived at the stepped barrier is halted. -/
def StepHalted (s : State) : Prop :=
  ∀ d ∈ s.dies, ∀ u bar ph, (u, bar, ph) ∈ d.2.stepping →
    ∀ q ∈ s.participants u, q.2.2.stepped ((s.unit u).bar bar).phase bar ph = true → q.2.2.halted = true

/-- From every state, a step leaves every participant of a debug step that has arrived halted. -/
def stepKeepsHalts : Prop := ∀ s t : State, StepHalted s → step s = .next t → StepHalted t

/-- 19 R368: at reset no participant of a debug step runs on. -/
def resetHalts : Prop := StepHalted State.reset

/-! ## Completing, registers, masks -/

/-- What completing an instruction changes: the cycle count, the issuing core and, in the group, the instruction count, the splits and
the divergence flag (a clause that ends makes a merge test, 06 R138); inside a clause the split itself goes on with its next word. -/
def finishFrame : Prop :=
  ∀ (s : State) (x : Ctx) (pc : Word64) (n : Nat) (keep : Bool),
    let p := s.spl x
    let t := s.finish x pc n keep
    t = { s with cores := t.cores, cycle := s.cycle + n } ∧
    (∀ c, c ≠ x.c → t.core c = s.core c) ∧
    (∀ m, m ≠ x.sl → t.slot x.c m = s.slot x.c m) ∧
    t.grp x = { s.grp x with
      splits := (t.grp x).splits, xdiv := (t.grp x).xdiv, instret := (s.grp x).instret + 1 } ∧
    t.slot x.c x.sl = { s.slot x.c x.sl with group := some (t.grp x) } ∧
    (1 < p.left.toNat ∨ (p.left = 0 ∧ keep = true) →
      (t.core x.c).issuing = (s.core x.c).issuing ∧ (t.spl x).pc = pc ∧
      (t.spl x).left = (if p.left = 0 then 0 else p.left - 1) ∧
      (t.spl x).m0 = p.m0 ∧ (t.spl x).lanes = p.lanes ∧ (t.spl x).stack = p.stack ∧ (t.spl x).depth = p.depth ∧
      (t.spl x).mode = p.mode ∧ (t.spl x).gfmt = p.gfmt ∧ (t.spl x).crem = p.crem ∧ (t.spl x).marks = p.marks ∧
      (t.spl x).pend = p.pend ∧ (t.spl x).fmt = (if keep then p.fmt else none) ∧
      ∀ k, k ≠ x.sp → (t.grp x).split k = (s.grp x).split k) ∧
    (p.left = 1 ∨ (p.left = 0 ∧ keep = false) → (t.core x.c).issuing = none)

/-- 06 R110: y(32k + j) is x register j of split k; x0 of every bank reads 0 and a write of it is ignored; a write changes no other
register. -/
def uniformFile : Prop :=
  ∀ (g : Group) (k : Nat) (r : BitVec 5) (v : Word64) (n : Nat), k < 4 → n < 512 →
    (g.setX k r v).x k r = (if r = 0 then 0 else v) ∧
    (g.setX k 0 v) = g ∧
    (n ≠ 32 * k + r.toNat → (g.setX k r v).readY n = g.readY n) ∧
    (g.setX k r v).readY (32 * k + r.toNat) = (if r = 0 then 0 else v) ∧
    g.readY (32 * k + r.toNat) = g.x k r ∧
    (g.writeY (32 * k + r.toNat) v).x k r = (if r = 0 then 0 else v) ∧
    (128 ≤ n → (g.writeY n v).readY n = v)

/-- 06 R111: a write of m0 is ANDed with the lane set and the complement of the exited mask; m1 to m7 take the value; no other mask
changes. -/
def maskWrites : Prop :=
  ∀ (g : Group) (sp : Nat) (k j : BitVec 3) (v : Word32),
    let h := g.setRawMask sp k v
    h.rawMask sp k = (if k = 0 then v &&& (g.split sp).lanes &&& ~~~g.exited else v) ∧
    (j ≠ k → h.rawMask sp j = g.rawMask sp j) ∧
    h.y = g.y ∧ h.v = g.v ∧ h.exited = g.exited ∧ (h.split sp).lanes = (g.split sp).lanes ∧
    (h.split sp).stack = (g.split sp).stack ∧ (h.split sp).pc = (g.split sp).pc ∧
    ∀ q, q ≠ sp → h.split q = g.split q

/-! ## The checks of an instruction -/

/-- The majors of the standard instructions (06 Table 6.10); every other major is the device's. -/
def standardMajor (w : Word32) : Bool :=
  [0x03#7, 0x0F#7, 0x13#7, 0x17#7, 0x1B#7, 0x23#7, 0x2F#7, 0x33#7, 0x37#7, 0x3B#7, 0x63#7, 0x67#7, 0x6F#7,
    0x73#7].contains (w.extractLsb' 0 7)

/-- 06 Table 6.9: M-mode executes no Molesy-3 instruction: each raises illegal-instruction with its first word, and changes nothing
else. A clause header is not among them: M-mode code has clauses too, the model's reading of 05 R88 (log 17). -/
def machineModeRunsNoDevice : Prop :=
  ∀ (i : Instr) (s : State) (x : Ctx), i.encoded = true → standardMajor (encodeWord i) = false →
    (∀ st wt wc ws wl e n, i ≠ .clh st wt wc ws wl e n) → s.current = some x → (s.spl x).format = none → (s.spl x).mode = .m →
    exec i s =
      .next (s.raise x.c x.sl x.sp 2 ((encodeWord i).setWidth 64) (s.spl x).pc (s.spl x).remaining)

/-- 05 R93, R102, 17 R339: the checks of a lane instruction with a modifier word, in their order, for LADD without a prefix. That a register
at or above the limit comes before a bad modifier word, and puts the instruction word into the trap value, is the model's reading (log 18):
05 R102 gives the two no order. -/
def laneChecks : Prop :=
  ∀ (s : State) (x : Ctx) (m : Word32) (vd va vb : BitVec 6),
    s.current = some x → (s.spl x).format = none → (s.spl x).mode ≠ .m →
    let top := s.laneLimit x
    let w := encodeWord (.ladd (some m) vd va vb)
    let trap (code : Nat) (v : Word64) : Prop :=
      exec (.ladd (some m) vd va vb) s = .next (s.raise x.c x.sl x.sp code v (s.spl x).pc (s.spl x).remaining)
    let named := [vd, va, vb].any (fun v => decide (top ≤ v.toNat))
    let bad := m.getLsbD 31 || decide (6 ≤ (routeKind (routeA m)).toNat) || decide (6 ≤ (routeKind (routeB m)).toNat) ||
      routeC m ≠ 0
    let far := [routeA m, routeB m].any (fun b => routeKind b = 5#3 && decide (top ≤ (routeParam b).toNat))
    (named = true → trap 2 (w.setWidth 64)) ∧
    (named = false → bad = true → trap 2 (m.setWidth 64)) ∧
    (named = false → bad = false → far = true → trap 28 (m.setWidth 64)) ∧
    (named = false → bad = false → far = false → (s.spl x).mode = .u → (s.grp x).frames ≠ [] →
      ∀ v, [vd.toNat, va.toNat, vb.toNat].find? (fun v => decide (16 ≤ v)) = some v → trap 25 (gateVal 11 v))

/-- 05 R91: a clause header met as a counted word, a control transfer before the last word, and an engine instruction of another class
than the clause's raise clause-malformed with the offending word. -/
def clauseMalformed : Prop :=
  ∀ (s : State) (x : Ctx), s.current = some x → (s.spl x).format = none → (s.spl x).pend = [] →
    (s.spl x).mode = .s → s.native (s.grp x) (s.spl x).pc = true →
    (∀ f ∈ s.flights, f.what.taking = false) → (s.spl x).left ≠ 0 →
    let trap (i : Instr) : Prop :=
      exec i s = .next (s.raise x.c x.sl x.sp 30 ((encodeWord i).setWidth 64) (s.spl x).pc (s.spl x).left)
    (∀ st wt wc ws wl e n, n ≠ 0 → trap (.clh st wt wc ws wl e n)) ∧
    ((s.spl x).left ≠ 1 →
      (∀ rd off, trap (.jal rd off)) ∧ (∀ rd rs1 imm, trap (.jalr rd rs1 imm)) ∧ (∀ a b off, trap (.beq a b off)) ∧
      (∀ a b off, trap (.bne a b off)) ∧ (∀ a b off, trap (.blt a b off)) ∧ (∀ a b off, trap (.bge a b off)) ∧
      (∀ a b off, trap (.bltu a b off)) ∧ (∀ a b off, trap (.bgeu a b off)) ∧
      (∀ c m off, c.toNat < 4 → trap (.lbr c m off)) ∧
      ((s.slot x.c x.sl).mstatus.getLsbD 22 = false → trap .sret) ∧ (∀ rs1, trap (.gate rs1)) ∧ trap .gret ∧
      trap .hend ∧ (∀ rs1, trap (.join rs1))) ∧
    ((s.spl x).engc ≠ 7 → (s.spl x).engc ≠ 2 → ∀ a b, trap (.cpyk a b))

/-! ## Traps (16 R315-R321, 17 R341) -/

/-- 16 R315, R316: what taking an exception writes, in a group slot. -/
def trapEntry : Prop :=
  ∀ (s : State) (c sl sp : Nat) (g : Group) (code : Nat) (tval epc : Word64) (crem : BitVec 4),
    s.group c sl = some g → sl < 4 →
    let p := g.split sp
    let w := s.slot c sl
    let t := s.takeTrap c sl sp code false tval epc crem
    let w' := t.slot c sl
    ∃ h, t.group c sl = some h ∧
      let q := h.split sp
      q.mode = (if p.mode = .m then .m else if w.medeleg.getLsbD code then .s else .m) ∧
      (q.mode = .s →
        h.csr.sepc = epc &&& ~~~3#64 ∧ h.csr.scause = BitVec.ofNat 64 code ∧ h.csr.stval = tval ∧
        q.pc = g.csr.stvec &&& ~~~3#64 ∧ h.csr.sstatus.getLsbD 1 = false ∧
        h.csr.sstatus.getLsbD 5 = g.csr.sstatus.getLsbD 1 ∧ h.csr.sstatus.getLsbD 8 = decide (p.mode ≠ .u) ∧
        w'.mepc = w.mepc ∧ w'.mcause = w.mcause ∧ w'.mtval = w.mtval ∧ w'.mstatus = w.mstatus) ∧
      (q.mode = .m →
        w'.mepc = epc &&& ~~~3#64 ∧ w'.mcause = BitVec.ofNat 64 code ∧ w'.mtval = tval ∧
        q.pc = w.mtvec &&& ~~~3#64 ∧ w'.mstatus.getLsbD 3 = false ∧ w'.mstatus.getLsbD 7 = w.mstatus.getLsbD 3 ∧
        w'.mstatus.extractLsb' 11 2 = modeCode p.mode ∧ h.csr = g.csr) ∧
      q.crem = crem ∧
      (∀ f, p.fmt = some f → q.pp = true ∧ q.gfmt = f) ∧ (p.fmt = none → q.pp = p.pp ∧ q.gfmt = p.gfmt) ∧
      h.trapped = some sp ∧ (t.core c).issuing = none ∧
      ∀ r ∈ t.resvs, ¬ (r.2.1 = c ∧ r.2.2.1 = sl ∧ r.2.2.2 = sp)

/-- 16 R315: taking an exception changes no mask, mask stack, exited mask, lane register, x or y register and lane set, no other split
but for the `gfmt` that the splits of an LW16 group share (09 R177), no other slot, and no memory. -/
def trapFrame : Prop :=
  ∀ (s : State) (c sl sp : Nat) (g : Group) (code : Nat) (irq : Bool) (tval epc : Word64) (crem : BitVec 4),
    s.group c sl = some g →
    let t := s.takeTrap c sl sp code irq tval epc crem
    ∃ h, t.group c sl = some h ∧
      h.y = g.y ∧ h.v = g.v ∧ h.m = g.m ∧ h.exited = g.exited ∧ h.frames = g.frames ∧ h.csr.satp = g.csr.satp ∧
      (h.split sp).m0 = (g.split sp).m0 ∧ (h.split sp).lanes = (g.split sp).lanes ∧
      (h.split sp).stack = (g.split sp).stack ∧ (h.split sp).depth = (g.split sp).depth ∧
      (h.split sp).pend = (g.split sp).pend ∧ (h.split sp).marks = (g.split sp).marks ∧
      (∀ k, k ≠ sp → h.split k = { g.split k with gfmt := (h.split k).gfmt }) ∧
      (g.lw16 = false → ∀ k, k ≠ sp → h.split k = g.split k) ∧
      (∀ n, n ≠ sl → t.slot c n = s.slot c n) ∧ (∀ d, d ≠ c → t.core d = s.core d) ∧
      (t.core c).ops = (s.core c).ops ∧ (t.core c).queues = (s.core c).queues ∧
      SameMemory s t ∧ t.cycle = s.cycle ∧ t.units = s.units ∧ t.dies = s.dies

/-- 17 R341: a synchronous exception in U-mode inside a gate frame, other than a breakpoint or an environment call, goes to the
frame's fault entry, once; every other exception is a trap. -/
def frameFaults : Prop :=
  ∀ (s : State) (c sl sp : Nat) (g : Group) (f : GateFrame) (code : Nat) (tval epc : Word64) (crem : BitVec 4),
    s.group c sl = some g → g.frames.getLast? = some f →
    let t := s.raise c sl sp code tval epc crem
    ((g.split sp).mode = .u → code ≠ 3 → code ≠ 8 → f.faulted = false →
      ∃ h, t.group c sl = some h ∧ (h.frames.getLast?).map GateFrame.faulted = some true ∧
        h.frames.length = g.frames.length ∧
        h.x sp 10 = BitVec.ofNat 64 code ∧ h.x sp 11 = tval ∧ h.x sp 12 = epc ∧
        (∀ r, r ≠ 10 → r ≠ 11 → r ≠ 12 → h.x sp r = g.x sp r) ∧
        (h.split sp).pp = false ∧ (h.split sp).crem = 0 ∧ (h.split sp).pc = f.fault.setWidth 64 ∧
        (h.split sp).mode = .u ∧ h.csr = g.csr ∧ h.dom = g.dom ∧ SameMemory s t) ∧
    ((g.split sp).mode = .u → code ≠ 3 → code ≠ 8 → f.faulted = true →
      t = s.freezeGroup c sl (some code) tval) ∧
    ((g.split sp).mode ≠ .u ∨ code = 3 ∨ code = 8 → t = s.takeTrap c sl sp code false tval epc crem)

/-- 16 R323, R324: the interrupt a split takes: one that is pending and enabled, of M-mode where it is not delegated and of S-mode where it is
(delegation as ratified). M-mode's come first, and within a mode the order is MEI, MSI, MTI, SEI, SSI, STI and code 16. A split takes none
only where no interrupt is pending and enabled. -/
def interruptOrder : Prop :=
  ∀ (s : State) (c sl : Nat) (p : Split) (g : Group), s.group c sl = some g →
    let w := s.slot c sl
    let order := [11, 3, 7, 9, 1, 5, 16]
    let ready (j : Nat) : Prop := j ∈ order ∧ (s.mip c sl).getLsbD j = true ∧ (s.mieOf c sl).getLsbD j = true
    let takes (j : Nat) (md : Mode) : Prop := ready j ∧
      ((md = .m ∧ w.mideleg.getLsbD j = false ∧ (p.mode ≠ .m ∨ w.mstatus.getLsbD 3 = true)) ∨
       (md = .s ∧ w.mideleg.getLsbD j = true ∧ (p.mode = .u ∨ (p.mode = .s ∧ g.csr.sstatus.getLsbD 1 = true))))
    (∀ i md, s.takeable c sl p = some (i, md) ↔ takes i md ∧
      (∀ j, takes j .m → md = .m ∧ order.idxOf i ≤ order.idxOf j) ∧
      (∀ j, takes j .s → md = .m ∨ order.idxOf i ≤ order.idxOf j)) ∧
    (s.takeable c sl p = none ↔ ∀ j md, ¬ takes j md)

/-- 06 R120, 16 R317: ECALL raises the environment call of its mode with value 0, and EBREAK a breakpoint with its own address. -/
def callsAndBreaks : Prop :=
  ∀ (s : State) (x : Ctx), Issues s x [] →
    let p := s.spl x
    exec .ecall s =
      .next (s.raise x.c x.sl x.sp (if p.mode = .u then 8 else if p.mode = .s then 9 else 11) 0 p.pc p.remaining) ∧
    exec .ebreak s = .next (s.raise x.c x.sl x.sp 3 p.pc p.pc p.remaining)

/-- 16 R321: SRET and MRET go to the saved pc in the saved mode, restore the interrupt enable, and keep PP and CREM; back in the mode
that the trap came from, the siblings are no longer frozen. In a mode too low they raise illegal-instruction. -/
def trapReturns : Prop :=
  ∀ (s : State) (x : Ctx), Issues s x [] → LastWord s x →
    let p := s.spl x
    let g := s.grp x
    let w := s.slot x.c x.sl
    let illegal (i : Instr) : Prop :=
      exec i s = .next (s.raise x.c x.sl x.sp 2 ((encodeWord i).setWidth 64) p.pc p.remaining)
    (p.mode = .m ∨ (p.mode = .s ∧ w.mstatus.getLsbD 22 = false) →
      ∃ t : State, exec .sret s = .next (t.finish x g.csr.sepc 1 false) ∧
        let h := t.grp x
        let q := t.spl x
        q.mode = (if g.csr.sstatus.getLsbD 8 then .s else .u) ∧
        h.csr.sstatus.getLsbD 1 = g.csr.sstatus.getLsbD 5 ∧ h.csr.sstatus.getLsbD 5 = true ∧
        h.csr.sstatus.getLsbD 8 = false ∧ q.pp = p.pp ∧ q.crem = p.crem ∧ q.gfmt = p.gfmt ∧
        h.y = g.y ∧ h.v = g.v ∧ h.m = g.m ∧
        h.trapped = (if p.trapFrom = some q.mode then none else g.trapped)) ∧
    (p.mode = .u ∨ (p.mode = .s ∧ w.mstatus.getLsbD 22 = true) → illegal .sret) ∧
    (p.mode = .m →
      ∃ t : State, exec .mret s = .next (t.finish x w.mepc 1 false) ∧
        let q := t.spl x
        let v := t.slot x.c x.sl
        q.mode = (if w.mstatus.extractLsb' 11 2 = 0#2 then .u else if w.mstatus.extractLsb' 11 2 = 1#2 then .s else .m) ∧
        v.mstatus.getLsbD 3 = w.mstatus.getLsbD 7 ∧ v.mstatus.getLsbD 7 = true ∧ v.mstatus.extractLsb' 11 2 = 0#2 ∧
        q.pp = p.pp ∧ q.crem = p.crem ∧ q.gfmt = p.gfmt ∧ (t.grp x).csr = g.csr ∧ (t.grp x).y = g.y ∧
        (t.grp x).trapped = (if p.trapFrom = some q.mode then none else g.trapped)) ∧
    (p.mode ≠ .m → illegal .mret)

/-! ## Zicsr and the system instructions -/

/-- 06 R112: a CSR instruction reads the register into rd and writes it under its mask, where the mode may and the register exists; else
it raises illegal-instruction. CSRRS, CSRRC and their immediate forms write only with a nonzero operand field. -/
def csrInstructions : Prop :=
  ∀ (s : State) (x : Ctx) (rd rs1 : BitVec 5) (n : BitVec 12),
    let p := s.spl x
    let a := s.x x rs1
    let u : Word64 := rs1.setWidth 64
    let ones : Word64 := BitVec.allOnes 64
    let runs (i : Instr) (write : Bool) (v mask : Word64) : Prop :=
      (∀ old, csrAllowed p.mode n write = true → s.csrRead x n.toNat = some old →
        exec i s = .next (s.done (State.setX (if write then s.csrWrite x n.toNat v mask else s) x rd old) x 1)) ∧
      (csrAllowed p.mode n write = false ∨ s.csrRead x n.toNat = none →
        exec i s = .next (s.raise x.c x.sl x.sp 2 ((encodeWord i).setWidth 64) p.pc p.remaining))
    (Issues s x [rd, rs1] →
      runs (.csrrw rd rs1 n) true a ones ∧ runs (.csrrs rd rs1 n) (rs1 ≠ 0) ones a ∧
      runs (.csrrc rd rs1 n) (rs1 ≠ 0) 0 a) ∧
    (Issues s x [rd] →
      runs (.csrrwi rd rs1 n) true u ones ∧ runs (.csrrsi rd rs1 n) (rs1 ≠ 0) ones u ∧
      runs (.csrrci rd rs1 n) (rs1 ≠ 0) 0 u)

/-- 06 R112-R117, R121, Tables 6.3-6.8: which CSRs exist, who may reach them, what the read-only ones hold, what a write leaves of each
field, and that it writes no memory; the timer interrupts are pending as long as `time` has reached their comparison value, and of `sip`
software writes bits 1 and 16 (16 R323). That bit 1 of a trap vector reads 0 is the model's choice (log 23). -/
def csrRegisters : Prop :=
  ∀ (s : State) (x : Ctx) (v mask : Word64), x.sp < 4 →
    let g := s.grp x
    let p := s.spl x
    let w := s.slot x.c x.sl
    let nv (old : Word64) : Word64 := (old &&& ~~~mask) ||| (v &&& mask)
    let t (n : Nat) : State := s.csrWrite x n v mask
    let keeps (n : Nat) (old bits : Word64) : Prop :=
      s.csrRead x n = some old ∧ (t n).csrRead x n = some (nv old &&& bits) ∧ SameMemory s (t n)
    let all : Word64 := BitVec.allOnes 64
    /- who may -/
    (∀ (md : Mode) (n : BitVec 12) (write : Bool), csrAllowed md n write = true ↔
      (n.extractLsb' 8 2).toNat ≤ (match md with | .u => 0 | .s => 1 | .m => 3) ∧ (write = true → n.extractLsb' 10 2 ≠ 3#2)) ∧
    /- which exist -/
    (∀ n, n < 4096 → (n < 0xC00 ∨ 0xC1F < n) → n ∉ [0x100, 0x104, 0x105, 0x106, 0x10A, 0x140, 0x141, 0x142, 0x143, 0x144, 0x14D, 0x180,
      0x300, 0x301, 0x302, 0x303, 0x304, 0x305, 0x306, 0x30A, 0x340, 0x341, 0x342, 0x343, 0x344, 0xB00, 0xB02, 0xF11, 0xF12, 0xF13,
      0xF14, 0xCC0, 0xCC1, 0x800, 0x801, 0x802, 0x803, 0x5C0, 0x5C1, 0x5C2, 0x5C3] → s.csrRead x n = none) ∧
    /- read-only ones -/
    s.csrRead x 0x301 = some 0x8000000000141101 ∧ s.csrRead x 0xF11 = some 0 ∧ s.csrRead x 0xF12 = some 0x4D33 ∧
    s.csrRead x 0xF13 = some 0x31 ∧ s.csrRead x 0xF14 = some (BitVec.ofNat 64 (8 * x.c + x.sl)) ∧
    s.csrRead x 0xCC0 = some (if g.lw16 then 16 else 32) ∧ s.csrRead x 0xCC1 = some 0x0020088040201010 ∧
    /- the trap registers, and their fields that hold zero -/
    keeps 0x140 g.csr.sscratch all ∧ keeps 0x142 g.csr.scause all ∧ keeps 0x143 g.csr.stval all ∧
    keeps 0x340 w.mscratch all ∧ keeps 0x342 w.mcause all ∧ keeps 0x343 w.mtval all ∧
    (g.csr.sepc.extractLsb' 0 2 = 0#2 → keeps 0x141 g.csr.sepc (~~~3#64)) ∧ (w.mepc.extractLsb' 0 2 = 0#2 → keeps 0x341 w.mepc (~~~3#64)) ∧
    keeps 0x14D g.csr.stimecmp all ∧ keeps 0x106 (g.csr.scounteren.setWidth 64) 0xFFFFFFFF ∧
    keeps 0x306 (w.mcounteren.setWidth 64) 0xFFFFFFFF ∧
    ((p.mode ≠ .s ∨ w.mstatus.getLsbD 20 = false) → s.csrRead x 0x180 = some g.csr.satp ∧
      (t 0x180).csrRead x 0x180 = some (if (nv g.csr.satp).extractLsb' 60 4 = 0#4 ∨ (nv g.csr.satp).extractLsb' 60 4 = 9#4 then
        nv g.csr.satp else g.csr.satp)) ∧
    /- vectors and interrupts -/
    (g.csr.stvec.getLsbD 1 = false → keeps 0x105 g.csr.stvec (~~~2#64)) ∧ (w.mtvec.getLsbD 1 = false → keeps 0x305 w.mtvec (~~~2#64)) ∧
    s.csrRead x 0x344 = some (s.mip x.c x.sl) ∧ s.csrRead x 0x144 = some (s.mip x.c x.sl &&& w.mideleg) ∧
    (let m := mask &&& w.mideleg &&& 0x10002
     ((t 0x144).grp x).csr.sip = (g.csr.sip &&& ~~~m) ||| (v &&& m)) ∧
    (s.group x.c x.sl = some g → ∀ k, k < 64 → (s.mip x.c x.sl).getLsbD k =
      (w.mip.getLsbD k || g.csr.sip.getLsbD k || (decide (k = 5) && decide (g.csr.stimecmp.toNat ≤ s.time.toNat)) ||
        (decide (k = 7) && decide (w.mtimecmp.toNat ≤ s.time.toNat)))) ∧
    /- the device's own, by the fields of their tables -/
    (∃ r, s.csrRead x 0x801 = some r ∧ r.getLsbD 31 = p.pp ∧ r.extractLsb' 24 4 = p.crem ∧ r.extractLsb' 20 2 = BitVec.ofNat 2 x.sp ∧
      (∀ k, k < 4 → r.getLsbD (16 + k) = g.uses k) ∧ r.getLsbD 3 = g.aur ∧ r.getLsbD 2 = g.xdiv ∧ r.getLsbD 1 = g.lw16 ∧
      r.getLsbD 0 = !s.native g p.pc ∧ r.extractLsb' 32 32 = 0#32) ∧
    (p.depth.toNat ≤ 16 → ∃ r, s.csrRead x 0x802 = some r ∧ r = (p.idx.setWidth 64 <<< 8) ||| p.depth.setWidth 64 ∧
      let q := (t 0x802).spl x
      q.idx = (nv r).extractLsb' 8 4 ∧ q.depth = (if ((nv r).extractLsb' 0 5).toNat ≤ 16 then (nv r).extractLsb' 0 5 else p.depth) ∧
      q.stack = p.stack) ∧
    (g.lw16 = false → let e := Map.getD 0 p.stack p.idx.toNat
      s.csrRead x 0x803 = some (e.setWidth 64) ∧ Map.getD 0 ((t 0x803).spl x).stack p.idx.toNat = (nv (e.setWidth 64)).setWidth 32) ∧
    keeps 0x5C0 (p.gfmt.setWidth 64) 0x3FFFF ∧
    (∃ r, s.csrRead x 0x5C1 = some r ∧ r.extractLsb' 60 4 = g.gsel ∧ (∀ k, k < 4 → r.getLsbD (56 + k) = g.uses k) ∧
      (g.uses (g.gsel.extractLsb' 2 2).toNat = false → r.extractLsb' 0 48 = 0#48) ∧
      ((t 0x5C1).grp x).gsel = (nv r).extractLsb' 60 4) ∧
    (∃ r, s.csrRead x 0x800 = some r ∧ r.extractLsb' 0 6 = g.wsgrp ∧ ((t 0x800).grp x).wsgrp = (nv r).extractLsb' 0 6)

/-- 16 R320: on `gstat` the set and clear forms act only on the bits of their mask operand; AUR and XDIV are cleared by a written 1; PP
and CREM are written outside U-mode only. -/
def gstatWrites : Prop :=
  ∀ (s : State) (x : Ctx) (v mask : Word64), x.sp < 4 →
    let g := s.grp x
    let p := s.spl x
    let t := s.csrWrite x 0x801 v mask
    let h := t.grp x
    let q := t.spl x
    (h.aur = (g.aur && !(mask.getLsbD 3 && v.getLsbD 3))) ∧ (h.xdiv = (g.xdiv && !(mask.getLsbD 2 && v.getLsbD 2))) ∧
    (p.mode ≠ .u →
      q.pp = (if mask.getLsbD 31 then v.getLsbD 31 else p.pp) ∧
      q.crem = (p.crem &&& ~~~mask.extractLsb' 24 4) ||| (v.extractLsb' 24 4 &&& mask.extractLsb' 24 4)) ∧
    (p.mode = .u → q = p) ∧
    h.y = g.y ∧ h.v = g.v ∧ h.m = g.m ∧ h.csr = g.csr ∧ h.lw16 = g.lw16 ∧ SameMemory s t

/-- 06 R120, 10 R190, 13 R263: WFI, SFENCE.VMA, FENCE and FENCE.I where they complete at once, and where they wait. An
SFENCE.VMA waits until the split's earlier stores, of page tables among them, are performed. -/
def systemWaits : Prop :=
  ∀ (s : State) (x : Ctx) (rd rs1 rs2 : BitVec 5) (fm pr su : BitVec 4) (imm : BitVec 12), Issues s x [rs1, rs2] →
    let p := s.spl x
    let k := s.core x.c
    let w := s.slot x.c x.sl
    let parks (t : State) (wk : Wake) : State := (t.counted x).parkSplit x (p.pc + 4) (p.remaining - 1) wk
    let illegal (i : Instr) : Prop :=
      exec i s = .next (s.raise x.c x.sl x.sp 2 ((encodeWord i).setWidth 64) p.pc p.remaining)
    (p.mode = .m ∨ (p.mode = .s ∧ w.mstatus.getLsbD 21 = false) →
      (s.mip x.c x.sl ≠ 0 → exec .wfi s = .next (s.done s x 1)) ∧
      (s.mip x.c x.sl = 0 → x.handler = false → exec .wfi s = .next (parks s .interrupt))) ∧
    (p.mode ≠ .s ∨ w.mstatus.getLsbD 20 = true → illegal (.sfenceVma rs1 rs2)) ∧
    (p.mode = .s ∧ w.mstatus.getLsbD 20 = false →
      (p.sfence = some true → exec (.sfenceVma rs1 rs2) s = .next (s.done (s.setSpl x { p with sfence := none }) x 1)) ∧
      (p.sfence = none → k.storeCount x.sl x.sp ≠ 0 → exec (.sfenceVma rs1 rs2) s = .next (s.waits x)) ∧
      (p.sfence = none → k.storeCount x.sl x.sp = 0 → ∃ t : State, exec (.sfenceVma rs1 rs2) s = .next t ∧ (t.spl x).sfence = some false ∧
        (t.core x.c).waiting = true ∧ (∀ e ∈ t.l1, e ∈ s.l1) ∧ (∀ e ∈ t.dcache, e ∈ s.dcache) ∧ (∀ e ∈ t.tlb, e ∈ s.tlb) ∧
        (rs1 = 0 → rs2 = 0 → t.l1 = [] ∧ t.dcache = [] ∧ t.tlb = []))) ∧
    (k.loadCount x.sl x.sp = 0 → k.storeCount x.sl x.sp = 0 → k.hartDone x.sl x.sp = true →
      exec (.fence rd rs1 fm pr su) s = .next (s.done ((s.release x).acquire x) x 1)) ∧
    (k.loadCount x.sl x.sp ≠ 0 ∨ k.storeCount x.sl x.sp ≠ 0 ∨ k.hartDone x.sl x.sp = false → x.handler = false →
      exec (.fence rd rs1 fm pr su) s = .next (parks (s.release x) (.fence 0 0 true))) ∧
    (k.storeCount x.sl x.sp = 0 →
      ∃ t : State, exec (.fenceI rd rs1 imm) s = .next (s.done t x 1) ∧ t = { s with icache := t.icache } ∧
        ∀ ln < 2 ^ 58, Map.find t.icache ((flockOf x.c * 2 ^ 16 + (s.grp x).asid.toNat) * 2 ^ 58 + ln) = none)

/-! ## Group instructions of custom-0 (06 R127-R136) -/

/-- 06 R127, R128, R129: where a clause header, a prefix and a counter wait take effect. -/
def clauseAndWaits : Prop :=
  ∀ (s : State) (x : Ctx), Issues s x [] →
    let p := s.spl x
    let g := s.grp x
    let k := s.core x.c
    (∀ st t c w l e n, n ≠ 0 → p.left = 0 → k.met x.sl x.sp t c w l = true →
      let u := s.setSpl x { p with pc := p.pc + 4, left := n, engc := e, stall := st }
      exec (.clh st t c w l e n) s = .next (u.setCore x.c { u.core x.c with waiting := false })) ∧
    (IssuesDev s x [] [] → ∀ rnd fd fb fa w, fmtListed fa = true → fmtListed fb = true → fmtListed fd = true → rndListed rnd = true →
      s.fetch x.c g p.mode (p.pc + 4) = .word w → fmtTarget w (rnd ++ fd ++ fb ++ fa) (s.laneLimit x) = true →
      (p.left ≠ 1 → exec (.fmt rnd fd fb fa) s =
        .next ((s.setSpl x { p with fmt := some (rnd ++ fd ++ fb ++ fa) }).finish x (p.pc + 4) 1 true)) ∧
      (p.left = 1 → exec (.fmt rnd fd fb fa) s =
        .next (s.raise x.c x.sl x.sp 31 ((encodeWord (.fmt rnd fd fb fa)).setWidth 64) p.pc 1))) ∧
    (IssuesDev s x [] [] → ∀ t c w l,
      (k.met x.sl x.sp t c w l = true → exec (.waitc t c w l) s = .next (s.done s x 1)) ∧
      (k.met x.sl x.sp t c w l = false → x.handler = false → exec (.waitc t c w l) s =
        .next ((s.counted x).parkSplit x (p.pc + 4) (p.remaining - 1) (.counters t c w l))) ∧
      (k.met x.sl x.sp t c w l = false → x.handler = true → exec (.waitc t c w l) s =
        .next (s.raise x.c x.sl x.sp 26 ((encodeWord (.waitc t c w l)).setWidth 64) p.pc p.remaining)))

/-- 06 R130, R131: MOVY both ways in a group slot of a full-width group outside a gate frame, and LQ by Table 6.14. -/
def uniformMoves : Prop :=
  ∀ (s : State) (x : Ctx) (rd : BitVec 5) (n : BitVec 9), IssuesDev s x [rd] [] → Ungated s x →
    let g := s.grp x
    let p := s.spl x
    let m0 := g.mask x.sp 0
    (x.handler = false → g.lw16 = false → (∀ e ∈ g.splits, e.2.pend = []) →
      exec (.movyRd rd n) s = .next (s.doneX x rd (g.readY n.toNat)) ∧
      exec (.movyYn n rd) s = .next (s.done (s.setGrp x (g.writeY n.toNat (s.x x rd))) x 1)) ∧
    (∀ sel : BitVec 5, sel.toNat < 9 →
      ∃ v, exec (.lq rd sel) s = .next (s.doneX x rd v) ∧
        (sel = 0 → v = if g.lw16 then 16 else 32) ∧
        (sel = 1 → v = BitVec.ofNat 64 (s.laneLimit x)) ∧
        (sel = 2 → v = BitVec.ofNat 64 x.sp) ∧
        (sel = 3 → ∀ j, j < 32 → v.getLsbD j = g.uses j) ∧
        (sel = 4 → v = BitVec.ofNat 64 ((List.range 32).filter (fun j => m0.getLsbD j)).length) ∧
        (sel = 5 → (m0 = 0 → v = if g.lw16 then 16 else 32) ∧
          (m0 ≠ 0 → v.toNat < 32 ∧ m0.getLsbD v.toNat = true ∧ ∀ j, j < v.toNat → m0.getLsbD j = false)) ∧
        (sel = 6 → v = (g.view x.sp g.exited).setWidth 64) ∧
        (sel = 7 → v = (g.view x.sp p.lanes).setWidth 64) ∧
        (sel = 8 → v = BitVec.ofNat 64 x.sl)) ∧
    (∀ sel : BitVec 5, 9 ≤ sel.toNat → exec (.lq rd sel) s =
      .next (s.raise x.c x.sl x.sp 2 ((encodeWord (.lq rd sel)).setWidth 64) p.pc p.remaining))

/-- 06 R132: the mask stack; depth 16 stops a push and depth 0 a pop, with the word and no change. -/
def maskStack : Prop :=
  ∀ (s : State) (x : Ctx) (a : BitVec 3), IssuesDev s x [] [] → (s.spl x).depth.toNat ≤ 16 →
    let g := s.grp x
    let p := s.spl x
    let live := p.lanes &&& ~~~g.exited
    let top := p.entry (p.depth.toNat - 1)
    let illegal (i : Instr) : Prop :=
      exec i s = .next (s.raise x.c x.sl x.sp 2 ((encodeWord i).setWidth 64) p.pc p.remaining)
    (p.depth.toNat < 16 →
      ∃ t : State, exec (.mpush a) s = .next (s.done t x 1) ∧ (t.spl x).m0 = p.m0 &&& g.rawMask x.sp a &&& live ∧
        (t.spl x).depth = p.depth + 1 ∧ (t.spl x).entry p.depth.toNat = p.m0 ∧
        (∀ e, e ≠ p.depth.toNat → (t.spl x).entry e = p.entry e) ∧ (t.grp x).y = g.y ∧ (t.grp x).v = g.v ∧
        (t.grp x).m = g.m ∧ SameMemory s t) ∧
    (p.depth = 16 → illegal (.mpush a)) ∧
    (p.depth ≠ 0 →
      (∃ t : State, exec .melse s = .next (s.done t x 1) ∧ (t.spl x).m0 = top &&& ~~~p.m0 &&& live ∧
        (t.spl x).depth = p.depth ∧ (t.spl x).stack = p.stack ∧ (t.grp x).y = g.y ∧ (t.grp x).v = g.v ∧
        (t.grp x).m = g.m ∧ SameMemory s t) ∧
      (∃ t : State, exec .mpop s = .next (s.done t x 1) ∧ (t.spl x).m0 = top &&& live ∧
        (t.spl x).depth = p.depth - 1 ∧ (t.spl x).stack = p.stack ∧ (t.grp x).y = g.y ∧ (t.grp x).v = g.v ∧
        (t.grp x).m = g.m ∧ SameMemory s t)) ∧
    (p.depth = 0 → illegal .melse ∧ illegal .mpop)

/-- 06 R133, 08 R170: the mask moves and the mask logic act on the L bits the split sees, and complete. -/
def maskMoves : Prop :=
  ∀ (s : State) (x : Ctx) (r : BitVec 5) (d a b : BitVec 3), IssuesDev s x [r] [] →
    let g := s.grp x
    let A := g.mask x.sp a
    let B := g.mask x.sp b
    let out (v : Word32) : Result := .next (s.done (s.setGrp x (g.setMask x.sp d v)) x 1)
    exec (.mrd r a) s = .next (s.doneX x r (A.setWidth 64)) ∧
    exec (.mwr d r) s = out ((s.x x r).setWidth 32) ∧
    exec (.mmv d a) s = out A ∧
    exec (.mand d a b) s = out (A &&& B) ∧ exec (.mor d a b) s = out (A ||| B) ∧
    exec (.mxor d a b) s = out (A ^^^ B) ∧ exec (.mandn d a b) s = out (A &&& ~~~B) ∧ exec (.mnot d a) s = out (~~~A)

/-- 06 R134: the branch on a mask condition; as a control transfer it must be the last word of its clause (05 R91), and a
condition of 4 to 7 is illegal. -/
def maskBranch : Prop :=
  ∀ (s : State) (x : Ctx) (cond m : BitVec 3) (off : BitVec 14), IssuesDev s x [] [] →
    let p := s.spl x
    let t := (s.grp x).rawMask x.sp m &&& p.m0
    let traps (code : Nat) : Prop := exec (.lbr cond m off) s =
      .next (s.raise x.c x.sl x.sp code ((encodeWord (.lbr cond m off)).setWidth 64) p.pc p.remaining)
    (cond.toNat < 4 → LastWord s x →
      exec (.lbr cond m off) s = .next (s.finish x
        (if (cond = 0 ∧ t ≠ 0) ∨ (cond = 1 ∧ t = 0) ∨ (cond = 2 ∧ t = p.m0) ∨ (cond = 3 ∧ t ≠ p.m0)
          then p.pc + off.signExtend 64 * 4 else p.pc + 4) 1 false)) ∧
    (cond.toNat < 4 → ¬ LastWord s x → traps 30) ∧ (4 ≤ cond.toNat → traps 2)

/-- 06 R135: LJALR with no active lane goes on, one target is a jump of the whole split, and of two targets with a free split id the
lower goes with the split and the other with the lowest free id; the link goes to rd. A misaligned target traps and changes nothing. -/
def laneJump : Prop :=
  ∀ (s : State) (x : Ctx) (rd : BitVec 5) (va : BitVec 6) (imm : BitVec 9), IssuesDev s x [rd] [va] → LastWord s x →
    let g := s.grp x
    let p := s.spl x
    let target (l : Nat) : Word64 := 0x7F0000000000 + ((g.v32 va l) + imm.signExtend 32).setWidth 64
    let aligned : Prop := ∀ l < 32, p.m0.getLsbD l = true → (target l).extractLsb' 0 2 = 0#2
    (p.m0 = 0 → exec (.ljalr rd va imm) s = .next (s.doneX x rd (p.pc + 4))) ∧
    (∀ a, p.m0 ≠ 0 → aligned → (∀ l < 32, p.m0.getLsbD l = true → target l = a) →
      exec (.ljalr rd va imm) s = .next ((s.setX x rd (p.pc + 4)).finish x a 1 false)) ∧
    (∀ l < 32, p.m0.getLsbD l = true → (target l).extractLsb' 0 2 ≠ 0#2 →
      (∀ j < l, p.m0.getLsbD j = true → (target j).extractLsb' 0 2 = 0#2) →
      exec (.ljalr rd va imm) s = .next (s.raise x.c x.sl x.sp 0 (target l) p.pc p.remaining)) ∧
    (∀ a b k ks, aligned → a.toNat < b.toNat →
      (∀ l < 32, p.m0.getLsbD l = true → target l = a ∨ target l = b) →
      (∃ l < 32, p.m0.getLsbD l = true ∧ target l = a) → (∃ l < 32, p.m0.getLsbD l = true ∧ target l = b) →
      x.handler = false → p.mode = .u → g.frames = [] → g.uses x.sp = true → g.freeIds x.sp = k :: ks →
      (∀ e ∈ g.splits, e.2.pend = []) →
      ∃ t : State, exec (.ljalr rd va imm) s = .next (t.finish x a 1 false) ∧
        let h := t.grp x
        (h.split k).pc = b ∧ (h.split k).mode = .u ∧ (h.split k).depth = p.depth ∧ (h.split k).marks = p.marks ∧
        (∀ l < 32, (h.split k).m0.getLsbD l = (p.m0.getLsbD l && decide (target l = b)) ∧
          (h.split k).lanes.getLsbD l = (p.m0.getLsbD l && decide (target l = b)) ∧
          (t.spl x).m0.getLsbD l = (p.m0.getLsbD l && decide (target l = a)) ∧
          (t.spl x).lanes.getLsbD l = (p.lanes.getLsbD l && !(p.m0.getLsbD l && decide (target l = b)))) ∧
        (∀ r, h.x k r = h.x x.sp r) ∧ (rd ≠ 0 → h.x x.sp rd = p.pc + 4) ∧ h.v = g.v ∧ h.m = g.m)

/-- 06 R136: LEXIT retires the active lanes; while lanes are left the split goes on with none active; the last split of a group ends
it; the handler slot, a gate frame and S-mode are refused by their traps. -/
def laneExit : Prop :=
  ∀ (s : State) (x : Ctx), IssuesDev s x [] [] →
    let g := s.grp x
    let p := s.spl x
    (p.mode = .u → x.handler = false → g.frames = [] → p.lanes &&& ~~~p.m0 ≠ 0 →
      ∃ t : State, exec .lexit s = .next (s.done t x 1) ∧ (t.grp x).exited = g.exited ||| p.m0 ∧
        (t.spl x).lanes = p.lanes &&& ~~~p.m0 ∧ (t.spl x).m0 = 0 ∧ (t.grp x).v = g.v ∧ (t.grp x).y = g.y ∧
        (∀ e, (t.spl x).entry e = p.entry e &&& ~~~p.m0)) ∧
    (p.mode = .u → x.handler = false → g.frames = [] → p.lanes &&& ~~~p.m0 = 0 → (∀ k, k ≠ x.sp → g.uses k = false) →
      ∃ t : State, exec .lexit s = .next t ∧ t.group x.c x.sl = none) ∧
    (p.mode = .s → x.handler = false → exec .lexit s =
      .next (s.raise x.c x.sl x.sp 2 ((encodeWord .lexit).setWidth 64) p.pc p.remaining)) ∧
    (p.mode = .u → x.handler = true → exec .lexit s =
      .next (s.raise x.c x.sl x.sp 26 ((encodeWord .lexit).setWidth 64) p.pc p.remaining)) ∧
    (p.mode = .u → x.handler = false → g.frames ≠ [] → exec .lexit s =
      .next (s.raise x.c x.sl x.sp 25 (gateVal 12 0) p.pc p.remaining))

/-! ## Lane arithmetic (07): every prefix, modifier word and width -/

/-- The elements of width w of lane values, as a result gives them from the elements of the sources. -/
def ElementWise (w : Nat) (v a b : Nat → Word32) (f : Nat → Nat → Nat) (m0 : Word32) : Prop :=
  ∀ l, l < 32 → bit m0 l = true → ∀ i, i < 32 / w → elem w (v l) i = f (elem w (a l) i) (elem w (b l) i)

/-- 07 R142, R143, R144, R145, Table 7.1: what a routed source supplies to a lane of the split's view, by the kind and the distance of its
route byte: the value of the source lane, active or not and of any split, and 0 where that lane has exited. A split of an LW16 group sees its
16 lanes alone, so no lane of the other half supplies a value. A route of kind 0, or an absent one, is the lane itself. The latency class is
2 where a route of the modifier word is indexed by a register, 1 where one moves by a distance, and 0 otherwise. -/
def laneRoutes : Prop :=
  ∀ (g : Group) (sp : Nat) (v : BitVec 6) (kind : BitVec 3) (k : BitVec 5) (l : Nat) (md : Word32),
    let n := if g.lw16 then 16 else 32
    let h := if g.lw16 then 16 * (sp % 2) else 0
    let val := g.route sp v (kind ++ k) (h + l)
    let supplied (src : Nat) : Word32 := if g.exited.getLsbD (h + src) then 0 else g.v32 v (h + src)
    let kinds := [md.extractLsb' 5 3, md.extractLsb' 13 3, md.extractLsb' 21 3]
    l < n →
    g.route sp v 0 (h + l) = g.v32 v (h + l) ∧
    (kind = 0 → g.exited.getLsbD (h + l) = false → val = g.v32 v (h + l)) ∧
    (kind = 1 → ∃ j, j < n ∧ (j + k.toNat) % n = l ∧ val = supplied j) ∧
    (kind = 2 → val = supplied ((l + k.toNat) % n)) ∧
    (kind = 3 → val = supplied (k.toNat % n)) ∧
    (kind = 4 → l ^^^ (k.toNat % n) < n ∧ val = supplied (l ^^^ (k.toNat % n))) ∧
    (kind = 5 → val = supplied ((g.v32 (k.setWidth 6) (h + l)).toNat % n)) ∧
    modClass none = 0 ∧
    modClass (some md) = (if 5 ∈ kinds ∨ 6 ∈ kinds ∨ 7 ∈ kinds then modClass (some md) else if kinds = [0, 0, 0] then 0 else 1) ∧
    (5 ∈ kinds → 6 ∉ kinds → 7 ∉ kinds → modClass (some md) = 2)

/-- 07 R151, Table 7.6: the two-source integer instructions, element by element in the format in force; a and b are read signed or
unsigned as the table says. -/
def laneIntegerResults : Prop :=
  ∀ (s : State) (x : Ctx) (md : Option Word32) (vd va vb : BitVec 6),
    let g := s.grp x
    let fc := (s.withFormat x).fa fcINT32
    let w := fmtWidth fc
    let n (a : Nat) : Int := readInt w (fmtSigned fc) a
    let i (a : Nat) : Int := readInt w true a
    let gives (sh : Shape) (e : Instr) (f : Nat → Nat → Nat) : Prop :=
      IssuesLane s x sh md [] [vd, va, vb] →
      ∃ v, WritesLanes s x md (laneCycles g md) vd v (exec e s) ∧
        ElementWise w v (g.route x.sp va (mdA md)) (g.route x.sp vb (mdB md)) f (s.spl x).m0
    gives shArith2 (.ladd md vd va vb) (fun a b => finishInt md w (fmtSigned fc) (n a + n b)) ∧
    gives shArith2 (.lsub md vd va vb) (fun a b => finishInt md w (fmtSigned fc) (n a - n b)) ∧
    gives shArith2 (.lmul md vd va vb) (fun a b => finishInt md w (fmtSigned fc) (n a * n b)) ∧
    gives shLogic2 (.lmulh md vd va vb) (fun a b => ((i a * i b / 2 ^ w) % 2 ^ w).toNat) ∧
    gives shLogic2 (.lmulhu md vd va vb) (fun a b => a * b / 2 ^ w) ∧
    gives shLogic2 (.lmin md vd va vb) (fun a b => if i a ≤ i b then a else b) ∧
    gives shLogic2 (.lmax md vd va vb) (fun a b => if i b ≤ i a then a else b) ∧
    gives shLogic2 (.lminu md vd va vb) (fun a b => min a b) ∧
    gives shLogic2 (.lmaxu md vd va vb) (fun a b => max a b) ∧
    gives shLogic2 (.land md vd va vb) (fun a b => a &&& b) ∧
    gives shLogic2 (.lor md vd va vb) (fun a b => a ||| b) ∧
    gives shLogic2 (.lxor md vd va vb) (fun a b => a ^^^ b) ∧
    gives shLogic2 (.landn md vd va vb) (fun a b => a &&& (2 ^ w - 1 - b)) ∧
    gives shLogic2 (.lsll md vd va vb) (fun a b => a * 2 ^ (b % w) % 2 ^ w) ∧
    gives shLogic2 (.lsrl md vd va vb) (fun a b => a / 2 ^ (b % w)) ∧
    gives shLogic2 (.lsra md vd va vb) (fun a b => ((i a / 2 ^ (b % w)) % 2 ^ w).toNat)

/-- 07 R147: finish_int without a modifier wraps, and with SAT alone saturates to the range of the format. -/
def finishedIntegers : Prop :=
  ∀ (w : Nat) (sg : Bool) (v : Int), w = 8 ∨ w = 16 ∨ w = 32 →
    let lo : Int := if sg then -2 ^ (w - 1) else 0
    let hi : Int := if sg then 2 ^ (w - 1) - 1 else 2 ^ w - 1
    finishInt none w sg v = (v % 2 ^ w).toNat ∧
    readInt w sg (finishInt (some 0x08000000) w sg v) = (if v < lo then lo else if hi < v then hi else v) ∧
    (sg = true → readInt w true (finishInt (some 0x10000000) w true v) = max 0 (readInt w true (v % 2 ^ w).toNat)) ∧
    finishInt (some 0x07000000) w sg v = ((v / 2) % 2 ^ w).toNat ∧
    finishInt (some 0x01000000) w sg v = ((v * 2) % 2 ^ w).toNat ∧
    finishInt (some 0x20000000) w sg v = ((-v) % 2 ^ w).toNat

/-- 07 R152, Table 7.7: bit fields, counts, select, move and index. -/
def laneBitResults : Prop :=
  ∀ (s : State) (x : Ctx) (md : Option Word32) (vd va vb : BitVec 6),
    let g := s.grp x
    let m0 := (s.spl x).m0
    let w := fmtWidth ((s.withFormat x).fa fcINT32)
    let A := g.route x.sp va (mdA md)
    let B := g.route x.sp vb (mdB md)
    let p (l : Nat) : Nat := (B l).toNat % 32
    let n (l : Nat) : Nat := min ((B l).toNat / 256 % 32 + 1) (32 - p l)
    let gives (sh : Shape) (vs : List (BitVec 6)) (e : Instr) (good : (Nat → Word32) → Prop) : Prop :=
      IssuesLane s x sh md [] vs → ∃ v, WritesLanes s x md (laneCycles g md) vd v (exec e s) ∧ good v
    let bits (f : Nat → Nat → Bool) (v : Nat → Word32) : Prop :=
      ∀ l, l < 32 → bit m0 l = true → ∀ j, j < 32 → (v l).getLsbD j = f l j
    gives shBits2 [vd, va, vb] (.lbext md vd va vb) (bits (fun l j => (A l).getLsbD (p l + min j (n l - 1)))) ∧
    gives shBits2 [vd, va, vb] (.lbextu md vd va vb) (bits (fun l j => decide (j < n l) && (A l).getLsbD (p l + j))) ∧
    gives shBits2 [vd, va, vb] (.lbins md vd va vb) (bits (fun l j =>
      if p l ≤ j ∧ j < p l + n l then (A l).getLsbD (j - p l) else (g.v32 vd l).getLsbD j)) ∧
    gives shLogic1 [vd, va] (.lpopc md vd va) (fun v =>
      ElementWise w v A A (fun a _ => ((List.range w).filter (fun j => a.testBit j)).length) m0) ∧
    gives shLogic1 [vd, va] (.lclz md vd va) (fun v => ElementWise w v A A (fun a _ => w - bitLen a) m0) ∧
    gives shLogic1 [vd, va] (.lctz md vd va) (fun v =>
      ElementWise w v A A (fun a _ => ((List.range w).find? (fun j => a.testBit j)).getD w) m0) ∧
    gives shLogic2 [vd, va, vb] (.lsel md vd va vb) (bits (fun l j =>
      if bit (g.rawMask x.sp 1) l then (A l).getLsbD j else (B l).getLsbD j)) ∧
    gives shLogic1 [vd, va] (.lmov md vd va) (bits (fun l j => (A l).getLsbD j)) ∧
    gives shIdx [vd] (.lidx md vd) (fun v => ∀ l, l < 32 → bit m0 l = true → v l = BitVec.ofNat 32 (l - g.base x.sp))

/-- 07 R154, Table 7.8: the immediate forms. -/
def laneImmediateResults : Prop :=
  ∀ (s : State) (x : Ctx) (md : Option Word32) (vd va : BitVec 6) (imm : BitVec 9) (sh : BitVec 5),
    let g := s.grp x
    let fc := (s.withFormat x).fa fcINT32
    let w := fmtWidth fc
    let n (a : Nat) : Int := readInt w (fmtSigned fc) a
    let i (a : Nat) : Int := readInt w true a
    let A := g.route x.sp va (mdA md)
    let c : Nat := (imm.signExtend 32).toNat % 2 ^ w
    let gives (shape : Shape) (vs : List (BitVec 6)) (e : Instr) (f : Nat → Nat) : Prop :=
      IssuesLane s x shape md [] vs →
      ∃ v, WritesLanes s x md (laneCycles g md) vd v (exec e s) ∧ ElementWise w v A A (fun a _ => f a) (s.spl x).m0
    gives shArith1 [vd, va] (.laddi md vd va imm) (fun a => finishInt md w (fmtSigned fc) (n a + n c)) ∧
    gives shLogic1 [vd, va] (.landi md vd va imm) (fun a => a &&& c) ∧
    gives shLogic1 [vd, va] (.lori md vd va imm) (fun a => a ||| c) ∧
    gives shLogic1 [vd, va] (.lxori md vd va imm) (fun a => a ^^^ c) ∧
    gives shLogic1 [vd, va] (.lslli md vd va sh) (fun a => a * 2 ^ (sh.toNat % w) % 2 ^ w) ∧
    gives shLogic1 [vd, va] (.lsrli md vd va sh) (fun a => a / 2 ^ (sh.toNat % w)) ∧
    gives shLogic1 [vd, va] (.lsrai md vd va sh) (fun a => ((i a / 2 ^ (sh.toNat % w)) % 2 ^ w).toNat) ∧
    gives shNoRoute [vd] (.lmovi md vd imm) (fun _ => c)

/-- 07 R155, Table 7.9: the forms with a uniform source, whose low 32 bits stand in the place of the second source. -/
def laneUniformResults : Prop :=
  ∀ (s : State) (x : Ctx) (md : Option Word32) (vd va : BitVec 6) (xs : BitVec 5),
    let g := s.grp x
    let fc := (s.withFormat x).fa fcINT32
    let w := fmtWidth fc
    let n (a : Nat) : Int := readInt w (fmtSigned fc) a
    let i (a : Nat) : Int := readInt w true a
    let A := g.route x.sp va (mdA md)
    let U : Word32 := (s.x x xs).extractLsb' 0 32
    let gives (sh : Shape) (vs : List (BitVec 6)) (e : Instr) (f : Nat → Nat → Nat) : Prop :=
      IssuesLane s x sh md [xs] vs →
      ∃ v, WritesLanes s x md (laneCycles g md) vd v (exec e s) ∧ ElementWise w v A (fun _ => U) f (s.spl x).m0
    gives shArith1 [vd, va] (.laddx md vd va xs) (fun a b => finishInt md w (fmtSigned fc) (n a + n b)) ∧
    gives shArith1 [vd, va] (.lsubx md vd va xs) (fun a b => finishInt md w (fmtSigned fc) (n a - n b)) ∧
    gives shArith1 [vd, va] (.lmulx md vd va xs) (fun a b => finishInt md w (fmtSigned fc) (n a * n b)) ∧
    gives shLogic1 [vd, va] (.lminx md vd va xs) (fun a b => if i a ≤ i b then a else b) ∧
    gives shLogic1 [vd, va] (.lmaxx md vd va xs) (fun a b => if i b ≤ i a then a else b) ∧
    gives shLogic1 [vd, va] (.landx md vd va xs) (fun a b => a &&& b) ∧
    gives shLogic1 [vd, va] (.lorx md vd va xs) (fun a b => a ||| b) ∧
    gives shLogic1 [vd, va] (.lxorx md vd va xs) (fun a b => a ^^^ b) ∧
    gives shLogic1 [vd, va] (.lsllx md vd va xs) (fun a b => a * 2 ^ (b % w) % 2 ^ w) ∧
    gives shLogic1 [vd, va] (.lsrlx md vd va xs) (fun a b => a / 2 ^ (b % w)) ∧
    gives shLogic1 [vd, va] (.lsrax md vd va xs) (fun a b => ((i a / 2 ^ (b % w)) % 2 ^ w).toNat) ∧
    gives shNoRoute [vd] (.lmovx md vd xs) (fun _ b => b)

/-- 07 R153, R155: the integer compares write the mask for the active lanes and keep its other bits. -/
def laneCompareResults : Prop :=
  ∀ (s : State) (x : Ctx) (md : Option Word32) (k : BitVec 3) (va vb : BitVec 6) (xs : BitVec 5),
    let g := s.grp x
    let A := g.route x.sp va (mdA md)
    let B := g.route x.sp vb (mdB md)
    let U : Word32 := (s.x x xs).extractLsb' 0 32
    let gives (e : Instr) (p : Nat → Bool) : Prop :=
      IssuesLane s x shBits2 md [] [va, vb] → WritesMask s x md (laneCycles g md) k p (exec e s)
    let givesX (e : Instr) (p : Nat → Bool) : Prop :=
      IssuesLane s x shBits1 md [xs] [va] → WritesMask s x md (laneCycles g md) k p (exec e s)
    gives (.lcmpEq md k va vb) (fun l => A l = B l) ∧
    gives (.lcmpNe md k va vb) (fun l => A l ≠ B l) ∧
    gives (.lcmpLt md k va vb) (fun l => (A l).toInt < (B l).toInt) ∧
    gives (.lcmpGe md k va vb) (fun l => (B l).toInt ≤ (A l).toInt) ∧
    gives (.lcmpLtu md k va vb) (fun l => (A l).toNat < (B l).toNat) ∧
    gives (.lcmpGeu md k va vb) (fun l => (B l).toNat ≤ (A l).toNat) ∧
    givesX (.lcmpxEq md k va xs) (fun l => A l = U) ∧
    givesX (.lcmpxLt md k va xs) (fun l => (A l).toInt < U.toInt) ∧
    givesX (.lcmpxLtu md k va xs) (fun l => (A l).toNat < U.toNat)

/-- 07 R155, R156, R160: the float instructions form the exact result of Table 7.10 or 7.12 from the elements' values and pass it through
finish_fp, in the format and rounding mode in force. -/
def laneFloatResults : Prop :=
  ∀ (s : State) (x : Ctx) (md : Option Word32) (vd va vb vc : BitVec 6) (xs : BitVec 5),
    let g := s.grp x
    let y := s.withFormat x
    let t := floatOf (y.fa fcFP32)
    let A := g.route x.sp va (mdA md)
    let B := g.route x.sp vb (mdB md)
    let C := g.route x.sp vc (mdC md)
    let U : Word32 := (s.x x xs).extractLsb' 0 32
    let val (v : Word32) (i : Nat) : FNum := t.value (elem t.width v i)
    let gives (sh : Shape) (us : List (BitVec 5)) (vs : List (BitVec 6)) (e : Instr) (r : Nat → Nat → FNum) : Prop :=
      IssuesLane s x sh md us vs →
      ∃ v, WritesLanes s x md (laneCycles g md) vd v (exec e s) ∧
        ∀ l, l < 32 → bit (s.spl x).m0 l = true → ∀ i, i < 32 / t.width →
          elem t.width (v l) i = finishFp md t y.rnd (r l i) % 2 ^ t.width
    gives shFloat2 [] [vd, va, vb] (.lfadd md vd va vb) (fun l i => FNum.add y.rnd (val (A l) i) (val (B l) i)) ∧
    gives shFloat2 [] [vd, va, vb] (.lfsub md vd va vb) (fun l i => FNum.add y.rnd (val (A l) i) (val (B l) i).neg) ∧
    gives shFloat2 [] [vd, va, vb] (.lfmul md vd va vb) (fun l i => FNum.mul (val (A l) i) (val (B l) i)) ∧
    gives shFloat2 [] [vd, va, vb] (.lfmin md vd va vb) (fun l i => FNum.minimum (val (A l) i) (val (B l) i)) ∧
    gives shFloat2 [] [vd, va, vb] (.lfmax md vd va vb) (fun l i => FNum.maximum (val (A l) i) (val (B l) i)) ∧
    gives shFloat1 [xs] [vd, va] (.lfaddx md vd va xs) (fun l i => FNum.add y.rnd (val (A l) i) (val U i)) ∧
    gives shFloat1 [xs] [vd, va] (.lfmulx md vd va xs) (fun l i => FNum.mul (val (A l) i) (val U i)) ∧
    gives shFloat3 [] [vd, va, vb, vc] (.lfma md vd va vb vc) (fun l i =>
      FNum.add y.rnd (FNum.mul (val (A l) i) (val (B l) i)) (val (C l) i)) ∧
    gives shFloat3 [] [vd, va, vb, vc] (.lfms md vd va vb vc) (fun l i =>
      FNum.add y.rnd (FNum.mul (val (A l) i) (val (B l) i)) (val (C l) i).neg) ∧
    gives shFloat3 [] [vd, va, vb, vc] (.lfnms md vd va vb vc) (fun l i =>
      FNum.add y.rnd (FNum.mul (val (A l) i) (val (B l) i)).neg (val (C l) i)) ∧
    gives shFloat3 [] [vd, va, vb, vc] (.lfnma md vd va vb vc) (fun l i =>
      FNum.add y.rnd (FNum.mul (val (A l) i) (val (B l) i)).neg (val (C l) i).neg)

/-- 07 Table 7.10, 02 R33, R35: the special cases of sums and products, the exactness of a finite sum and product, and the canonical
NaN. -/
def floatSpecials : Prop :=
  ∀ (rm : Rnd) (a : FNum) (p q : Bool) (m n : Nat) (e f : Int),
    FNum.add rm .nan a = .nan ∧ FNum.add rm a .nan = .nan ∧ FNum.mul .nan a = .nan ∧ FNum.mul a .nan = .nan ∧
    FNum.add rm (.inf p) (.inf q) = (if p = q then .inf p else .nan) ∧
    FNum.add rm (.inf p) (.fin q n f) = .inf p ∧ FNum.add rm (.fin p m e) (.inf q) = .inf q ∧
    FNum.mul (.inf p) (.fin q 0 f) = .nan ∧ (n ≠ 0 → FNum.mul (.inf p) (.fin q n f) = .inf (p != q)) ∧
    FNum.mul (.fin p m e) (.fin q n f) = .fin (p != q) (m * n) (e + f) ∧
    (let g := min e f
      let v := signed p m * 2 ^ (e - g).toNat + signed q n * 2 ^ (f - g).toNat
      ∃ r k h, FNum.add rm (.fin p m e) (.fin q n f) = .fin r k h ∧ ((v = 0 ∧ k = 0) ∨ (h = g ∧ signed r k = v))) ∧
    FNum.add rm (.fin false 0 e) (.fin true 0 f) = .fin (rm = .rdn) 0 0 ∧
    FNum.minimum .nan a = a ∧ FNum.maximum a .nan = a ∧
    (∀ t ∈ [fp32, fp16, bf16, e4m3, e5m2], finishFp none t rm .nan = t.canon)

/-- m1 · 2^e1 < m2 · 2^e2, exactly. -/
def below (m1 : Nat) (e1 : Int) (m2 : Nat) (e2 : Int) : Prop :=
  m1 * 2 ^ (e1 - min e1 e2).toNat < m2 * 2 ^ (e2 - min e1 e2).toNat

/-- 02 R31, R34, R35, R36, Tables 2.2, 2.3, 2.4: the one rounding of a nonzero exact value m · 2^e to a format with `fb` fraction bits, whose
least subnormal is 2^q. The grid of the format is carried on without end: the c-th magnitude is c · 2^q below 2^fb, and a significand of
fb + 1 bits above. The value lies at a magnitude or between two; each mode picks one of them; a pick above the greatest finite one is an
overflow. A rounded zero keeps the sign. An infinity, a NaN and an exact zero are not rounded. -/
def floatRounding : Prop :=
  ∀ t ∈ [(fp32, 32, 23, -149, 0x7F7FFFFF, 0x7F800000, 0x7FC00000), (fp16, 16, 10, -24, 0x7BFF, 0x7C00, 0x7E00),
      (bf16, 16, 7, -133, 0x7F7F, 0x7F80, 0x7FC0), (e4m3, 8, 3, -9, 0x7E, 0x7F, 0x7F), (e5m2, 8, 2, -16, 0x7B, 0x7C, 0x7E)],
    let (f, w, fb, q, top, infinity, canon) := t
    ∀ (rm : Rnd) (sat neg : Bool) (m : Nat) (e : Int),
    let minus : Nat := if neg then 2 ^ (w - 1) else 0
    let inf : Nat := if f = e4m3 then canon else minus + infinity
    let sig (c : Nat) : Nat := if c < 2 ^ fb then c else c % 2 ^ fb + 2 ^ fb
    let exp (c : Nat) : Int := if c < 2 ^ fb then q else q + ((c / 2 ^ fb : Nat) : Int) - 1
    let greater : Nat := if sat then minus + top else match rm with
      | .rne | .rmm => inf
      | .rtz => minus + top
      | .rdn => if neg then inf else minus + top
      | .rup => if neg then minus + top else inf
    let round (v : FNum) : Nat := f.round rm sat v
    f.width = w ∧ round .nan = canon ∧ round (.inf neg) = (if sat then minus + top else inf) ∧ round (.fin neg 0 e) = minus ∧
    (m ≠ 0 → ∃ c n, ¬ below m e (sig c) (exp c) ∧ below m e (sig (c + 1)) (exp (c + 1)) ∧
      round (.fin neg m e) = (if top < n then greater else minus + n) ∧
      let exact : Prop := ¬ below (sig c) (exp c) m e
      -- the value doubled lies below, at or above the sum of its neighbours, which is 2 · sig c + 1 units of the lower one
      let under : Prop := below (2 * m) e (2 * sig c + 1) (exp c)
      let past : Prop := below (2 * sig c + 1) (exp c) (2 * m) e
      (exact → n = c) ∧
      (¬ exact → match rm with
        | .rtz => n = c
        | .rdn => n = if neg then c + 1 else c
        | .rup => n = if neg then c else c + 1
        | .rmm => (under → n = c) ∧ (¬ under → n = c + 1)
        | .rne => (under → n = c) ∧ (past → n = c + 1) ∧ (¬ under → ¬ past → n = c + c % 2)))

/-- 07 R148, 02 R33: finish_fp on the bits of the format, from the fields of the modifier word: SCALE [26:24] is signed and is applied before
the one rounding, then SIGN [30:29], SAT [27] and CLAMP [28] act on the rounded result. -/
def finishedFloats : Prop :=
  ∀ t ∈ [(fp32, 32, 0x7F7FFFFF, 0x7F800000, 0x3F800000), (fp16, 16, 0x7BFF, 0x7C00, 0x3C00), (bf16, 16, 0x7F7F, 0x7F80, 0x3F80),
      (e4m3, 8, 0x7E, 0x7E, 0x38), (e5m2, 8, 0x7B, 0x7C, 0x3C)],
    let (f, w, top, last, one) := t
    ∀ (rm : Rnd) (r : FNum) (m : Word32),
    let sgn : Nat := 2 ^ (w - 1)
    let scale : Int := (m.getLsbD 24).toNat + 2 * (m.getLsbD 25).toNat - 4 * ((m.getLsbD 26).toNat : Int)
    let scaled : FNum := match r with | .fin a b e => .fin a b (e + scale) | other => other
    let y := f.round rm (m.getLsbD 27) scaled
    let nan (b : Nat) : Bool := decide (last < b % sgn)
    let z := if nan y then y else match m.getLsbD 30, m.getLsbD 29 with
      | false, false => y
      | false, true => (y + sgn) % (2 * sgn)
      | true, false => y % sgn
      | true, true => y % sgn + sgn
    let u := if m.getLsbD 27 then (if nan z then 0 else if top < z % sgn then z / sgn * sgn + top else z) else z
    finishFp none f rm r = f.round rm false r ∧ finishFp (some 0) f rm r = f.round rm false r ∧
    finishFp (some m) f rm r = (if m.getLsbD 28 then (if nan u ∨ sgn ≤ u ∨ u = 0 then 0 else if one < u then one else u) else u)

/-- 07 R158, 02 R40, R42: a conversion between element formats. To a float format it is one rounding of the exact value, which finish_fp
makes; to an integer format it rounds the scaled value to an integer in the mode in force, applies SIGN, and saturates whether or not SAT is
set; a NaN gives 0, and CLAMP raises a negative result to 0. The conversions to a wider format that R40 names are exact. -/
def conversions : Prop :=
  ∀ (md : Option Word32) (fa fd : BitVec 5) (rm : Rnd) (v : Nat),
    let w := fmtWidth fd
    let exact (c : BitVec 5) : FNum :=
      if fmtIsInt c then .fin (decide (readInt (fmtWidth c) (fmtSigned c) v < 0)) (readInt (fmtWidth c) (fmtSigned c) v).natAbs 0
      else (floatOf c).value v
    let lo : Int := if fmtSigned fd then -2 ^ (w - 1) else 0
    let hi : Int := if fmtSigned fd then 2 ^ (w - 1) - 1 else 2 ^ w - 1
    let held (k : Int) : Nat := ((max lo (min k hi)) % 2 ^ w).toNat
    (fmtIsInt fd = false → convert md fa fd rm v = finishFp md (floatOf fd) rm (exact fa)) ∧
    (fmtIsInt fd = true →
      (exact fa = .nan → convert md fa fd rm v = 0) ∧
      (∀ neg, exact fa = .inf neg → convert none fa fd rm v = held (if neg then lo else hi)) ∧
      (∀ neg m e, exact fa = .fin neg m e →
        -- the integer next to the value toward zero, and what is left of it
        let q : Nat := if 0 ≤ e then m * 2 ^ e.toNat else m / 2 ^ (-e).toNat
        let r : Nat := if 0 ≤ e then 0 else m % 2 ^ (-e).toNat
        let half : Nat := 2 ^ ((-e).toNat - 1)
        let n : Nat := if r = 0 then q else match rm with
          | .rtz => q
          | .rdn => if neg then q + 1 else q
          | .rup => if neg then q else q + 1
          | .rmm => if half ≤ r then q + 1 else q
          | .rne => if r < half then q else if half < r then q + 1 else q + q % 2
        let k : Int := if neg then -(n : Int) else n
        convert none fa fd rm v = held k ∧
        convert (some 0x08000000) fa fd rm v = held k ∧
        convert (some 0x20000000) fa fd rm v = held (-k) ∧
        convert (some 0x10000000) fa fd rm v = held (max 0 k))) ∧
    (∀ p ∈ [(1, 0), (2, 0), (3, 0), (4, 0), (3, 1), (4, 1), (3, 2), (4, 2), (8, 0), (12, 0), (9, 0), (13, 0)],
      p.1 = fa → p.2 = fd → v < 2 ^ fmtWidth fa → exact fa ≠ .nan →
      ∀ neg m e, exact fa = .fin neg m e → ∃ n k, (floatOf fd).value (convert none fa fd rm v) = .fin neg n k ∧
        m * 2 ^ (e - min e k).toNat = n * 2 ^ (k - min e k).toNat)

/-- 07 R157: the approximating functions hold the slot for 32 cycles and finish to nearest even; their special cases by Table 7.11. -/
def laneApproxResults : Prop :=
  ∀ (s : State) (x : Ctx) (md : Option Word32) (vd va : BitVec 6), IssuesLane s x shApprox md [] [vd, va] →
    let A := (s.grp x).route x.sp va (mdA md)
    let gives (e : Instr) (special : Word32 → Option FNum) : Prop :=
      ∃ v : Nat → Word32, WritesLanes s x md (32 + modClass md) vd v (exec e s) ∧
        ∀ l, l < 32 → bit (s.spl x).m0 l = true →
          (∃ r, v l = BitVec.ofNat 32 (finishFp md fp32 .rne r)) ∧
          ∀ r, special (A l) = some r → v l = BitVec.ofNat 32 (finishFp md fp32 .rne r)
    let nan (a : Word32) : Bool := (fp32.value a.toNat).isNan
    gives (.lfrcp md vd va) (fun a => if nan a then some .nan else if a = 0 then some (.inf false)
      else if a = 0x80000000 then some (.inf true) else if a = 0x7F800000 then some (.fin false 0 0)
      else if a = 0xFF800000 then some (.fin true 0 0) else if a = 0x40000000 then some (.fin false 1 (-1)) else none) ∧
    gives (.lfrsq md vd va) (fun a => if nan a then some .nan else if a = 0 then some (.inf false)
      else if a = 0x80000000 then some (.inf true) else if a.getLsbD 31 then some .nan
      else if a = 0x7F800000 then some (.fin false 0 0) else if a = 0x40800000 then some (.fin false 1 (-1)) else none) ∧
    gives (.lfexp2 md vd va) (fun a => if nan a then some .nan else if a = 0 ∨ a = 0x80000000 then some (.fin false 1 0)
      else if a = 0x3F800000 then some (.fin false 1 1) else if a = 0x7F800000 ∨ a = 0x43000000 then some (.inf false)
      else if a = 0xFF800000 ∨ a = 0xC3160000 then some (.fin false 0 0) else none) ∧
    gives (.lflog2 md vd va) (fun a => if nan a then some .nan else if a = 0 ∨ a = 0x80000000 then some (.inf true)
      else if a.getLsbD 31 then some .nan else if a = 0x7F800000 then some (.inf false)
      else if a = 0x3F800000 then some (.fin false 0 0) else none) ∧
    gives (.lfsin md vd va) (fun a => if nan a ∨ a = 0x7F800000 ∨ a = 0xFF800000 then some .nan
      else if a = 0 then some (.fin false 0 0) else if a = 0x80000000 then some (.fin true 0 0)
      else if a = 0x3F800000 ∨ a = 0x3F000000 then some (.fin false 0 0)
      else if a = 0x3E800000 then some (.fin false 1 0) else if a = 0x3F400000 then some (.fin true 1 0) else none) ∧
    gives (.lfcos md vd va) (fun a => if nan a ∨ a = 0x7F800000 ∨ a = 0xFF800000 then some .nan
      else if a = 0 ∨ a = 0x3F800000 then some (.fin false 1 0) else if a = 0x3F000000 then some (.fin true 1 0)
      else if a = 0x3E800000 ∨ a = 0x3F400000 then some (.fin false 0 0) else none)

/-- 07 R158, R159: the conversion where its element selector is allowed, and the float compares, in which a NaN is unordered and the
zeros are equal. -/
def laneConvertAndFloatCompare : Prop :=
  ∀ (s : State) (x : Ctx) (md : Option Word32) (k : BitVec 3) (vd va vb : BitVec 6) (esel : BitVec 3),
    let g := s.grp x
    let y := s.withFormat x
    let A := g.route x.sp va (mdA md)
    let B := g.route x.sp vb (mdB md)
    let wa := fmtWidth (y.fa fcFP32)
    let wd := fmtWidth (y.fd fcFP32)
    let m := 32 / max wa wd
    let a (l : Nat) : FNum := fp32.value (A l).toNat
    let b (l : Nat) : FNum := fp32.value (B l).toNat
    let gives (e : Instr) (p : Nat → Bool) : Prop :=
      IssuesLane s x shFcmp md [] [va, vb] → WritesMask s x md (laneCycles g md) k p (exec e s)
    (IssuesLane s x shCvt md [] [vd, va] → esel.toNat % m = 0 →
      (wa = wd → esel = 0) → (wa < wd → esel.toNat + m ≤ 32 / wa) → (wd < wa → esel.toNat + m ≤ 32 / wd) →
      ∃ v, WritesLanes s x md (laneCycles g md) vd v (exec (.lfcvt md vd va esel) s) ∧
        ∀ l, l < 32 → bit (s.spl x).m0 l = true →
          (∀ j, j < m → elem wd (v l) (if wa ≤ wd then j else esel.toNat + j) =
            convert md (y.fa fcFP32) (y.fd fcFP32) y.rnd
              (elem wa (A l) (if wa ≤ wd then esel.toNat + j else j)) % 2 ^ wd) ∧
          (wd < wa → ∀ j, j < 32 / wd → ¬ (esel.toNat ≤ j ∧ j < esel.toNat + m) →
            elem wd (v l) j = elem wd (g.v32 vd l) j)) ∧
    gives (.lfcmpEq md k va vb) (fun l => !(a l).isNan && !(b l).isNan && !(a l).lt (b l) && !(b l).lt (a l)) ∧
    gives (.lfcmpLt md k va vb) (fun l => (a l).lt (b l)) ∧
    gives (.lfcmpLe md k va vb) (fun l => !(a l).isNan && !(b l).isNan && !(b l).lt (a l)) ∧
    gives (.lfcmpUn md k va vb) (fun l => (a l).isNan || (b l).isNan)

/-! ## Cross-lane instructions (08) -/

/-- 08 R165, R168, R169: the matches, the ballot and the loop bounds. -/
def crossLaneMasks : Prop :=
  ∀ (s : State) (x : Ctx) (md : Option Word32) (k : BitVec 3) (vd va vb : BitVec 6),
    let g := s.grp x
    let m0 := (s.spl x).m0
    let A := g.route x.sp va (mdA md)
    let B := g.route x.sp vb (mdB md)
    let eqF (a b : Word32) : Bool := FNum.eq (fp32.value a.toNat) (fp32.value b.toNat)
    let lanes (e : Instr) (p : Nat → Nat → Bool) : Prop :=
      IssuesLane s x shMatch md [] [vd, va] →
      ∃ v, WritesLanes s x md (laneCycles g md) vd v (exec e s) ∧
        ∀ l, l < 32 → bit m0 l = true → ∀ j, j < 32 →
          (v l).getLsbD j = (decide (j < g.lanesSeen) && bit m0 (g.base x.sp + j) && p l (g.base x.sp + j))
    (lanes (.lmatch md vd va) (fun l j => A j = A l)) ∧
    (lanes (.lmatchF md vd va) (fun l j => decide (j = l) || eqF (A j) (A l))) ∧
    (lanes (.lballot md vd va) (fun _ j => A j ≠ 0)) ∧
    (IssuesLane s x shWhile md [] [va, vb] →
      WritesMask s x md (laneCycles g md) k
        (fun l => (g.active x.sp).all (fun j => decide (l < j) || decide ((A j).toInt < (B j).toInt)))
        (exec (.lwhileLt md k va vb) s) ∧
      WritesMask s x md (laneCycles g md) k
        (fun l => (g.active x.sp).all (fun j => decide (l < j) || decide ((A j).toNat < (B j).toNat)))
        (exec (.lwhileLtu md k va vb) s))

/-- 08 R166, R167: reductions and scans over the active lanes, in ascending order. -/
def crossLaneSums : Prop :=
  ∀ (s : State) (x : Ctx) (md : Option Word32) (vd va : BitVec 6),
    let g := s.grp x
    let y := s.withFormat x
    let sg := fmtSigned (y.fa fcINT32)
    let A := g.route x.sp va (mdA md)
    let act := g.active x.sp
    let n (l : Nat) : Int := readInt 32 sg (A l).toNat
    let gives (sh : Shape) (e : Instr) (good : (Nat → Word32) → Prop) : Prop :=
      IssuesLane s x sh md [] [vd, va] → ∃ v, WritesLanes s x md (laneCycles g md) vd v (exec e s) ∧ good v
    gives shSum (.lreduceAdd md vd va) (fun v => ∀ l ∈ act,
      v l = BitVec.ofNat 32 (finishInt md 32 sg ((act.map n).foldl (· + ·) 0))) ∧
    gives shSum (.lscanAdd md vd va) (fun v => ∀ l ∈ act,
      v l = BitVec.ofNat 32 (finishInt md 32 sg (((act.filter (fun j => decide (j ≤ l))).map n).foldl (· + ·) 0))) ∧
    gives shExt (.lreduceMin md vd va) (fun v => ∀ l ∈ act,
      (∃ j ∈ act, v l = A j) ∧ ∀ j ∈ act, readInt 32 sg (v l).toNat ≤ n j) ∧
    gives shExt (.lreduceMax md vd va) (fun v => ∀ l ∈ act,
      (∃ j ∈ act, v l = A j) ∧ ∀ j ∈ act, n j ≤ readInt 32 sg (v l).toNat) ∧
    gives shFsum (.lscanFadd md vd va) (fun v =>
      (∀ a rest, act = a :: rest → v a = canonFp32 (A a)) ∧
      ∀ pre a b rest, act = pre ++ a :: b :: rest → v b = addFp32 y.rnd (if pre = [] then A a else v a) (A b)) ∧
    gives shFsum (.lreduceFadd md vd va) (fun v => ∀ l ∈ act, v l = (scanFp32 y.rnd (act.map A)).getLastD 0)

/-- 08 R171: the shuffles move a lane's value up, down, across or by index, modulo the lanes the split sees; an exited lane supplies
0. -/
def shuffles : Prop :=
  ∀ (s : State) (x : Ctx) (md : Option Word32) (vd va vi kk : BitVec 6), md.getD 0 = 0 →
    let g := s.grp x
    let n := g.lanesSeen
    let b := g.base x.sp
    let k := kk.toNat % n
    let moved (src : Nat → Nat) (l : Nat) : Word32 :=
      if bit g.exited (b + src (l - b)) then 0 else g.v32 va (b + src (l - b))
    let gives (vs : List (BitVec 6)) (cls : Nat) (e : Instr) (src : Nat → Nat) : Prop :=
      IssuesLane s x shBare md [] vs →
      WritesLanes s x md (laneCycles g none + cls) vd (moved src) (exec e s)
    gives [vd, va] 1 (.lshflUp md vd va kk) (fun r => (r + n - k) % n) ∧
    gives [vd, va] 1 (.lshflDn md vd va kk) (fun r => (r + k) % n) ∧
    gives [vd, va] 1 (.lshflXor md vd va kk) (fun r => r ^^^ k) ∧
    (IssuesLane s x shBare md [] [vd, va, vi] →
      WritesLanes s x md (laneCycles g none + 2) vd
        (fun l => let j := b + (g.v32 vi l).toNat % n; if bit g.exited j then 0 else g.v32 va j)
        (exec (.lshflIdx md vd va vi) s))

/-! ## Memory (06 R119, R120, Table 6.11, 10, 13) -/

/-- 10 R185: the home of a byte depends on its page alone: bit j is the parity of the bits 12 + j, 15 + j, …, 45 + j of the address. -/
def pageHomes : Prop :=
  ∀ (va : Word64) (j : Nat), j < 3 →
    (homeOf va).testBit j =
      ((List.range 12).filter (fun i => va.getLsbD (12 + 3 * i + j))).length.testBit 0 ∧
    homeOf va < 8 ∧ ∀ vb : Word64, va.extractLsb' 12 36 = vb.extractLsb' 12 36 → homeOf va = homeOf vb

/-- 10 R186: the Sv48 walk. It answers the entry p of level lv exactly where the entries above it, from the root at level 3 down, are pointers
(valid, none of R, W, X, U, A, D and no bit above the frame set), each to the table of the next level, and p is a leaf: valid, with R or X, and
not with W alone. -/
def pageWalks : Prop :=
  ∀ (mem : Memory) (va : Word64) (root lv : Nat) (p : Word64),
    let entry (j t : Nat) : Word64 := mem.word64 (t + 8 * (va.extractLsb' (12 + 9 * j) 9).toNat)
    let frame (e : Word64) : Nat := 4096 * (e.extractLsb' 10 44).toNat
    let pointer (e : Word64) : Prop :=
      e.extractLsb' 0 4 = 1 ∧ e.extractLsb' 54 10 = 0 ∧ e.getLsbD 4 = false ∧ e.getLsbD 6 = false ∧ e.getLsbD 7 = false
    walkFrom mem va 3 root = some (p, lv) ↔
      lv ≤ 3 ∧ ∃ t : Nat → Nat, t 3 = root ∧
        (∀ j, lv < j → j ≤ 3 → pointer (entry j (t j)) ∧ t (j - 1) = frame (entry j (t j))) ∧
        p = entry lv (t lv) ∧ p.getLsbD 0 = true ∧ (p.getLsbD 1 = true ∨ p.getLsbD 3 = true) ∧
        (p.getLsbD 2 = true → p.getLsbD 1 = true)

/-- 10 R184, R186, R187, R188, Table 10.2, 22 R404, R408: translation at the home. The home takes a pinned leaf, else the one of its TLB, else the
walk's; a non-canonical address and one of the control-space window have none. The leaf is usable when bit 63 is 0, ATTR is not 3 and A is 1,
and its LOC names the HBM of the page's home (a 4 KiB frame, PEER 0), a peer, or the host (PEER 0). It allows a read with R, or with X under
MXR, a write with W and D, a fetch with X; in U-mode with U, in S-mode without U, or with SUM but for a fetch (that U does not bind M-mode is
the model's choice, log 9). An HBM frame is at its device physical address; a peer frame at the device that the peer table names, while that
entry is valid and not frozen; a host page is where the host's own walk puts it. Everything else fails. -/
def translations : Prop :=
  ∀ (s : State) (asid : BitVec 16) (va : Word64) (k : Kind) (md : Mode) (sum mxr : Bool),
    let key := asid.toNat * 2 ^ 36 + (va.extractLsb' 12 36).toNat
    let canon : Prop := ∀ i, 47 ≤ i → i < 64 → va.getLsbD i = va.getLsbD 47
    let walked := (Map.find s.roots asid.toNat).bind (fun r => walkFrom s.hbm va 3 r.toNat)
    let answer := s.translate asid va k md sum mxr
    let missed : Prop := ∀ pl at_, answer ≠ .ok pl at_
    (¬ canon → s.leaf asid va = none) ∧
    (canon → s.leaf asid va = ((Map.find s.pins key).or (Map.find s.tlb key)).or walked) ∧
    (inWindow va = true ∨ s.leaf asid va = none → missed) ∧
    (inWindow va = false → ∀ p lv, s.leaf asid va = some (p, lv) → lv ≤ 3 →
      let ppn := (p.extractLsb' 10 44).toNat
      let loc := p.extractLsb' 58 3
      let peer := p.extractLsb' 54 4
      let entry : BitVec 256 := Map.getD 0 s.peers peer.toNat
      let off := va.toNat % 2 ^ (12 + 9 * lv)
      let sound : Prop := p.getLsbD 63 = false ∧ p.extractLsb' 61 2 ≠ 3 ∧ p.getLsbD 6 = true
      let allowed : Prop := (match k with
          | .read => p.getLsbD 1 = true ∨ (mxr = true ∧ p.getLsbD 3 = true)
          | .write => p.getLsbD 2 = true ∧ p.getLsbD 7 = true
          | .fetch => p.getLsbD 3 = true) ∧
        (match md with
          | .u => p.getLsbD 4 = true
          | .s => p.getLsbD 4 = false ∨ (sum = true ∧ k ≠ .fetch)
          | .m => True)
      let found (pl : Place) : Prop := answer = .ok pl (p.extractLsb' 61 2)
      let frames : Prop := loc = 0 ∧ lv = 0 ∧ peer = 0 ∧ ppn * 4096 / 2 ^ 38 = homeOf va ∧ ppn * 4096 % 2 ^ 38 < 192000000000
      let peers : Prop := loc = 1 ∧ ppn % 2 ^ (9 * lv) = 0
      let hosts : Prop := loc = 2 ∧ peer = 0
      (sound → allowed → frames → found (.hbm (ppn * 4096 + off))) ∧
      (sound → allowed → peers → entry.getLsbD 128 = true → entry.getLsbD 129 = false →
        found (.peer (entry.extractLsb' 0 128) (ppn * 4096 + off))) ∧
      (peers → entry.getLsbD 128 = false ∨ entry.getLsbD 129 = true → missed) ∧
      (sound → allowed → hosts → ∀ a, hostWalk s asid va (decide (k = .write)) = some a → found (.host a)) ∧
      (hosts → hostWalk s asid va (decide (k = .write)) = none → missed) ∧
      (¬ sound ∨ ¬ allowed ∨ (¬ frames ∧ ¬ peers ∧ ¬ hosts) → missed))

/-- 10 R188: the host's walk, from the root bound to the address space, wants a leaf with U and R, and with W for a write; the page of its
level holds the byte. -/
def hostWalks : Prop :=
  ∀ (s : State) (asid : BitVec 16) (va : Word64) (write : Bool),
    (Map.find s.hroots asid.toNat = none → hostWalk s asid va write = none) ∧
    ∀ root, Map.find s.hroots asid.toNat = some root →
      (walkFrom s.hostMem va 3 root.toNat = none → hostWalk s asid va write = none) ∧
      ∀ p lv, walkFrom s.hostMem va 3 root.toNat = some (p, lv) →
        let n := 2 ^ (12 + 9 * lv)
        let open_ : Prop := p.getLsbD 4 = true ∧ p.getLsbD 1 = true ∧ (write = true → p.getLsbD 2 = true)
        (open_ → hostWalk s asid va write = some (4096 * (p.extractLsb' 10 44).toNat / n * n + va.toNat % n)) ∧
        (¬ open_ → hostWalk s asid va write = none)

/-- 03 R60, Table 3.3, 10 R184, 22 R404: a checked access is performed exactly where an installed range of its address space, for a write one
with W = 1, covers the address, and the home translates it as U-mode's; a non-canonical address and the control-space window lie in no range
(a range is a run of 48-bit addresses, log 33). -/
def leaseChecks : Prop :=
  ∀ (s : State) (asid : BitVec 16) (va : Word64) (write mxr : Bool),
    let a := va.toNat % 2 ^ 48
    let covered : Prop := inWindow va = false ∧ (∀ i, 47 ≤ i → i < 64 → va.getLsbD i = va.getLsbD 47) ∧
      ∃ r ∈ s.ranges, r.asid = asid ∧ r.base.toNat ≤ a ∧ a < r.base.toNat + r.size ∧ (write = true → r.w = true)
    (s.leased asid va write = true ↔ covered) ∧
    ∀ pl at_, s.checkU asid va write mxr = some (pl, at_) ↔
      covered ∧ s.translate asid va (if write then .write else .read) .u false mxr = .ok pl at_

/-- 10 R193, R195, 06 Table 6.11: a write at an ordering point is read back there, changes no other byte of any memory, drops the
reservations of its line and sets the dirty bit of a tracked frame; no hart data cache keeps that line newer than the L2; a discarded page
reads zero, and no hart data cache holds a line of it; both keep the memories' form. -/
def writesAtHome : Prop :=
  ∀ (s : State) (pl : Place) (d : List Byte),
    let t := s.writePlace pl d
    let u := s.discardPlace pl
    (∀ i, i < d.length → t.byteAt pl i = d.getD i 0) ∧
    (∀ b, (∀ a, pl = .hbm a → b < a ∨ a + d.length ≤ b) → t.hbm.get b = s.hbm.get b) ∧
    (∀ b, (∀ p a, pl = .peer p a → b < peerByte p a ∨ peerByte p a + d.length ≤ b) →
      t.peerMem.get b = s.peerMem.get b) ∧
    (∀ b, (∀ a, pl = .host a → b < a ∨ a + d.length ≤ b) → t.hostMem.get b = s.hostMem.get b) ∧
    t.scratch = s.scratch ∧ t.weight = s.weight ∧
    (∀ r, r ∈ t.resvs ↔ r ∈ s.resvs ∧ r.1 ≠ pl.key / 64) ∧
    (∀ a, pl = .hbm a → Map.getD false s.tracked (a / 4096) = true →
      Map.getD false t.dirty (a / 4096) = true ∧ Map.getD false u.dirty (a / 4096) = true) ∧
    (∀ a b, pl = .hbm a → u.hbm.get b = if b / 4096 = a / 4096 then 0 else s.hbm.get b) ∧
    (∀ a, pl = .hbm a → (∀ e ∈ t.dcache, e.2.1 = a / 64 * 64 → e.2.2.2 = false) ∧ ∀ e ∈ u.dcache, e.2.1 / 4096 ≠ a / 4096) ∧
    (s.memWf → t.memWf ∧ u.memWf)

/-- 03 R60, 06 Table 6.9, 10 R187, R191, R192: where a hart access goes. In U-mode it must lie in a lease, in S-mode and M-mode it must be
translated; a load or store may find its line in the hart data cache of its core, under a leaf that allows it, and then needs no walk (which
lines the cache holds is open, log 34). A load's miss puts the line into the cache where the page's ATTR lets it. -/
def hartPlaces : Prop :=
  ∀ (s : State) (x : Ctx) (va : Word64) (k : Kind) (plain : Bool),
    let g := s.grp x
    let walk := s.translate g.asid va k (s.dataMode x) (sumBit g) (mxrBit g)
    (plain = false ∨ s.cached x va k = none →
      ((s.spl x).mode = .u → s.hartPlace x va k plain = (s.checkU g.asid va (decide (k = .write)) (mxrBit g)).map Prod.fst) ∧
      ((s.spl x).mode ≠ .u →
        (∀ pl at_, walk = .ok pl at_ → s.hartPlace x va k plain = some pl) ∧
        ((∀ pl at_, walk ≠ .ok pl at_) → s.hartPlace x va k plain = none))) ∧
    (∀ a, s.cached x va k = some a →
      (∃ l, Map.find s.dcache (dcacheKey x.c g.asid va) = some l ∧ a = l.1 + va.toNat % 64 ∧
        leafAllows l.2.1 k (s.dataMode x) (sumBit g) (mxrBit g) = true) ∧
      ((s.spl x).mode ≠ .u ∨ s.leased g.asid va (decide (k = .write)) = true → s.hartPlace x va k true = some (.hbm a)) ∧
      ((s.spl x).mode = .u → s.leased g.asid va (decide (k = .write)) = false → s.hartPlace x va k true = none)) ∧
    ∀ pl, let t := s.hartFill x va pl
      t = { s with tlb := t.tlb, dcache := t.dcache } ∧ (s.cached x va .read ≠ none → t = s) ∧
      (s.cached x va .read = none → ∀ a e, pl = .hbm a → s.leaf g.asid va = some e →
        Map.find t.dcache (dcacheKey x.c g.asid va) = if e.1.extractLsb' 61 2 = 0 then some (a - va.toNat % 64, e.1, false) else none)

/-- 06 Table 6.9, R120, 13 R256, 22 R404: the hart loads. Each reads at its ordering point, and waits for a store of its split to the
same bytes; with no older operation of its group outstanding it reads the bytes there. A load that finds its line in the hart data cache is
performed when it issues; of the others the schedule says which are, and which are performed later and leave their register scoreboarded (the
model's choice, log 5). 18 R349: a load that meets an error that cannot be corrected delivers 0, and the error is counted (log 16). -/
def hartLoads : Prop :=
  ∀ (s : State) (x : Ctx) (rd rs1 : BitVec 5) (imm : BitVec 12), IssuesMem s x [rd, rs1] →
    let va := s.x x rs1 + imm.signExtend 64
    let load (i : Instr) (n : Nat) (sx : Bool) : Prop :=
      (∀ pl, s.Reaches x va n .read true pl →
        let t : State := { s.hartFill x va pl with late := s.late.drop 1 }
        let hit : Prop := s.cached x va .read ≠ none
        let after : Prop := s.readBlocked x.c (s.older x) (splitBit x.sp) (some pl.key) n = true
        (after → exec i s = .next (s.waits x)) ∧
        (¬ after → hit ∨ s.Undisturbed → exec i s = .next (s.doneX' x rd (extendTo n sx (s.hartRead pl n)) t)) ∧
        (¬ after → ¬ hit → s.flaw = none → s.late.headD false = true →
          exec i s = .next (s.done (({ s with late := s.late.drop 1 } : State).lateLoad x va n sx rd pl) x 1)) ∧
        (¬ after → ¬ hit → ∀ f, s.flawAt x pl false = some f → exec i s = .next (s.doneX' x rd 0 (s.meetFlaw x va pl false f))) ∧
        (s.older x = [] → hit ∨ s.Undisturbed →
          ∃ v : BitVec (8 * n), (∀ k, k < n → v.extractLsb' (8 * k) 8 = s.byteAt pl k) ∧
          exec i s = .next (s.doneX' x rd (if sx then v.signExtend 64 else v.setWidth 64) t))) ∧
      (s.Misaligned x va n → exec i s = .next (s.traps x 4 va)) ∧
      (s.Unmapped x va n .read true → exec i s = .next (s.traps x 13 va)) ∧
      (s.Unleased x va n .read true → EndsUnit s x (exec i s)) ∧
      (s.dataMode x ≠ .u → inWindow va = true → n < 8 → exec i s = .next (s.traps x 5 va))
    load (.lb rd rs1 imm) 1 true ∧ load (.lh rd rs1 imm) 2 true ∧ load (.lw rd rs1 imm) 4 true ∧
    load (.ld rd rs1 imm) 8 true ∧ load (.lbu rd rs1 imm) 1 false ∧ load (.lhu rd rs1 imm) 2 false ∧
    load (.lwu rd rs1 imm) 4 false ∧
    (s.dataMode x ≠ .u → inWindow va = true → exec (.ld rd rs1 imm) s =
      .next (if va.extractLsb' 0 3 = 0#3 then
          s.doneX x rd (s.ctlRead (va.extractLsb' 24 4).toNat (va.extractLsb' 0 24).toNat)
        else s.traps x 5 va))

/-- 06 Table 6.9, R125, 13 R260, 22 R404: the hart stores. A store completes at once and is outstanding with the low bytes of its
operand, little end first; no byte of memory changes before it is performed. A U-mode store is checked when it is performed, so one that lies
in no lease, or in the control-space window, issues as every other. -/
def hartStores : Prop :=
  ∀ (s : State) (x : Ctx) (rs1 rs2 : BitVec 5) (imm : BitVec 12), IssuesMem s x [rs1, rs2] →
    let va := s.x x rs1 + imm.signExtend 64
    let v := s.x x rs2
    let store (i : Instr) (n : Nat) : Prop :=
      let d := (List.range n).map (fun k => v.extractLsb' (8 * k) 8)
      let queued (pl : Option Place) : Prop :=
        let t := s.done (s.enter x (s.storeOp x va d pl)) x 1
        (s.roomFor x false true = true → exec i s = .next t ∧ SameMemory s t) ∧
        (s.roomFor x false true = false → exec i s = .next (s.waits x))
      ((s.spl x).mode = .u → va.toNat % n = 0 ∨ inWindow va = true → queued none) ∧
      ((s.spl x).mode ≠ .u → ∀ pl, s.Reaches x va n .write true pl → queued (some pl)) ∧
      (s.Misaligned x va n → exec i s = .next (s.traps x 6 va)) ∧
      (s.Unmapped x va n .write true → exec i s = .next (s.traps x 15 va)) ∧
      (s.dataMode x ≠ .u → inWindow va = true → n < 8 → exec i s = .next (s.traps x 7 va))
    store (.sb rs1 rs2 imm) 1 ∧ store (.sh rs1 rs2 imm) 2 ∧ store (.sw rs1 rs2 imm) 4 ∧ store (.sd rs1 rs2 imm) 8 ∧
    (s.dataMode x ≠ .u → inWindow va = true → exec (.sd rs1 rs2 imm) s =
      .next (if va.extractLsb' 0 3 = 0#3 then
          (s.done s x 1).ctlWrite (va.extractLsb' 24 4).toNat (va.extractLsb' 0 24).toNat
            (if (s.spl x).mode = .m then .mmode else .smode) v
        else s.traps x 7 va))

/-- 06 Table 6.11: the AMOs: rd receives the old value, a word sign-extended, and the home holds the operation's result; a misaligned
address and one without a translation trap as a store does. That an AMO is performed in the step that issues it is the model's choice (log 5).
18 R349: one that meets an error that cannot be corrected delivers 0 and writes nothing (log 16). -/
def hartAtomics : Prop :=
  ∀ (s : State) (x : Ctx) (aq rl : BitVec 1) (rd rs1 rs2 : BitVec 5), IssuesMem s x [rd, rs1, rs2] →
    let va := s.x x rs1
    let b := s.x x rs2
    let amo (i : Instr) (n : Nat) (f : Word64 → Word64 → Word64) : Prop :=
      (∀ pl, s.Reaches x va n .write false pl →
        (s.mustWait x va n pl aq rl = false → s.roomFor x false true = true →
          ∀ f, s.flawAt x pl false = some f →
            exec i s = .next (s.doneX' x rd 0 ((s.meetFlaw x va pl false f).acquireIf x aq))) ∧
        (s.mustWait x va n pl aq rl = false → s.roomFor x false true = true → s.flaw = none →
          let old := extendTo n true (leWord (s.readPlace pl n))
          exec i s = .next (s.doneX' x rd old (State.acquireIf (s.writePlace pl (leBytes (f old b).toNat n)) x aq))) ∧
        (s.mustWait x va n pl aq rl = true ∨ s.roomFor x false true = false → exec i s = .next (s.waits x))) ∧
      (s.Misaligned x va n → exec i s = .next (s.traps x 6 va)) ∧
      (s.Unmapped x va n .write false → exec i s = .next (s.traps x 15 va)) ∧
      (s.Unleased x va n .write false → EndsUnit s x (exec i s)) ∧
      (s.dataMode x ≠ .u → inWindow va = true → exec i s = .next (s.traps x 7 va))
    let word (i : Instr) (f : Word32 → Word32 → Word32) : Prop :=
      amo i 4 (fun a b => (f (a.extractLsb' 0 32) (b.extractLsb' 0 32)).setWidth 64)
    word (.amoswapW aq rl rd rs1 rs2) (fun _ b => b) ∧ amo (.amoswapD aq rl rd rs1 rs2) 8 (fun _ b => b) ∧
    word (.amoaddW aq rl rd rs1 rs2) (fun a b => a + b) ∧ amo (.amoaddD aq rl rd rs1 rs2) 8 (fun a b => a + b) ∧
    word (.amoxorW aq rl rd rs1 rs2) (fun a b => a ^^^ b) ∧ amo (.amoxorD aq rl rd rs1 rs2) 8 (fun a b => a ^^^ b) ∧
    word (.amoandW aq rl rd rs1 rs2) (fun a b => a &&& b) ∧ amo (.amoandD aq rl rd rs1 rs2) 8 (fun a b => a &&& b) ∧
    word (.amoorW aq rl rd rs1 rs2) (fun a b => a ||| b) ∧ amo (.amoorD aq rl rd rs1 rs2) 8 (fun a b => a ||| b) ∧
    word (.amominW aq rl rd rs1 rs2) (fun a b => if a.toInt ≤ b.toInt then a else b) ∧
    amo (.amominD aq rl rd rs1 rs2) 8 (fun a b => if a.toInt ≤ b.toInt then a else b) ∧
    word (.amomaxW aq rl rd rs1 rs2) (fun a b => if b.toInt ≤ a.toInt then a else b) ∧
    amo (.amomaxD aq rl rd rs1 rs2) 8 (fun a b => if b.toInt ≤ a.toInt then a else b) ∧
    word (.amominuW aq rl rd rs1 rs2) (fun a b => if a.toNat ≤ b.toNat then a else b) ∧
    amo (.amominuD aq rl rd rs1 rs2) 8 (fun a b => if a.toNat ≤ b.toNat then a else b) ∧
    word (.amomaxuW aq rl rd rs1 rs2) (fun a b => if b.toNat ≤ a.toNat then a else b) ∧
    amo (.amomaxuD aq rl rd rs1 rs2) 8 (fun a b => if b.toNat ≤ a.toNat then a else b)

/-- 06 Table 6.11: LR places the split's one reservation on the 64-byte line, and SC writes and answers 0 exactly where the split
holds that reservation, which is gone after it; both reach HBM only. That both are performed in the step that issues them is the model's
choice (log 5), and so is that an SC that fails makes the checks of its address as one that succeeds (log 28). -/
def hartReservations : Prop :=
  ∀ (s : State) (x : Ctx) (aq rl : BitVec 1) (rd rs1 rs2 : BitVec 5), IssuesMem s x [rd, rs1, rs2] →
    let va := s.x x rs1
    let mine (r : Nat × Nat × Nat × Nat) : Prop := r.2 = (x.c, x.sl, x.sp)
    let both (load cond : Instr) (n : Nat) : Prop :=
      (∀ a, s.Reaches x va n .read false (.hbm a) → s.mustWait x va n (.hbm a) aq rl = false → s.flaw = none →
        ∃ t : State, exec load s =
            .next (s.doneX' x rd (extendTo n true (leWord (s.hbm.bytes a n))) (t.acquireIf x aq)) ∧
          t = { s with resvs := t.resvs } ∧
          ∀ r, r ∈ t.resvs ↔ (r ∈ s.resvs ∧ ¬ mine r) ∨ r = (a / 64, x.c, x.sl, x.sp)) ∧
      (∀ a, s.Reaches x va n .write false (.hbm a) → s.mustWait x va n (.hbm a) aq rl = false → s.roomFor x false true = true → s.flaw = none →
        let held := (a / 64, x.c, x.sl, x.sp) ∈ s.resvs
        ∃ t : State, exec cond s =
            .next (s.doneX' x rd (if held then 0 else 1) (if aq = 1 ∧ rl = 1 then t.acquire x else t)) ∧
          (∀ r, r ∈ t.resvs ↔ r ∈ s.resvs ∧ ¬ mine r ∧ (held → r.1 ≠ a / 64)) ∧
          t = { if held then s.writePlace (.hbm a) (leBytes (s.x x rs2).toNat n) else s with resvs := t.resvs }) ∧
      (s.Misaligned x va n → exec load s = .next (s.traps x 4 va) ∧ exec cond s = .next (s.traps x 6 va)) ∧
      (s.Unmapped x va n .read false → exec load s = .next (s.traps x 13 va)) ∧
      (s.Unmapped x va n .write false → exec cond s = .next (s.traps x 15 va)) ∧
      (s.Unleased x va n .read false → EndsUnit s x (exec load s)) ∧
      (s.Unleased x va n .write false → EndsUnit s x (exec cond s)) ∧
      (∀ pl, (∀ a, pl ≠ .hbm a) →
        (s.Reaches x va n .read false pl → exec load s = .next (s.traps x 5 va)) ∧
        (s.Reaches x va n .write false pl → exec cond s = .next (s.traps x 7 va)))
    both (.lrW aq rl rd rs1) (.scW aq rl rd rs1 rs2) 4 ∧ both (.lrD aq rl rd rs1) (.scD aq rl rd rs1 rs2) 8

/-- 10 R203-R206: the lane memory instructions leave one operation outstanding, with an access for each active lane, or none where no
lane is active. -/
def laneMemoryIssues : Prop :=
  ∀ (s : State) (x : Ctx) (vd : BitVec 6) (xs : BitVec 5),
    let g := s.grp x
    let bytes (n l : Nat) : List Byte :=
      if n = 8 then leBytes (g.v32 vd l).toNat 4 ++ leBytes (g.v32 (vd + 1) l).toNat 4 else leBytes (g.v32 vd l).toNat n
    let leaves (i : Instr) (m : LaneMem) (addr : Nat → Word64) (len : Word64) (cycles : Nat) : Prop :=
      let as_ := s.laneAddrs x m.space addr
      LanesReach s x m.space m.n m.store as_ →
      (s.roomFor x m.load m.store = true → exec i s =
        .next ((s.enter x (s.laneOpOf x m as_)).finish x ((s.spl x).pc + len) cycles false)) ∧
      (s.roomFor x m.load m.store = false → exec i s = .next (s.waits x))
    (∀ (imm : BitVec 6) (wid : BitVec 1) (space : BitVec 2) (vo : BitVec 5),
      IssuesDev s x [xs] ([vd, vo.setWidth 6] ++ (if wid = 1 then [vd + 1] else [])) → (wid = 1 → vd ≠ 63) →
      space ≠ 3 → (space = 0 ∨ Ungated s x) →
      let n := if wid = 1 then 8 else 4
      let addr (l : Nat) : Word64 :=
        s.x x xs + (g.v32 (vo.setWidth 6) l).signExtend 64 + imm.signExtend 64 * 4
      leaves (.lld imm wid space vd xs vo) { space, n, load := true, store := false, what := fun _ => .read, vd } addr 4
        (laneCycles g none) ∧
      leaves (.lst imm wid space vd xs vo)
        { space, n, load := false, store := true, what := fun l => .write (bytes n l), vd } addr 4 (laneCycles g none)) ∧
    (∀ (md : Option Word32) (ww hh : BitVec 2) (va : BitVec 6),
      IssuesLane s x shMatch md [xs] [vd, va] → ww ≠ 3 → hh ≠ 3 →
      let n := 2 ^ ww.toNat
      let addr (l : Nat) : Word64 := s.x x xs + (g.route x.sp va (mdA md) l).signExtend 64
      leaves (.lldc md ww hh vd xs va) { space := 0, n, load := true, store := false, what := fun _ => .read, vd, hint := hh }
        addr (laneLen md) (laneCycles g md) ∧
      leaves (.lstc md ww hh vd xs va)
        { space := 0, n, load := false, store := true, what := fun l => .write (bytes n l), vd, hint := hh } addr
        (laneLen md) (laneCycles g md)) ∧
    (∀ (md : Option Word32) (loc : BitVec 1) (oo : BitVec 2) (op : BitVec 3) (va : BitVec 6),
      IssuesLane s x shMatch md [xs] ([vd, va] ++ (if op = 7 then [vd + 1] else [])) → (op = 7 → vd ≠ 63) →
      (loc = 0 ∨ Ungated s x) →
      leaves (.latom md loc oo op vd xs va)
        { space := loc.setWidth 2, n := 4, load := true, store := true, vd, acq := oo = 1 || oo = 3, rel := oo = 2 || oo = 3
          what := fun l => .atom op (g.v32 vd l) (g.v32 (vd + 1) l) }
        (fun l => s.x x xs + (g.route x.sp va (mdA md) l).signExtend 64) (laneLen md) (laneCycles g md))

/-- 10 R199, R203, 22 R404: where an LLD or LST of words traps or parks: in the control-space window, for S-mode, with cause 5 or 7; misaligned
at the lowest such lane (4 or 6; a U-mode access to the window is in no lease, whatever its alignment); absent lines of the local window park the
split, and in the handler slot the instruction raises cause 26; an S-mode access without a usable leaf (10 R187) raises the page fault 13 or 15,
and an S-mode store to the weight space cause 32. 03 R60, 18 R354: the lowest lane beyond the local window or the weight region, or storing to the
weight space in U-mode, freezes the group; the accesses beyond are not performed (that the instruction has issued and the other lanes' accesses are
made is the model's reading, log 29). -/
def laneMemoryTraps : Prop :=
  ∀ (s : State) (x : Ctx) (imm : BitVec 6) (space : BitVec 2) (vd : BitVec 6) (xs vo : BitVec 5),
    IssuesDev s x [xs] [vd, vo.setWidth 6] → space ≠ 3 → (space = 0 ∨ Ungated s x) →
    let g := s.grp x
    let priv : Prop := (s.spl x).mode ≠ .u
    let as_ := s.laneAddrs x space
      (fun l => s.x x xs + (g.v32 (vo.setWidth 6) l).signExtend 64 + imm.signExtend 64 * 4)
    let ld : Instr := .lld imm 0 space vd xs vo
    let st : Instr := .lst imm 0 space vd xs vo
    let off (a : LaneAddr) : Bool := a.2.extractLsb' 0 2 ≠ 0#2 && !(decide (space = 0) && inWindow a.2)
    let walks (k : Kind) (a : LaneAddr) : Bool := match s.translate g.asid a.2 k (s.spl x).mode (sumBit g) (mxrBit g) with
      | .ok _ _ => true
      | _ => false
    let clear : Prop := (priv → space = 0 → ∀ a ∈ as_, inWindow a.2 = false) ∧ as_.find? off = none
    (priv → space = 0 → ∀ a, as_.find? (fun a => inWindow a.2) = some a →
      exec ld s = .next (s.traps x 5 a.2) ∧ exec st s = .next (s.traps x 7 a.2)) ∧
    ((priv → space = 0 → ∀ a ∈ as_, inWindow a.2 = false) → ∀ a, as_.find? off = some a →
      exec ld s = .next (s.traps x 4 a.2) ∧ exec st s = .next (s.traps x 6 a.2)) ∧
    (clear → space = 1 →
      let ls := s.absentLines g.unit 4 as_
      ls ≠ [] → ∀ i, i = ld ∨ i = st →
        exec i s = .next (if x.handler then s.traps x 26 ((encodeWord i).setWidth 64)
          else s.parkSplit x (s.spl x).pc (s.spl x).remaining (.lines ls))) ∧
    (clear → priv → space = 0 →
      (∀ a, as_.find? (fun a => !walks .read a) = some a → exec ld s = .next (s.traps x 13 a.2)) ∧
      (∀ a, as_.find? (fun a => !walks .write a) = some a → exec st s = .next (s.traps x 15 a.2))) ∧
    (clear → priv → space = 2 → ∀ a rest, as_ = a :: rest → exec st s = .next (s.traps x 32 a.2)) ∧
    (clear → space ≠ 0 → (space = 1 → s.absentLines g.unit 4 as_ = []) →
      let u := s.unit g.unit
      let byte (a : Nat) : Option Nat := if space = 1 then u.localByte a else s.weightByte u.job (dieOf x.c) a
      let froze (i : Instr) (m : LaneMem) : Prop :=
        let beyond (a : Word64) : Bool :=
          (space = 2 && m.store) || (byte a.toNat).isNone || (byte (a.toNat + 3)).isNone
        let o := s.laneOpOf x m as_
        ¬ (priv ∧ space = 2 ∧ m.store = true) → ∀ a, as_.find? (fun a => beyond a.2) = some a → s.roomFor x m.load m.store = true →
          exec i s = .next (((s.enter x { o with accs := o.accs.map (fun p =>
            if beyond p.addr then { p with done := true, wrote := true } else p) }).finish x ((s.spl x).pc + 4)
              (laneCycles g none) false).freezeGroup x.c x.sl (if space = 2 ∧ m.store = true then some 32 else none) a.2)
      froze ld { space, n := 4, load := true, store := false, what := fun _ => .read, vd } ∧
      froze st { space, n := 4, load := false, store := true, what := fun l => .write (leBytes (g.v32 vd l).toNat 4), vd })

/-- 10 R207, R187, 22 R404: DISCARD of a page-aligned range: rd receives the number of pages, at most 65,536, and a discard of each is
outstanding. A misaligned base raises cause 6, a page of the window in S-mode cause 7, and an S-mode page without a usable leaf cause 15. -/
def discard : Prop :=
  ∀ (s : State) (x : Ctx) (rd rs1 rs2 : BitVec 5), IssuesDev s x [rd, rs1, rs2] [] → ClauseTakes s x 2 →
    let base := s.x x rs1
    let user : Prop := (s.spl x).mode = .u
    let i : Instr := .discard rd rs1 rs2
    let n := min (s.x x rs2).toNat 65536
    let as_ : List LaneAddr := (List.range n).map (fun i => (0, base + BitVec.ofNat 64 (4096 * i)))
    let walks (a : LaneAddr) : Bool :=
      match s.translate (s.grp x).asid a.2 .write (s.spl x).mode (sumBit (s.grp x)) (mxrBit (s.grp x)) with
      | .ok _ _ => true
      | _ => false
    let aligned : Prop := base.extractLsb' 0 12 = 0#12 ∨ (user ∧ inWindow base = true)
    let open_ : Prop := ¬ user → ∀ a ∈ as_, inWindow a.2 = false
    let o : Op := { s.opOf x with
      store := true
      accs := as_.map (fun a => {
        addr := a.2, size := 4096, what := .discard, place := s.fixedPlace (s.grp x) (s.spl x).mode .write a.2 }) }
    (aligned → open_ → (¬ user → ∀ a ∈ as_, walks a = true) → s.roomFor x false true = true →
      exec i s = .next (s.doneX' x rd (BitVec.ofNat 64 n) (s.enter x o))) ∧
    (open_ → ¬ aligned → exec i s = .next (s.traps x 6 base)) ∧
    (¬ user → ∀ a, as_.find? (fun a => inWindow a.2) = some a → exec i s = .next (s.traps x 7 a.2)) ∧
    (¬ user → open_ → aligned → ∀ a, as_.find? (fun a => !walks a) = some a → exec i s = .next (s.traps x 15 a.2))

/-- 03 R60, 05 R105, 06 R125, 10 R190-R201: the steps of the memory system: an access is performed at its home when its order lets it, a store is
counted until it is performed and a load until its lanes are written. The elements of a 64-bit pair return together or one by one. A hart load
that is performed later (log 5) writes its register, extended, when it returns. -/
def memoryEvents : Prop :=
  ∀ (s : State) (c id : Nat) (o : Op), (s.core c).op id = some o →
    (∀ (idx : Nat) (a : Acc) (pl : Place) (at_ : BitVec 2) (fill : Bool), o.accs[idx]? = some a → a.space = 0 → a.done = false →
      let u := s.atHome o a fill
      let ps := (s.core c).before o
      u.target c o a = .place pl at_ →
      (∀ d, a.what = .write d → u.mayWrite c ps o idx = true →
        ∃ t : State, exec (.homeRequest c id idx fill 0) s = .next t ∧
          t.hbm = (s.writePlace pl d).hbm ∧ t.peerMem = (s.writePlace pl d).peerMem ∧
          t.hostMem = (s.writePlace pl d).hostMem ∧ t.resvs = (s.writePlace pl d).resvs ∧
          (o.hart = true → t.l1 = s.l1) ∧
          ((t.core c).op id).map (fun p => (p.accs[idx]?).map Acc.done) = some (some true)) ∧
      (a.what = .read → at_ ≠ 0 → u.readBlocked c ps o.agent (u.accKey o a) a.size = false →
        ∃ t : State, exec (.homeRequest c id idx fill 0) s = .next t ∧ SameMemory s t ∧ t.l1 = s.l1 ∧
          ((t.core c).op id).map (fun p => (p.accs[idx]?).map Acc.val) =
            some (some (some (leWord ((u.forwarded c ps o.agent (u.accKey o a) a.size).getD (s.readPlace pl a.size))))))) ∧
    (∀ (idx : Nat) (a : Acc) (fill : Bool) (err : BitVec 3), o.accs[idx]? = some a → a.space = 0 → a.done = false →
      (s.atHome o a fill).target c o a = .lease → (s.unit o.unit).ended = false →
        ∃ t : State, exec (.homeRequest c id idx fill err) s = .next t ∧ SameMemory s t ∧
          ((t.unit o.unit).ended = true ∨ (t.unit o.unit).doomed = true)) ∧
    (o.store = true → (∀ a ∈ o.accs, a.space = 0 ∧ (a.done = true ∨ a.what = .read)) →
      exec (.storePerformed c (id, false)) s = .next ((s.putOp c { o with store := false }).reapOp c id)) ∧
    (∀ (lane : Nat) (a : Acc) (v : Word64) (g : Group) (err : BitVec 3), lane < 32 → o.load = true → o.who ≠ 0 → o.accs = [a] →
      a.lane = lane → a.space = 0 → a.size = 4 → a.part = 0 → a.done = true → a.wrote = false → a.val = some v →
      s.group c o.slot = some g →
        ∃ t h, exec (.loadReturn c id lane err) s = .next t ∧ t.group c o.slot = some h ∧
          h.v32 o.vd lane = v.setWidth 32 ∧
          (∀ r l, ¬ (r = o.vd ∧ l = lane) → l < 32 → h.v32 r l = g.v32 r l) ∧ h.y = g.y ∧ h.m = g.m ∧
          ((t.core c).op id).all (fun p => !p.load) = true ∧ SameMemory s t) ∧
    (∀ (lane : Nat) (a : Acc) (v : Word64) (g : Group), lane < 32 → o.load = true → o.who ≠ 0 → o.accs = [a] → o.vd ≠ 63 →
      a.lane = lane → a.space = 0 → a.size = 8 → a.part = 0 → a.done = true → a.wrote = false → a.val = some v →
      s.group c o.slot = some g →
        let lo := v.extractLsb' 0 32
        let hi := v.extractLsb' 32 32
        let returns (n : Nat) (lower upper ends : Bool) : Prop :=
          ∃ t h, exec (.loadReturn c id n 0) s = .next t ∧ t.group c o.slot = some h ∧
            h.v32 o.vd lane = (if lower then lo else g.v32 o.vd lane) ∧
            h.v32 (o.vd + 1) lane = (if upper then hi else g.v32 (o.vd + 1) lane) ∧
            ((t.core c).op id).all (fun p => !p.load) = ends
        returns lane true true true ∧ returns (32 + lane) true false false ∧ returns (64 + lane) false true false) ∧
    (∀ (lane n sp : Nat) (sx : Bool) (err : BitVec 3) (a : Acc) (g : Group) (p : Split) (q : Pend), o.load = false → o.into = some (n, sx) →
      o.accs = [a] → a.done = true → a.space = 0 → s.group c o.slot = some g → g.findPend (fun q => decide (q.id = o.id)) = some (sp, p, q) →
        ∃ t h, exec (.loadReturn c id lane err) s = .next t ∧ t.group c o.slot = some h ∧
          h.x q.bank q.rd = (if q.rd = 0 then 0 else extendTo n sx (a.val.getD 0)) ∧ (h.split sp).pend = p.pend.erase q ∧
          SameMemory s t)

/-- 10 R190, R201: the acknowledgement of an SFENCE.VMA lets its split go on; a refresh group is unavailable for 32 ticks from
50 g on, every 3,200 ticks. -/
def homeEvents : Prop :=
  ∀ (s : State) (c sl sp : Nat) (g : BitVec 6),
    (∀ h, s.group c sl = some h → (h.split sp).sfence = some false →
      ∃ t, exec (.sfenceVmaComplete c sl sp) s = .next t ∧ (t.core c).waiting = false ∧
        (t.group c sl).map (fun k => (k.split sp).sfence) = some (some true)) ∧
    (∃ t, exec (.refreshWindowStart g) s = .next t ∧ t = { s with cycle := t.cycle } ∧
      t.cycle / 6 % 3200 = 50 * g.toNat ∧ s.cycle ≤ t.cycle ∧ t.cycle / 6 ≤ s.cycle / 6 + 3200 ∧
      ∀ b, b % 2 ^ 32 / 2 ^ 26 = g.toNat → t.refreshing b = true) ∧
    (∃ t, exec (.refreshWindowEnd g) s = .next t ∧ t = { s with cycle := t.cycle } ∧
      t.cycle / 6 % 3200 = 50 * g.toNat + 32 ∧ s.cycle ≤ t.cycle ∧ t.cycle / 6 ≤ s.cycle / 6 + 3200 ∧
      ∀ b, b % 2 ^ 32 / 2 ^ 26 = g.toNat → t.refreshing b = false)

/-! ## Copies, barriers, fences (11, 13) -/

/-- 11 R217: one update of a barrier object that removes b bytes and a arrivals: the counts saturate at 0, UNDER and ERR are sticky, and
the phase completes where both counts are 0 and something was removed. -/
def barrierObjects : Prop :=
  ∀ (o b a : Nat) (err : Bool), o < 2 ^ 128 →
    let r := objUpdate o b a err
    let bcnt := o % 2 ^ 32
    let acnt := o / 2 ^ 32 % 2 ^ 16
    let full : Prop := bcnt ≤ b ∧ acnt ≤ a ∧ (0 < b ∨ 0 < a)
    (full → r % 2 ^ 32 = o / 2 ^ 64 % 2 ^ 32 ∧ r / 2 ^ 32 % 2 ^ 16 = o / 2 ^ 96 % 2 ^ 16 ∧
      r / 2 ^ 48 % 2 ^ 16 = (o / 2 ^ 48 + 1) % 2 ^ 16) ∧
    (¬ full → r % 2 ^ 32 = bcnt - b ∧ r / 2 ^ 32 % 2 ^ 16 = acnt - a ∧ r / 2 ^ 48 % 2 ^ 16 = o / 2 ^ 48 % 2 ^ 16) ∧
    r / 2 ^ 64 % 2 ^ 32 = o / 2 ^ 64 % 2 ^ 32 ∧ r / 2 ^ 96 % 2 ^ 16 = o / 2 ^ 96 % 2 ^ 16 ∧
    (r / 2 ^ 112 % 2 = 1 ↔ o / 2 ^ 112 % 2 = 1 ∨ bcnt < b ∨ acnt < a) ∧
    (r / 2 ^ 113 % 2 = 1 ↔ o / 2 ^ 113 % 2 = 1 ∨ err = true) ∧ r < 2 ^ 114

/-- 11 R218, R215: CPYK appends its n requests in order to a queue and raises P on their local destination lines; a count or queue that
no rule gives is illegal, and a misaligned first request raises cause 4. -/
def copyRequests : Prop :=
  ∀ (s : State) (x : Ctx) (rs1 rs2 : BitVec 5), IssuesEng s x 2 [rs1, rs2] →
    let k := s.core x.c
    let u := s.own x
    let a := ((s.x x rs1).extractLsb' 0 32).toNat
    let n := ((s.x x rs2).extractLsb' 0 7).toNat
    let q := ((s.x x rs2).extractLsb' 8 3).toNat
    let byte (i : Nat) : Nat := (u.localByte (a + 32 * i)).getD 0
    let raw (i : Nat) : BitVec 256 := BitVec.ofNat 256 (leValue (s.scratch.bytes (byte i) 32))
    let ls := (List.range n).flatMap (fun i => rqLocal u (raw i))
    (1 ≤ n → n ≤ 64 → q ≠ 4 → q ≠ 7 → a % 32 = 0 → (u.localByte a).isSome = true →
      (u.localByte (a + 32 * n - 1)).isSome = true →
      (∀ i, i < n → s.linePresent (byte i / 64) = true) → k.storesDone x.sl = true → k.readsDone x.sl x.sp = true →
      k.copyCount x.sl x.sp + n ≤ 255 →
      k.entries q + n ≤ 64 → (∀ l ∈ ls, Map.getD 0 s.lineP l + ls.count l ≤ 7) →
      ∃ (t : State) (es : List QItem), exec (.cpyk rs1 rs2) s = .next (s.done t x (1 + n)) ∧
        (t.core x.c).queue q = k.queue q ++ es ∧ es.length = n ∧
        (∀ i, i < n → ∃ e, es[i]? = some (.entry e) ∧ e.raw = raw i ∧ e.slot = x.sl ∧ e.mode = (s.spl x).mode ∧
          e.asid = (s.grp x).asid ∧ e.unit = (s.grp x).unit ∧ e.fetched = false ∧ e.landed = []) ∧
        (∀ p, p ≠ q → (t.core x.c).queue p = k.queue p) ∧
        (∀ l, Map.getD 0 t.lineP l = Map.getD 0 s.lineP l + ls.count l) ∧
        SameGroups k (t.core x.c) ∧ SameMemory s t) ∧
    (n = 0 ∨ 64 < n ∨ q = 4 ∨ q = 7 →
      exec (.cpyk rs1 rs2) s = .next (s.traps x 2 ((encodeWord (.cpyk rs1 rs2)).setWidth 64))) ∧
    (1 ≤ n → n ≤ 64 → q ≠ 4 → q ≠ 7 → a % 32 ≠ 0 →
      exec (.cpyk rs1 rs2) s = .next (s.traps x 4 (BitVec.ofNat 64 a)))

/-- 11 R219, R220: the barrier-object instructions on an object in the window, and the presence holds. -/
def barrierInstructions : Prop :=
  ∀ (s : State) (x : Ctx) (rd rs1 rs2 : BitVec 5), IssuesEng s x 2 [rd, rs1, rs2] →
    let k := s.core x.c
    let u := s.own x
    let o := ((s.x x rs1).extractLsb' 0 32).toNat
    let v := s.x x rs2
    (∀ b, o % 16 = 0 → u.objByte o = some b →
      (s.roomFor x false true = true →
        exec (.barinit rs1 rs2) s = .next (s.done (s.enter x { s.opOf x with
          store := true
          accs := [{ space := 1, addr := BitVec.ofNat 64 o, size := 16
                     what := .write (leBytes (v.toNat % 2 ^ 48 + v.toNat % 2 ^ 48 * 2 ^ 64) 16) }] }) x 1)) ∧
      (k.released x.sl x.sp = true →
        exec (.bararr rd rs1 rs2) s = .next (s.doneX' x rd ((s.objPhase b).setWidth 64)
          (let r := objUpdate (leValue (s.scratch.bytes b 16)) 0 (v.extractLsb' 0 16).toNat false
           { s with scratch := s.scratch.setBytes b (leBytes r 16) }))) ∧
      (k.storesDone x.sl = true → s.ownReads x b 16 = false →
        (s.objPhase b ≠ v.extractLsb' 0 16 →
          exec (.barwait rd rs1 rs2) s = .next (s.doneX' x rd ((s.objPhase b).setWidth 64) (s.acquire x))) ∧
        (s.objPhase b = v.extractLsb' 0 16 → x.handler = false →
          exec (.barwait rd rs1 rs2) s = .next (s.parks s x (.objPhase b (v.extractLsb' 0 16)))))) ∧
    (o % 16 ≠ 0 → ∀ i, i = .barinit rs1 rs2 ∨ i = .bararr rd rs1 rs2 ∨ i = .barwait rd rs1 rs2 →
      exec i s = .next (s.traps x 6 (BitVec.ofNat 64 o))) ∧
    (∀ (i : Instr) (set : Bool), (i = .prset rd rs1 rs2 ∧ set = false) ∨ (i = .prclr rd rs1 rs2 ∧ set = true) →
      let c := min v.toNat u.ssize
      let ls := (u.rangeLines o c).filter (fun l => Map.getD false s.lineH l ≠ set)
      o < u.ssize → o + c ≤ u.ssize → k.storesDone x.sl = true →
      ∃ t : State, exec i s = .next (s.doneX' x rd (BitVec.ofNat 64 ls.length) t) ∧ t = { s with lineH := t.lineH } ∧
        ∀ l, Map.getD false t.lineH l = if l ∈ u.rangeLines o c then set else Map.getD false s.lineH l)

/-- 11 R219: BARINIT of an object whose offset is a multiple of 16 and that lies in the unit's window completes, with one store of its 16
bytes outstanding: the counts and their reload values, phase 0, no flag. -/
def barrierObjectInits : Prop :=
  ∀ (s : State) (x : Ctx) (rs1 rs2 : BitVec 5), IssuesEng s x 2 [rs1, rs2] →
    let o := ((s.x x rs1).extractLsb' 0 32).toNat
    let n := (s.x x rs2).toNat % 2 ^ 48
    o % 16 = 0 → ((s.own x).localByte o).isSome = true → ((s.own x).localByte (o + 15)).isSome = true →
    (s.core x.c).storeCount x.sl x.sp < 255 →
    exec (.barinit rs1 rs2) s = .next (s.done (s.addOp x.c { s.opOf x with
      store := true
      accs := [{ space := 1, addr := BitVec.ofNat 64 o, size := 16, what := .write (leBytes (n + n * 2 ^ 64) 16) }] }) x 1)

/-- 13 R269, R270: FENCE.S by its order field and scope, and QFENCE. -/
def fencesAndJoins : Prop :=
  ∀ (s : State) (x : Ctx) (ord : BitVec 2) (scope : BitVec 3) (qmask : BitVec 7), IssuesDev s x [] [] →
    let k := s.core x.c
    let t := if ord ≠ 1 then s.release x else s
    let acq : Bool := decide (ord ≠ 2) && decide (3 ≤ scope.toNat)
    let met : Prop := (ord ≠ 2 → k.loadCount x.sl x.sp = 0 ∧ k.hartDone x.sl x.sp = true) ∧ (ord = 0 → k.storeCount x.sl x.sp = 0)
    (ord ≠ 3 → met → exec (.fenceS ord scope) s = .next (s.done (if acq then t.acquire x else t) x 1)) ∧
    (ord ≠ 3 → ¬ met → x.handler = false → exec (.fenceS ord scope) s =
      .next ((t.counted x).parkSplit x ((s.spl x).pc + 4) ((s.spl x).remaining - 1)
        (.fence (if ord = 0 then 0 else 7) (if ord ≠ 2 then 0 else 7) acq))) ∧
    (ord ≠ 3 → ¬ met → x.handler = true → exec (.fenceS ord scope) s = .next (s.waits x)) ∧
    (ord = 3 → exec (.fenceS ord scope) s =
      .next (s.traps x 2 ((encodeWord (.fenceS ord scope)).setWidth 64))) ∧
    (∃ h : Core, exec (.qfence qmask) s = .next (s.done (s.setCore x.c h) x 1) ∧ h = { k with queues := h.queues } ∧
      ∀ q, q < 7 →
        let ids := k.idsOf ((List.range 7).filter (fun q => qmask.getLsbD q))
        h.queue q = k.queue q ++ (if qmask.getLsbD q ∧ ids ≠ [] then [.join ids] else []))

/-- 13 R271: the participants of a unit's barriers are its groups, no recruit and no handler slot; a split's arrival sets its mark. The phase
completes, and every mark of the barrier is cleared, exactly where every split of every participant has then arrived; else the phase and every
group stand as they are. -/
def barrierPhases : Prop :=
  ∀ (s : State) (x : Ctx) (bar : BitVec 4), x.c ∈ (s.own x).cores → x.sl < 4 → s.group x.c x.sl = some (s.grp x) →
    (s.grp x).recruit = none →
    let u := (s.grp x).unit
    let p := s.spl x
    let ph := s.barPhase x bar
    let marked := s.setGrp x ((s.grp x).setSplit x.sp { p with marks := p.marks ||| (1#16 <<< bar.toNat) })
    let all : Prop := ∀ q ∈ marked.participants u, ∀ e ∈ q.2.2.splits, e.2.marks.getLsbD bar.toNat = true
    let t := s.arrive x bar
    (∀ v q, q ∈ s.participants v ↔ q.1 ∈ (s.unit v).cores ∧ q.2.1 < 4 ∧ s.group q.1 q.2.1 = some q.2.2 ∧ q.2.2.unit = v ∧
      q.2.2.recruit = none) ∧
    (∀ g : Group, (g.arrivedAt bar = true ↔ ∀ e ∈ g.splits, e.2.marks.getLsbD bar.toNat = true) ∧
      ∀ e ∈ (g.clearMarks bar).splits, e.2.marks.getLsbD bar.toNat = false) ∧
    (all → t.barPhase x bar = ph + 1 ∧
      (∀ q ∈ t.participants u, ∀ e ∈ q.2.2.splits, e.2.marks.getLsbD bar.toNat = false) ∧
      ∀ n : BitVec 4, n ≠ bar → t.barPhase x n = s.barPhase x n) ∧
    (¬ all → t.barPhase x bar = ph ∧ t.participants u = marked.participants u ∧ (t.spl x).marks.getLsbD bar.toNat = true) ∧
    SameMemory s t

/-- 13 R271: BAR, BAR.A and BAR.W. An arrival that does not complete the phase leaves the mark and BAR parks, remembering the phase it waits
for (a trap handler's has nowhere to be remembered, and is seen by its mark); one that completes it goes on, with the new phase. A second
arrival parks until the phase completes. BAR.W waits until the phase differs. -/
def unitBarriers : Prop :=
  ∀ (s : State) (x : Ctx) (rd rs1 rs2 : BitVec 5), IssuesEng s x 2 [rd, rs1, rs2] → x.handler = false →
    (s.grp x).recruit = none →
    let p := s.spl x
    let bar : BitVec 4 := (s.x x rs1).extractLsb' 0 4
    let ph := s.barPhase x bar
    let t := s.arrive x bar
    let fresh : Prop := p.arrived = none ∨ ∃ md, p.trapFrom = some md ∧ md ≠ p.mode
    let first : Prop := p.marks.getLsbD bar.toNat = false ∧ (s.core x.c).released x.sl x.sp = true
    (fresh → first → t.barPhase x bar ≠ ph →
      exec (.bar rd rs1) s = .next (s.doneX' x rd ((t.barPhase x bar).setWidth 64) (t.acquire x))) ∧
    (fresh → first → t.barPhase x bar = ph →
      exec (.bar rd rs1) s = .next (s.parks (if p.trapFrom = none then t.setSpl x { t.spl x with arrived := some (bar, ph) } else t) x
        (.barPhase bar ph))) ∧
    (fresh → p.marks.getLsbD bar.toNat = true → exec (.bar rd rs1) s = .next (s.parks s x (.barPhase bar ph))) ∧
    (∀ b0 ph0, p.trapFrom = none → p.arrived = some (b0, ph0) →
      (s.barPhase x b0 ≠ ph0 →
        exec (.bar rd rs1) s = .next (s.doneX' x rd ((s.barPhase x b0).setWidth 64) (s.acquire x))) ∧
      (s.barPhase x b0 = ph0 → exec (.bar rd rs1) s = .next (s.parks s x (.barPhase b0 ph0)))) ∧
    (first → exec (.barA rd rs1) s = .next (s.doneX' x rd (ph.setWidth 64) t)) ∧
    (p.marks.getLsbD bar.toNat = true → exec (.barA rd rs1) s = .next (s.parks s x (.barPhase bar ph))) ∧
    (ph ≠ (s.x x rs2).extractLsb' 0 16 →
      exec (.barW rd rs1 rs2) s = .next (s.doneX' x rd (ph.setWidth 64) (s.acquire x))) ∧
    (ph = (s.x x rs2).extractLsb' 0 16 → exec (.barW rd rs1 rs2) s = .next (s.parks s x (.barPhase bar ph)))

/-- 11 R209-R217, 13 R270, R272, 18 R349: a fetched request, a landed line, a completed request, a completed join (a fill that a resumed MLOOP
has still to repeat is not complete) and an expired watchdog. A line whose bytes are lost on their way is not written and is done; one whose
source cannot be read lands zeros (log 16). -/
def copyEvents : Prop :=
  ∀ (s : State) (c : Nat) (q : BitVec 3),
    let k := s.core c
    (∀ (e : Entry) (r : List QItem), k.queue q.toNat = .entry e :: r → e.fetched = false → q ≠ 4 → q ≠ 7 →
      rqKind e.raw ≠ 1 → k.queueFrozen q.toNat = false → (∀ i ∈ r, ∀ f, i = .entry f → f.fetched = false ∧ f.id ≠ e.id) →
      (s.unit e.unit).saving = false →
      ∃ t, exec (.copyFetch c q) s = .next t ∧ OnlyCore s t c ∧
        (t.core c).queue q.toNat = .entry { e with fetched := true, idx := [], err := rqBad q.toNat e.raw } :: r) ∧
    (∀ (e : Entry) (line : Nat), k.headEntry q.toNat = some e → e.fetched = true → e.err = false →
      exec (.copyLand c q 0 line) s = .next (s.landLine c q.toNat e line false) ∧
      (line ∉ e.landed → lineBytes (s.unit e.unit) e.raw line ≠ [] → ∀ n : BitVec 3, n = 1 ∨ n = 2 →
        ∃ t, exec (.copyLand c q n line) s = .next t ∧ t.scratch = s.scratch ∧ t.weight = s.weight)) ∧
    (∀ e : Entry, k.headEntry q.toNat = some e → e.fetched = true → e.err = false → rqNobar e.raw = true ∨ e.cut = true →
      (∀ l ∈ rqLines (s.unit e.unit) e.raw, l ∈ e.landed) →
      ∃ t, exec (.copyComplete c q) s = .next t ∧ OnlyCore s t c ∧
        ∀ i, i ∈ (t.core c).queue q.toNat ↔ i ∈ k.queue q.toNat ∧ ∀ f, i = .entry f → f.id ≠ e.id) ∧
    (∀ (e : Entry) (b : Nat), k.headEntry q.toNat = some e → e.fetched = true → e.err = false → rqNobar e.raw = false → e.cut = false →
      (∀ l ∈ rqLines (s.unit e.unit) e.raw, l ∈ e.landed) → (s.unit e.unit).objByte (rqBar e.raw) = some b →
      ∃ t, exec (.copyComplete c q) s = .next t ∧
        t.scratch = s.scratch.setBytes b (leBytes (objUpdate (leValue (s.scratch.bytes b 16))
          (rqCount (s.unit e.unit) e.raw) (if rqArr e.raw then 1 else 0) false) 16)) ∧
    (∃ t, exec (.qfenceJoinComplete c) s = .next t ∧ OnlyCore s t c ∧
      ∀ n i, i ∈ (t.core c).queue n ↔ i ∈ k.queue n ∧
        ∀ ids, i = .join ids → ∃ id ∈ ids, id ∈ k.idsOf [0, 1, 2, 3, 4, 5, 6] ∨
          ∃ t ∈ k.steps, ∃ l, t.loop = some l ∧ ∃ p ∈ l.redo, id = p.1 ∨ id = p.2) ∧
    (∀ (u : Nat) (bar : BitVec 4), ((s.barSync u).unit u).ended = false → (((s.barSync u).unit u).bar bar).running = true →
      (∃ p ∈ (s.barSync u).participants u, p.2.2.arrivedAt bar = false) →
      ∃ t, exec (.barrierWatchdogExpire u bar) s = .next t ∧ s.cycle ≤ t.cycle ∧
        ((t.unit u).ended = true ∨ (t.unit u).doomed = true))

/-- 11 R212, R215: a copied line of a plain copy between memory places holds its source bytes, and no byte outside the line of the
destination changes. -/
def copiedLines : Prop :=
  ∀ (s : State) (c q : Nat) (e : Entry) (line : Nat), rqKind e.raw = 0 → e.mode = .u →
    rqSspace e.raw = 1 → rqDspace e.raw = 0 → line ∉ e.landed → e.olds = [] →
    let u := s.unit e.unit
    let bs := lineBytes u e.raw line
    bs ≠ [] →
    (∀ b ∈ bs, ∃ y, u.localByte (spaceAddr 1 (srcRow e b.2.1 + b.2.2)) = some y) →
    (∀ b ∈ bs, ∃ a at_, s.checkU e.asid (BitVec.ofNat 64 (dstByte e.raw b.1 b.2.1 b.2.2)) true = some (.hbm a, at_)) →
    let t := s.landLine c q e line false
    let dst (b : Nat × Nat × Nat) : Option Nat :=
      match s.checkU e.asid (BitVec.ofNat 64 (dstByte e.raw b.1 b.2.1 b.2.2)) true with
      | some (.hbm a, _) => some a
      | _ => none
    (∀ b ∈ bs, (∀ b' ∈ bs, dst b' = dst b → b' = b) → ∀ a y, dst b = some a →
      u.localByte (spaceAddr 1 (srcRow e b.2.1 + b.2.2)) = some y → t.hbm.get a = s.scratch.get y) ∧
    (∀ a, (∀ b ∈ bs, dst b ≠ some a) → t.hbm.get a = s.hbm.get a) ∧ t.scratch = s.scratch ∧ t.weight = s.weight

/-! ## The matrix engine (12) -/

/-- 02 R37, R38, R43, R44, Tables 2.5, 2.6: the block sums of a step. Of a K4 pair it is the integer sum of the 32 products of the integer
forms of the codes, with the exponent of both scale bytes less 70; of an 8-bit integer pair the integer sum; of a float pair the exact sum of
the 32 exact products, which is +0 where it is zero, and NaN where a product is NaN. -/
def blockSums : Prop :=
  ∀ (a b : MSlot) (fa fb : BitVec 5) (i j blk : Nat),
    let forms : List (List Int) := [
      [0, 8, 16, 24, 32, 40, 48, 56, -64, -56, -48, -40, -32, -24, -16, -8],
      [0, 4, 8, 12, 16, 24, 32, 48, 0, -4, -8, -12, -16, -24, -32, -48],
      [0, 1, 2, 4, 8, 16, 32, 64, 0, -1, -2, -4, -8, -16, -32, -64],
      [0, 8, 16, 24, 32, 48, 64, 128, 0, -8, -16, -24, -32, -48, -64, -128]]
    let byte (m : MSlot) (line n : Nat) : Nat := (m.bytes.get (64 * line + n)).toNat
    let side (m : MSlot) (line : Nat) : Nat := (m.side.get (4 * line + blk)).toNat
    let form (m : MSlot) (line n : Nat) : Int :=
      ((forms.getD (side m line / 64) []).getD (byte m line ((32 * blk + n) / 2) / 16 ^ (n % 2) % 16) 0)
    let sum (p : Nat → Int) : Int := (List.range 32).foldl (fun t n => t + p n) 0
    let s4 := sum (fun n => form a i n * form b j n)
    let x4 : Int := ((side a i % 64 : Nat) : Int) + ((side b j % 64 : Nat) : Int) - 70
    let el (m : MSlot) (f : BitVec 5) (line n : Nat) : Nat :=
      if fmtWidth f = 16 then byte m line (2 * (32 * blk + n)) + 256 * byte m line (2 * (32 * blk + n) + 1)
      else byte m line (32 * blk + n)
    let prod (n : Nat) : FNum := FNum.mul ((floatOf fa).value (el a fa i n)) ((floatOf fb).value (el b fb j n))
    let worth (v : FNum) : Int := match v with
      | .fin s m e => (if s then -(m : Int) else m) * 2 ^ (e + 300).toNat
      | _ => 0
    intBlock a b 5 5 i j blk = (s4, x4) ∧
    (∃ neg m e, floatBlock a b 5 5 i j blk = .fin neg m e ∧ (if neg then -(m : Int) else m) = s4 ∧ (m ≠ 0 → e = x4) ∧
      (m = 0 → neg = false)) ∧
    (fmtIsInt fa = true → fmtWidth fa = 8 → fa ≠ 5 →
      intBlock a b fa fb i j blk = (sum (fun n => readInt 8 (fmtSigned fa) (byte a i (32 * blk + n)) *
        readInt 8 (fmtSigned fb) (byte b j (32 * blk + n))), 0)) ∧
    (fa ∈ [1, 2, 3, 4] → fb ∈ [1, 2, 3, 4] → fmtWidth fa = fmtWidth fb →
      ((∃ n, n < 32 ∧ prod n = .nan) → floatBlock a b fa fb i j blk = .nan) ∧
      ((∀ n, n < 32 → ∃ neg m e, prod n = .fin neg m e) →
        ∃ neg m e, floatBlock a b fa fb i j blk = .fin neg m e ∧ worth (.fin neg m e) = sum (fun n => worth (prod n)) ∧
          (m = 0 → neg = false) ∧ (m ≠ 0 → -300 ≤ e)) ∧
      (∀ q, (∃ n, n < 32 ∧ prod n = .inf q) → (∀ n, n < 32 → prod n ≠ .nan ∧ prod n ≠ .inf (!q)) →
        floatBlock a b fa fb i j blk = .inf q) ∧
      ((∃ n, n < 32 ∧ prod n = .inf true) → (∃ n, n < 32 ∧ prod n = .inf false) → floatBlock a b fa fb i j blk = .nan))

/-- 02 R46, R47: align_add on W-bit integers with exponents: exact where the sum fits; else the least shift that makes it fit, with a lost bit
set in bit 0 and reported; a result beyond the greatest exponent saturates. -/
def alignedSums : Prop :=
  ∀ (w : Nat) (emax na ea nb eb : Int), 2 ≤ w →
    let e := min ea eb
    let v := na * 2 ^ (ea - e).toNat + nb * 2 ^ (eb - e).toNat
    let holds (m : Int) : Prop := -(2 ^ (w - 1)) ≤ m ∧ m ≤ 2 ^ (w - 1) - 1
    let sum := alignAdd w emax na ea nb eb
    (na = 0 → nb = 0 → sum = (0, e, false)) ∧ (na = 0 → nb ≠ 0 → sum = (nb, eb, false)) ∧
    (na ≠ 0 → nb = 0 → sum = (na, ea, false)) ∧
    (na ≠ 0 → nb ≠ 0 → ∃ k : Nat, holds (v / 2 ^ k) ∧ (∀ i, i < k → ¬ holds (v / 2 ^ i)) ∧
      let m := v / 2 ^ k
      let lost : Prop := m * 2 ^ k ≠ v
      (emax < e + k → sum = (if 0 < v then 2 ^ (w - 1) - 1 else -(2 ^ (w - 1)), emax, true)) ∧
      (e + k ≤ emax → (¬ lost → sum = (m, e + k, false)) ∧ (lost → sum = (if m % 2 = 0 then m + 1 else m, e + k, true))))

/-- 02 R44, R45, R46, 12 R232: one step of a tile on its 256 elements, from the old ones or, with Z, from zeros. An F tile gains its block sums
in the order of the blocks, 4 for K4, 2 for an 8-bit format and 1 for a 16-bit one: an integer pair's modulo 2^32, a float or K4 pair's with one
rounding to nearest even after each. An exact tile, of two banks, gains the integer block sums of a K4 or integer pair through align_add with 56
bits and exponents up to 127, and its LOSS flag gains every loss. Nothing else of the core changes. -/
def matrixStep : Prop :=
  ∀ (k : Core) (a b : MSlot) (fa fb : BitVec 5) (t : Nat) (z : Bool),
    let h := k.step a b fa fb t z
    let blocks : Nat := if fa = 5 then 4 else if fmtWidth fa = 8 then 2 else 1
    let chain {α : Type} (old new : α) (next : Nat → α → α → Prop) : Prop :=
      ∃ c : Nat → α, c 0 = old ∧ new = c blocks ∧ ∀ n, n < blocks → next n (c n) (c (n + 1))
    let others : Prop := h.steps = k.steps ∧ h.mslots = k.mslots ∧ h.queues = k.queues ∧ SameGroups k h
    ((k.bank t).state = .f →
      (∀ e, e < 256 →
        let old : Word32 := if z then 0 else (k.bank t).word e
        (fmtIsInt fa = true → fmtWidth fa = 8 → fa ≠ 5 →
          chain old ((h.bank t).word e) (fun n c d => d = c + BitVec.ofInt 32 (intBlock a b fa fb (e / 16) (e % 16) n).1)) ∧
        (fmtIsInt fa = false →
          chain old ((h.bank t).word e) (fun n c d => d = BitVec.ofNat 32 (fp32.round .rne false
            (FNum.add .rne (fp32.value c.toNat) (floatBlock a b fa fb (e / 16) (e % 16) n)))))) ∧
      (∀ n, n ≠ t → h.bank n = k.bank n) ∧ (h.bank t).token = (k.bank t).token ∧ (h.bank t).state = .f ∧ others) ∧
    ((k.bank t).state = .el →
      (∀ e, e < 256 →
        let word (c : Core) : BitVec 64 := (c.bank (t + 1)).word e ++ (c.bank t).word e
        ∃ l, chain ((if z then 0 else word k, false) : BitVec 64 × Bool) (word h, l) (fun n c d =>
            let s := intBlock a b fa fb (e / 16) (e % 16) n
            let r := alignAdd 56 127 (c.1.extractLsb' 8 56).toInt (c.1.extractLsb' 0 8).toInt s.1 s.2
            d = (BitVec.ofInt 56 r.1 ++ BitVec.ofInt 8 r.2.1, c.2 || r.2.2)) ∧
          (l = true → (h.bank t).loss = true)) ∧
      (z = false → (k.bank t).loss = true → (h.bank t).loss = true) ∧
      (∀ n, n ≠ t → n ≠ t + 1 → h.bank n = k.bank n) ∧ (h.bank t).token = (k.bank t).token ∧ (h.bank t).state = .el ∧ others)

/-- 12 R243, R250: claiming and releasing operand slots, and the Bellwether. -/
def slotsAndBellwether : Prop :=
  ∀ (s : State) (x : Ctx) (rd rs1 : BitVec 5), IssuesEng s x 1 [rd, rs1] → x.handler = false →
    let g := s.grp x
    let k := s.core x.c
    let v := s.x x rs1
    let free := (List.range 8).filter k.slotFree
    let mine := k.heldSlots x.sl v
    let t := v.toNat
    let fails : Prop := k.bell ≠ some x.sl ∨ 5 ≤ t ∨ (t ≤ 3 ∧ s.sameUnit x t = false)
    (v ≠ 0 → t ≤ free.length → ∃ (h : Core) (m : Word64),
      exec (.tclaim rd rs1) s = .next (s.doneX' x rd m (s.setCore x.c h)) ∧ h = { k with mslots := h.mslots } ∧
      (∀ n, m.getLsbD n = decide (n ∈ free.take t)) ∧
      ∀ n, h.mslot n = if n ∈ free.take t then { owner := some x.sl, unit := g.unit } else k.mslot n) ∧
    (v = 0 ∨ free.length < t → exec (.tclaim rd rs1) s = .next (s.doneX x rd 0)) ∧
    (k.loopHolds (slotMask mine) = false → ∃ (h : Core) (m : Word64),
      exec (.trel rd rs1) s = .next (s.doneX' x rd m (s.setCore x.c h)) ∧ h = { k with mslots := h.mslots } ∧
      (∀ n, m.getLsbD n = decide (n < 8 ∧ v.getLsbD n = true ∧ (k.mslot n).owner = some x.sl)) ∧
      ∀ n, h.mslot n = if n ∈ mine then { k.mslot n with owner := none } else k.mslot n) ∧
    (k.loopHolds (slotMask mine) = true → exec (.trel rd rs1) s = .next (s.parks s x (.loopFree (slotMask mine)))) ∧
    (k.bell = some x.sl → exec .btake s = .next (s.done s x 1)) ∧
    (k.bell = none → exec .btake s = .next (s.done (s.setCore x.c { k with bell := some x.sl }) x 1)) ∧
    (∀ n, k.bell = some n → n ≠ x.sl → exec .btake s = .next (s.parks s x .bell)) ∧
    (fails → exec (.bpass rd rs1) s = .next (s.doneX x rd 1)) ∧
    (¬ fails → t ≤ 3 →
      exec (.bpass rd rs1) s = .next (s.doneX' x rd 0 (s.setCore x.c { k with bell := some t }))) ∧
    (¬ fails → t = 4 → exec (.bpass rd rs1) s = .next (s.doneX' x rd 0 (s.setCore x.c k.grantBell)))

/-- 12 R244, R245, 13 R258, R262: TLOAD, MMA and MLOOP enter their queues: the slot takes the tag, the tile's token passes to the engine, and the
split counts one more tile operation. A TLOAD to a slot that an MLOOP holds writes the tag and parks. -/
def fillsAndSteps : Prop :=
  ∀ (s : State) (x : Ctx) (rs1 rs2 : BitVec 5), x.handler = false → s.tileRoom x = true →
    let g := s.grp x
    let k := s.core x.c
    let a := s.x x rs1
    let ctl := s.x x rs2
    let src := if ctlSpace ctl = 0 then a else (a.extractLsb' 0 32).setWidth 64
    let n := ctlSlot ctl
    let w := a.toNat
    let sa := w % 8
    let sb := w / 16 % 8
    let b := w / 256 % 32
    let fa := (((s.spl x).format).map fmtA).getD (k.mslot sa).tag
    let fb := (((s.spl x).format).map fmtB).getD (k.mslot sb).tag
    let ready (b : Nat) : Prop :=
      k.owns g b = true ∧ (k.bank b).state = .f ∧ (k.bank b).heldBy x.sl = true ∧ k.bell = some x.sl ∧ k.steps.length < 4
    (IssuesEng s x 1 [rs1, rs2] → ctlOk ctl src = true → k.holdsSlot x.sl n = true →
      k.loopHolds (slotMask [n]) = false → k.storesDone x.sl = true → k.entries 4 < 64 →
      ∃ t e, exec (.tload rs1 rs2) s = .next (s.done t x 1) ∧ OnlyCore { s with nextId := s.nextId + 1 } t x.c ∧
        (t.core x.c).queue 4 = k.queue 4 ++ [.entry e] ∧ fillSrc e = src ∧ fillSlot e = n ∧ e.after = k.readersOf n ∧
        ((t.core x.c).mslot n).tag = ctlFmt ctl ∧ ((t.core x.c).mslot n).bytes = (k.mslot n).bytes ∧
        (t.core x.c).tiles = k.tiles ++ [{ id := e.id, slot := x.sl, who := splitBit x.sp }] ∧
        SameGroups k (t.core x.c)) ∧
    (IssuesFmt s x .matrix 1 [rs1] → ready b → k.holdsSlot x.sl sa = true → k.holdsSlot x.sl sb = true →
      fmtPair fa fb = true →
      ∃ t st, exec (.mma rs1) s = .next (s.done t x 1) ∧ OnlyCore { s with nextId := s.nextId + 1 } t x.c ∧
        (t.core x.c).steps = k.steps ++ [st] ∧ st.sa = sa ∧ st.sb = sb ∧ st.bank = b ∧ st.fa = fa ∧ st.fb = fb ∧
        st.z = w.testBit 3 ∧ st.loop = none ∧ ((t.core x.c).bank b).token = .engine ∧
        ((t.core x.c).bank b).words = (k.bank b).words ∧ (∀ m, m ≠ b → (t.core x.c).bank m = k.bank m) ∧
        (t.core x.c).tiles = k.tiles ++ [{ id := st.id, slot := x.sl, who := splitBit x.sp }] ∧
        SameGroups k (t.core x.c)) ∧
    (IssuesFmt s x .matrix 1 [rs1] → ∀ y z, w % 64 = 0 →
      (s.own x).localByte (w % 2 ^ 32) = some y → (s.own x).localByte (w % 2 ^ 32 + 63) = some z →
      let d := leValue (s.scratch.bytes y 64)
      let st := loopStep { x with fmt := (s.spl x).format } g d
      s.linePresent (y / 64) = true → loopOk d = true → (∀ m ∈ st.holds, k.holdsSlot x.sl m = true) →
      fmtPair st.fa st.fb = true → k.storesDone x.sl = true → s.ownReads x y 64 = false → ready st.bank → k.steps ≠ [] →
      ∃ t st', exec (.mloop rs1) s = .next (s.done t x 1) ∧ OnlyCore { s with nextId := s.nextId + 1 } t x.c ∧
        (t.core x.c).steps = k.steps ++ [st'] ∧ st' = { st with id := st'.id } ∧
        ((t.core x.c).bank st.bank).token = .engine ∧
        (t.core x.c).tiles = k.tiles ++ [{ id := st'.id, slot := x.sl, who := splitBit x.sp }] ∧
        SameGroups k (t.core x.c)) ∧
    (IssuesFmt s x .matrix 1 [rs1] → ready b → k.holdsSlot x.sl sa = false →
      exec (.mma rs1) s = .next (s.traps x 24 (BitVec.ofNat 64 (sa * 256 + 3)))) ∧
    (IssuesEng s x 1 [rs1, rs2] → ctlOk ctl src = true → k.holdsSlot x.sl n = true → k.loopHolds (slotMask [n]) = true →
      exec (.tload rs1 rs2) s = .next (s.parks (s.setCore x.c (k.setMslot n { k.mslot n with tag := ctlFmt ctl })) x
        (.loopFree (slotMask [n]))))

/-- 12 R246, R247, Table 12.10: allocating, freeing and converting tiles. A bank of another unit or of none is not acted on, and sets
`gstat`.AUR. That ACCCVT looks at its bank before its control word and writes 0 to rd where the bank is not the unit's, and that the high bank of
an exact tile gives reason STATE, are the model's choices (log 24). -/
def accumulators : Prop :=
  ∀ (s : State) (x : Ctx) (rd rs1 rs2 : BitVec 5), x.handler = false →
    let g := s.grp x
    let k := s.core x.c
    let v := s.x x rs1
    let n := v.toNat % 64
    let exact := v.getLsbD 8
    let free (b : Nat) : Prop := (k.bank b).state = .free ∧ k.deadBanks.getLsbD b = false
    let fits (b : Nat) : Prop := b + n ≤ 32 ∧ ∀ i, i < n → free (b + i)
    let asked : Prop := 1 ≤ n ∧ n ≤ 32 ∧ (exact = true → n % 2 = 0)
    let f := v.toNat % 32
    let cov := (List.range 32).filter (fun b => decide (f ≤ b) && decide (b < f + (s.x x rs2).toNat))
    let mine := cov.filter (k.owns g)
    (IssuesEng s x 1 [rd, rs1] →
      (∀ b, asked → fits b → (∀ c, c < b → ¬ fits c) →
        ∃ h : Core, exec (.accalloc rd rs1) s = .next (s.doneX' x rd (BitVec.ofNat 64 b) (s.setCore x.c h)) ∧
          h = { k with banks := h.banks } ∧ ∀ i, h.bank i = if b ≤ i ∧ i < b + n then
            { state := if exact then (if (i - b) % 2 = 0 then .el else .eh) else .f
              unit := g.unit, token := .vector x.sl false } else k.bank i) ∧
      (¬ asked ∨ (∀ b, ¬ fits b) → exec (.accalloc rd rs1) s = .next (s.doneX x rd (BitVec.allOnes 64)))) ∧
    (IssuesEng s x 1 [rd, rs1, rs2] →
      (∀ b ∈ mine, (k.bank b).heldBy x.sl = true ∧ ((k.bank b).state = .el → b + 1 ∈ cov) ∧
        ((k.bank b).state = .eh → b - 1 ∈ cov)) →
      ∃ t : State, exec (.accfree rd rs1 rs2) s = .next (s.doneX' x rd (BitVec.ofNat 64 mine.length) t) ∧
        (∀ b, (t.core x.c).bank b = if b ∈ mine then {} else k.bank b) ∧ SameMemory s t ∧
        (t.grp x).aur = (g.aur || decide (∃ b ∈ cov, k.owns g b = false)) ∧ (t.grp x).y = g.y ∧ (t.grp x).v = g.v) ∧
    (IssuesFmt s x .fp32 1 [rd, rs1] →
      let op := v.toNat / 32 % 4
      (k.owns g f = false → exec (.acccvt rd rs1) s = .next (s.doneX' x rd 0 (s.setAur x))) ∧
      (k.owns g f = true → op < 2 → k.cvtSource g f op = true → (k.bank f).heldBy x.sl = true → s.tileRoom x = true →
        ∃ h : Core, exec (.acccvt rd rs1) s = .next (s.doneX' x rd
            (if op = 0 ∧ (k.bank f).loss = true then 1 else 0) { s.setCore x.c h with nextId := s.nextId + 1 }) ∧
          (h.bank f).token = .engine ∧ (h.bank f).words = (k.bank f).words ∧
          h.convs = k.convs ++ [{ id := s.nextId, slot := x.sl, bank := f, op := BitVec.ofNat 2 op }] ∧
          h.tiles = k.tiles ++ [{ id := s.nextId, slot := x.sl, who := splitBit x.sp }] ∧ SameGroups k h) ∧
      (k.owns g f = true → op < 2 → k.cvtSource g f op = false →
        exec (.acccvt rd rs1) s = .next (s.traps x 24 (BitVec.ofNat 64 (f * 256 + 7)))))

/-- 12 R248, R249: words of a tile in lanes, and its token between groups. -/
def tileWords : Prop :=
  ∀ (s : State) (x : Ctx) (rd rs1 rs2 : BitVec 5) (md : Option Word32) (vd : BitVec 6), x.handler = false →
    let g := s.grp x
    let k := s.core x.c
    let q := (s.x x rs1).toNat
    let b := q % 32
    let high := q.testBit 16
    let bank : Nat := if (k.bank b).state = .el ∧ high = true then b + 1 else b
    let el (l : Nat) : Nat := (q / 256 % 256 + (l - g.base x.sp)) % 256
    let mine : Prop := k.owns g b = true ∧ (k.bank b).state ≠ .eh ∧ (k.bank b).heldBy x.sl = true
    let cyc := laneCycles g none
    (IssuesLane s x shBare md [rs1] [vd] → ClauseTakes s x 1 → Ungated s x → md.getD 0 = 0 →
      (mine → WritesLanes s x md cyc vd (fun l => (k.bank bank).word (el l)) (exec (.accrd md vd rs1) s)) ∧
      (mine → ∃ h : Core, exec (.accwr md vd rs1) s =
          .next ((s.setCore x.c h).finish x ((s.spl x).pc + laneLen md) cyc false) ∧ h = { k with banks := h.banks } ∧
        (∀ l, l < 32 → bit (s.spl x).m0 l = true →
          (∀ j, j < 32 → bit (s.spl x).m0 j = true → el j = el l → j = l) → (h.bank bank).word (el l) = g.v32 vd l) ∧
        (∀ e, (∀ l, l < 32 → bit (s.spl x).m0 l = true → el l ≠ e) → (h.bank bank).word e = (k.bank bank).word e) ∧
        (∀ c, c ≠ bank → h.bank c = k.bank c) ∧ (h.bank bank).token = (k.bank bank).token ∧
        (h.bank bank).state = (k.bank bank).state) ∧
      (k.owns g b = false → ∃ t : State, exec (.accrd md vd rs1) s =
          .next (t.finish x ((s.spl x).pc + laneLen md) cyc false) ∧ (t.grp x).aur = true ∧
        (∀ l, l < 32 → bit (s.spl x).m0 l = true → (t.grp x).v32 vd l = 0) ∧ t.core x.c = { k with slots := (t.core x.c).slots })) ∧
    (IssuesEng s x 1 [rd, rs1, rs2] →
      let to' := (s.x x rs2).toNat
      (mine → s.sameUnit x to' = true →
        exec (.tgive rd rs1 rs2) s = .next (s.doneX' x rd 0 (s.setCore x.c (k.setToken b (.vector to' true))))) ∧
      (mine → s.sameUnit x to' = false → exec (.tgive rd rs1 rs2) s = .next (s.doneX x rd 1)) ∧
      (k.owns g b = false → exec (.tgive rd rs1 rs2) s = .next (s.doneX' x rd 1 (s.setAur x)))) ∧
    (IssuesEng s x 1 [rd, rs1] → q.testBit 6 = true →
      (∀ a, a < 32 → (k.bank a).newFor x.sl = true → (∀ c, c < a → (k.bank c).newFor x.sl = false) →
        exec (.ttake rd rs1) s =
          .next (s.doneX' x rd (BitVec.ofNat 64 a) (s.setCore x.c (k.setToken a (.vector x.sl false))))) ∧
      ((∀ a, a < 32 → (k.bank a).newFor x.sl = false) → exec (.ttake rd rs1) s = .next (s.parks s x .anyToken))) ∧
    (IssuesEng s x 1 [rd, rs1] → q.testBit 6 = false →
      (mine → exec (.ttake rd rs1) s =
        .next (s.doneX' x rd (BitVec.ofNat 64 b) (s.setCore x.c (k.setToken b (.vector x.sl false))))) ∧
      (k.owns g b = true → (k.bank b).state ≠ .eh → (k.bank b).heldBy x.sl = false →
        exec (.ttake rd rs1) s = .next (s.parks s x (.token b))) ∧
      (k.owns g b = false → exec (.ttake rd rs1) s = .next (s.doneX' x rd (BitVec.allOnes 64) (s.setAur x))))

/-- 12 R238-R240, R251: sending the elements of an exact tile to a core of the unit, arming a reduction tile, and collecting it. That a COLLECT
parks for its partials before its bank's state and token are looked at is the model's choice (log 24). -/
def reductions : Prop :=
  ∀ (s : State) (x : Ctx) (rd rs1 rs2 : BitVec 5), x.handler = false →
    let g := s.grp x
    let k := s.core x.c
    let v := (s.x x rs1).toNat
    let d := s.x x rs2
    let b := v % 32
    let n := v % 2
    let op := v / 2 % 4
    let cnt := v / 2 ^ 32 % 2 ^ 16
    let tl := k.rtileFor n g.unit
    let c := v / 256 % 32
    (IssuesEng s x 4 [rs1, rs2] →
      (∀ dest, coreOf (d.extractLsb' 0 18) = some dest → dest ∈ (s.own x).cores → k.owns g b = true →
        (k.bank b).state = .el → (k.bank b).heldBy x.sl = true → s.tileRoom x = true →
        ∃ (h : Core) (q : Send), exec (.redsend rs1 rs2) s =
            .next (s.done { s.setCore x.c h with nextId := s.nextId + 1, sends := s.sends ++ [q] } x 1) ∧
          q.dest = dest ∧ q.tile = d.toNat / 2 ^ 24 % 2 ∧ q.tag = d.extractLsb' 32 32 ∧ q.elems.length = 256 ∧
          (∀ e, e < 256 → q.elems[e]? = some (BitVec.ofInt 64 (exactN (k.exactElem b e)), BitVec.ofInt 32 (exactX (k.exactElem b e)))) ∧
          (h.bank b).token = .engine ∧ (h.bank (b + 1)).token = .engine ∧
          h.tiles = k.tiles ++ [{ id := q.id, slot := x.sl, who := splitBit x.sp }]) ∧
      ((∀ dest, coreOf (d.extractLsb' 0 18) = some dest → dest ∉ (s.own x).cores) →
        exec (.redsend rs1 rs2) s = .next (s.traps x 28 d))) ∧
    (IssuesEng s x 4 [rd, rs1, rs2] →
      (op = 0 → (k.rtile n).pend = 0 → ((k.rtile n).unit = none ∨ (k.rtile n).unit = some g.unit) → cnt ≠ 0 →
        ∃ h : Core, exec (.redacc rd rs1 rs2) s = .next (s.doneX' x rd 0 (s.setCore x.c h)) ∧
          h = { k with rtiles := h.rtiles } ∧
          h.rtile n = { unit := some g.unit, pend := BitVec.ofNat 16 cnt, tag := d.extractLsb' 0 32
                        loose := (k.rtile n).loose.filter (fun e => e.1 ≠ g.unit) } ∧
          ∀ m, m ≠ n → h.rtile m = k.rtile m) ∧
      (op = 0 → (k.rtile n).pend ≠ 0 → exec (.redacc rd rs1 rs2) s = .next (s.doneX x rd 1)) ∧
      (op = 1 ∨ op = 2 → tl.pend ≠ 0 → exec (.redacc rd rs1 rs2) s = .next (s.parks s x (.pendZero n))) ∧
      (op = 1 → tl.pend = 0 → k.owns g c = true → (k.bank c).state = .f → (k.bank c).heldBy x.sl = true →
        ∃ (h : Core) (r : Word64), exec (.redacc rd rs1 rs2) s = .next (s.doneX' x rd r (s.setCore x.c h)) ∧
          h = { k with banks := h.banks } ∧ r.extractLsb' 0 16 = tl.drops ∧
          (∀ e, e < 256 → ∀ m y l, Map.find tl.sums e = some (m, y, l) →
            (h.bank c).word e = BitVec.ofNat 32 (fp32.round .rne false (.ofInt m.toInt y.toInt))) ∧
          (∀ e, e < 256 → Map.find tl.sums e = none → (h.bank c).word e = 0) ∧
          ∀ m, m ≠ c → h.bank m = k.bank m))

/-- 12 R232-R251: the events of the engine. -/
def matrixEvents : Prop :=
  ∀ (s : State) (c : Nat),
    let k := s.core c
    (∀ (e : Entry) (r : List QItem), k.queue 4 = .entry e :: r → e.fetched = false → k.queueFrozen 4 = false →
      (∀ i ∈ r, ∀ f, i = .entry f → f.fetched = false ∧ f.id ≠ e.id) → k.holdsFill e = false →
      (s.unit e.unit).saving = false → s.fillBlock c e = none →
      ∃ t, exec (.tloadFillStart c) s = .next t ∧ OnlyCore s t c ∧
        (t.core c).queue 4 = .entry { e with fetched := true } :: r) ∧
    (∀ e : Entry, k.headEntry 4 = some e → e.fetched = true → k.queueFrozen 4 = false → e.landed = [] →
      (∀ i, i < fillSize (fillCtl e) → ∃ d, s.fillOne c e i = .inr d) →
      ∃ t, exec (.tloadFillComplete c) s = .next t ∧ OnlyCore s t c ∧
        (∀ i d, i < 1024 → s.fillOne c e i = .inr d → ((t.core c).mslot (fillSlot e)).bytes.get i = d) ∧
        (∀ i d, i < 64 → (fillCtl e).extractLsb' 3 5 = 5#5 → s.fillOne c e (1024 + i) = .inr d →
          ((t.core c).mslot (fillSlot e)).side.get i = d) ∧
        (∀ n, n ≠ fillSlot e → (t.core c).mslot n = k.mslot n) ∧
        (∀ f ∈ (t.core c).fillsOf (fillSlot e), f.id ≠ e.id) ∧ ∀ q ∈ (t.core c).tiles, q.id ≠ e.id) ∧
    (∀ (st : Step) (r : List Step), k.steps = st :: r → st.loop = none → (∀ q ∈ r, q.loop = none) →
      k.fillsOf st.sa = [] → k.fillsOf st.sb = [] → (∀ id ∈ st.waits, id ∉ k.idsOf [4]) →
      (s.unit st.unit).saving = false →
      let h := k.step (k.mslot st.sa) (k.mslot st.sb) st.fa st.fb st.bank st.z
      exec (.matrixStepComplete c) s =
        .next (s.setCore c { (h.returnToken st.bank st.slot).tileDone st.id with steps := r })) ∧
    (∀ (st : Step) (r : List Step) (l : LoopRec) (i j : Nat), k.steps = st :: r → st.loop = some l → l.cur = some (i, j) →
      l.running = false → l.left = 1 → i ∉ k.idsOf [4] → j ∉ k.idsOf [4] → (s.unit st.unit).saving = false →
      exec (.mloopStepStart c) s =
        .next (s.setCore c { k with steps := { st with loop := some { l with running := true } } :: r })) ∧
    (∀ (bank : BitVec 5) (v : Conv), k.convs.find? (fun v => v.bank = bank.toNat) = some v → v.op = 1 →
      (k.bank bank.toNat).state = .f →
      ∃ t, exec (.acccvtComplete c bank) s = .next t ∧ OnlyCore s t c ∧
        (∀ e, e < 256 → ((t.core c).bank bank.toNat).word e =
          BitVec.ofNat 32 (fp32.round .rne false (.ofInt ((k.bank bank.toNat).word e).toInt 0))) ∧
        ((t.core c).bank bank.toNat).token = (if v.slot = 5 then .nobody else .vector v.slot false) ∧
        (∀ b, b ≠ bank.toNat → (t.core c).bank b = k.bank b)) ∧
    (∀ (n : Nat) (q : Send), s.sends.find? (fun t => t.id = n && t.core = c) = some q → q.held = true →
      (k.bank q.bank).state = .el → (k.bank q.bank).unit = q.unit →
      ∃ t, exec (.redsendTokenReturn c n) s = .next t ∧
        ((t.core c).bank q.bank).token = (if q.slot = 5 then .nobody else .vector q.slot false) ∧
        ((t.core c).bank (q.bank + 1)).token = (if q.slot = 5 then .nobody else .vector q.slot false)) ∧
    (∀ (n : Nat) (q : Send) (m : BitVec 64) (y : BitVec 32) (r : List (BitVec 64 × BitVec 32)),
      s.sends.find? (fun t => t.id = n) = some q → q.elems = (m, y) :: r → r ≠ [] →
      let tl := (s.core q.dest).rtile q.tile
      tl.unit = some q.unit → tl.pend ≠ 0 → tl.tag = q.tag → Map.find tl.sums (255 - r.length) = none →
      ∃ t, exec (.redsendPartialArrival n) s = .next t ∧
        Map.find ((t.core q.dest).rtile q.tile).sums (255 - r.length) = some (m.signExtend 128, y, false) ∧
        ((t.core q.dest).rtile q.tile).pend = tl.pend ∧
        ∀ e, e ≠ 255 - r.length → Map.find ((t.core q.dest).rtile q.tile).sums e = Map.find tl.sums e)

/-! ## Gate calls (17) -/

/-- 17 R334-R340: GATE through a valid entry, by which the group runs at the entry point in the callee's domain and address space with only
its argument registers, and GRET, which restores the caller's masks, domain and address space. The frame that GATE opens holds the return pc, the
caller's address space, domain and table, the entry's masks and fault entry, the caller's masks and mask stack, and in its shadow the caller's
x registers that do not pass. Both clear the lane registers below v16 that are no arguments, in every lane; the others stay. -/
def gateCalls : Prop :=
  ∀ (s : State) (x : Ctx) (rs1 : BitVec 5), IssuesDev s x [rs1] [] → ClauseTakes s x 6 → LastWord s x →
    let g := s.grp x
    let p := s.spl x
    let i := (s.x x rs1).toNat % 256
    let e := s.gateAt g i
    let t := Map.getD 0 (s.die (dieOf x.c)).domains e.cdom.toNat
    let quiet : Prop := (s.core x.c).quiet x.sl x.sp p = true
    let fault (j : Instr) (reason index : Nat) : Prop :=
      exec j s = .next (s.traps x 25 (BitVec.ofNat 64 (index * 256 + reason)))
    let passes (larg : BitVec 16) (lwin : Nat) (h : Group) : Prop := ∀ r l, l < 32 →
      h.v32 r l = if r.toNat < 16 ∧ ¬ (r.toNat < lwin ∧ larg.getLsbD r.toNat = true) then 0 else g.v32 r l
    (p.mode = .s → fault (.gate rs1) 1 0 ∧ fault .gret 1 0) ∧
    (p.mode = .u → x.handler = true → fault (.gate rs1) 2 0 ∧ fault .gret 2 0) ∧
    (p.mode = .u → x.handler = false →
    (g.lw16 = true → fault (.gate rs1) 3 0) ∧
    (g.lw16 = false → 1 < g.splits.length → fault (.gate rs1) 4 0) ∧
    (g.lw16 = false → g.splits.length ≤ 1 →
      (¬ quiet → exec (.gate rs1) s = .next (s.parks s x .quiet)) ∧
      (quiet →
        (g.tlast.toNat < i ∨ e.v = false → fault (.gate rs1) 5 i) ∧
        (i ≤ g.tlast.toNat → e.v = true → e.bad = true → fault (.gate rs1) 6 i) ∧
        (i ≤ g.tlast.toNat → e.v = true → e.bad = false →
          ((g.dom ^^^ e.aval) &&& e.amask ≠ 0 → fault (.gate rs1) 7 i) ∧
          ((g.dom ^^^ e.aval) &&& e.amask = 0 →
            (e.nest ≤ g.frames.length → fault (.gate rs1) 8 i) ∧
            (g.frames.length < e.nest → t.getLsbD 63 = false → fault (.gate rs1) 9 i) ∧
            (g.frames.length < e.nest → t.getLsbD 63 = true →
              ∃ u : State, exec (.gate rs1) s = .next (u.finish x (e.entry.setWidth 64) 1 false) ∧ SameMemory s u ∧
                let h := u.grp x
                h.dom = e.cdom ∧ h.asid = e.casid ∧ h.tbase = t.extractLsb' 12 40 ∧ h.tlast = t.extractLsb' 0 8 ∧
                h.m = [] ∧ (u.spl x).depth = 0 ∧ (u.spl x).stack = [] ∧ (u.spl x).m0 = p.m0 ∧ h.exited = g.exited ∧
                (∃ f, h.frames = g.frames ++ [f] ∧ f.ret = p.pc + 4 ∧ f.asid = g.asid ∧ f.dom = g.dom ∧ f.tbase = g.tbase ∧
                  f.tlast = g.tlast ∧ f.gidx = BitVec.ofNat 8 i ∧ f.xarg = e.xarg ∧ f.xres = e.xres ∧ f.larg = e.larg ∧
                  f.lwin = BitVec.ofNat 5 e.lwin ∧ f.fault = e.fault ∧ f.m0 = p.m0 ∧ f.m = g.m ∧ f.depth = p.depth ∧
                  f.stack = p.stack ∧ f.faulted = false ∧
                  ∀ r : BitVec 5, Map.getD 0 f.shadow r.toNat =
                    if r ≠ 0 ∧ (r = 4 ∨ e.xarg.getLsbD r.toNat = false) then g.x x.sp r else 0) ∧
                (∀ r : BitVec 5, r ≠ 0 → r ≠ 4 → h.x x.sp r = if e.xarg.getLsbD r.toNat then g.x x.sp r else 0) ∧
                h.x x.sp 4 = BitVec.ofNat 64 (x.c * 16 + x.sl * 4 + g.frames.length) ∧
                passes e.larg e.lwin h))))) ∧
    (g.frames = [] → fault .gret 10 0) ∧
    (∀ f, g.frames.getLast? = some f →
      (¬ quiet → exec .gret s = .next (s.parks s x .quiet)) ∧
      (quiet → ∃ u : State, exec .gret s = .next (u.finish x f.ret 1 false) ∧ SameMemory s u ∧
        let h := u.grp x
        h.dom = f.dom ∧ h.asid = f.asid ∧ h.tbase = f.tbase ∧ h.tlast = f.tlast ∧ h.frames = g.frames.dropLast ∧
        passes f.larg f.lwin.toNat h ∧ h.exited = g.exited ∧
        h.m = f.m ∧ (u.spl x).m0 = f.m0 ∧ (u.spl x).depth = f.depth ∧ (u.spl x).stack = f.stack ∧
        (∀ r : BitVec 5, r ≠ 0 → h.x x.sp r =
          if r ≠ 4 ∧ f.xres.getLsbD r.toNat = true then g.x x.sp r
          else if r ≠ 4 ∧ f.xarg.getLsbD r.toNat = true then 0 else Map.getD 0 f.shadow r.toNat))))

/-- 17 R343: GABORT: its result for a target that is none, is in no frame or may not be aborted, and the unwinding of a frozen or halted
target, whose caller goes on after its GATE with -1 in x10 and the code in x11. U-mode may not execute it. -/
def gateAborts : Prop :=
  ∀ (s : State) (x : Ctx) (rd rs1 rs2 : BitVec 5),
    let v := s.x x rs1
    let sl := (v.extractLsb' 18 3).toNat
    let code := s.x x rs2
    (IssuesEng s x 6 [rd, rs1, rs2] → (s.spl x).mode = .s →
      (coreOf (v.extractLsb' 0 18) = none → exec (.gabort rd rs1 rs2) s = .next (s.doneX x rd 1)) ∧
      (∀ c, coreOf (v.extractLsb' 0 18) = some c → 3 < sl ∨ s.group c sl = none →
        exec (.gabort rd rs1 rs2) s = .next (s.doneX x rd 1)) ∧
      (∀ c t, coreOf (v.extractLsb' 0 18) = some c → sl ≤ 3 → s.group c sl = some t → (s.unit t.unit).saving = false →
        (t.frames = [] → exec (.gabort rd rs1 rs2) s = .next (s.doneX x rd 2)) ∧
        (∀ f, t.frames.getLast? = some f → (t.frozen ≠ none ∨ t.halted = true) → (c ≠ x.c ∨ sl ≠ x.sl) →
          t.splits.all (fun e => (s.core c).quiet sl e.1 e.2) = true →
          ∃ (u : State) (h : Group), exec (.gabort rd rs1 rs2) s = .next (s.doneX' x rd 0 u) ∧ u.group c sl = some h ∧
            h.frames = t.frames.dropLast ∧ h.dom = f.dom ∧ h.asid = f.asid ∧ h.frozen = none ∧
            h.x h.gateSplit 10 = BitVec.allOnes 64 ∧ h.x h.gateSplit 11 = code ∧ (h.split h.gateSplit).pc = f.ret) ∧
        (∀ f, t.frames.getLast? = some f → t.frozen = none → t.halted = false → (c ≠ x.c ∨ sl ≠ x.sl) →
          exec (.gabort rd rs1 rs2) s = .next (s.doneX x rd 3)))) ∧
    (IssuesDev s x [rd, rs1, rs2] [] → (s.spl x).mode = .u →
      exec (.gabort rd rs1 rs2) s = .next (s.traps x 2 ((encodeWord (.gabort rd rs1 rs2)).setWidth 64)))

/-! ## Messages, tasks, forks (14) -/

/-- 14 R275, R286-R288: MSEND, MCHAN on a core whose channels are the unit's, and HEND. -/
def messages : Prop :=
  ∀ (s : State) (x : Ctx) (rd rs1 rs2 : BitVec 5),
    let g := s.grp x
    let k := s.core x.c
    let w := s.slot x.c x.sl
    let d := s.x x rs1
    let v := s.x x rs2
    let n : BitVec 3 := v.extractLsb' 0 3
    (IssuesEng s x 3 [rd, rs1, rs2, rs2 + 1, rs2 + 2, rs2 + 3] → rs2 ≠ 0 → rs2.toNat % 4 = 0 →
      (d.extractLsb' 3 3 ≠ 4#3 ∨ tagCoord (d.extractLsb' 0 24) = none →
        exec (.msend rd rs1 rs2) s = .next (s.traps x 28 d)) ∧
      (d.extractLsb' 3 3 = 4#3 → tagCoord (d.extractLsb' 0 24) ≠ none →
        (8 ≤ w.sends → exec (.msend rd rs1 rs2) s = .next (s.doneX x rd (BitVec.allOnes 64))) ∧
        (w.sends < 8 → ∃ (t : State) (m : Mail),
          exec (.msend rd rs1 rs2) s = .next (s.doneX' x rd (w.seq.setWidth 64) t) ∧ t.mails = s.mails ++ [m] ∧
          m.refusal = false ∧ m.id = s.nextId ∧ m.msg.tag = d.extractLsb' 0 24 ∧
          m.msg.hdr.extractLsb' 48 16 = d.extractLsb' 48 16 ∧ m.msg.hdr.extractLsb' 32 16 = w.seq ∧
          m.msg.hdr.extractLsb' 26 2 = 0#2 ∧
          m.msg.hdr.extractLsb' 0 24 = coordOf x.c ++ BitVec.ofNat 3 x.sl ++ d.extractLsb' 24 3 ∧
          m.msg.pay = [s.x x rs2, s.x x (rs2 + 1), s.x x (rs2 + 2), s.x x (rs2 + 3)] ∧
          (t.slot x.c x.sl).seq = w.seq + 1 ∧ (t.slot x.c x.sl).sends = w.sends + 1 ∧ t.grp x = g ∧ SameMemory s t))) ∧
    (IssuesEng s x 3 [rd, rs1, rs2] →
      (k.chanUnit ≠ some g.unit → exec (.mchan rd rs1 rs2) s = .next (s.doneX x rd (BitVec.allOnes 64))) ∧
      (k.chanUnit = some g.unit → ∃ h : Core,
        exec (.mchan rd rs1 rs2) s = .next (s.doneX' x rd ((coreTag x.c 4 n).setWidth 64) (s.setCore x.c h)) ∧
        h = { k with channels := h.channels } ∧ (∀ m, m ≠ n.toNat → h.channel m = k.channel m) ∧
        (h.channel n.toNat).mailbox = (k.channel n.toNat).mailbox ∧
        (h.channel n.toNat).bound = (if v.getLsbD 16 then false else if d ≠ 0 then true else (k.channel n.toNat).bound) ∧
        (v.getLsbD 16 = false → d ≠ 0 → (h.channel n.toNat).handler = d &&& ~~~3#64) ∧
        (h.channel n.toNat).prio = (if v.getLsbD 7 then v.extractLsb' 4 3 else (k.channel n.toNat).prio) ∧
        (h.channel n.toNat).depth =
          (if v.extractLsb' 8 5 = 0#5 then (k.channel n.toNat).depth else min (v.extractLsb' 8 5).toNat 16))) ∧
    (IssuesEng s x 3 [] → LastWord s x → x.handler = true →
      ∃ t : State, exec .hend s = .next t ∧ (t.slot x.c x.sl).activation = none ∧ (t.core x.c).issuing = none ∧
        (t.grp x).y = g.y ∧ (t.grp x).v = g.v ∧ (t.grp x).instret = g.instret + 1 ∧ SameMemory s t) ∧
    (IssuesEng s x 3 [] → LastWord s x → x.handler = false →
      exec .hend s = .next (s.traps x 2 ((encodeWord .hend).setWidth 64)))

/-- 14 R281, R289-R291: SPAWN to a deque, to a waiting thief or refused; STEAL from the own deque and from another core; TDONE. -/
def deques : Prop :=
  ∀ (s : State) (x : Ctx) (rd rs1 rs2 : BitVec 5),
    let g := s.grp x
    let k := s.core x.c
    let w := s.slot x.c x.sl
    (IssuesEng s x 3 [rd, rs1, rs2] →
      (k.dequeUnit ≠ some g.unit → exec (.spawn rd rs1 rs2) s = .next (s.doneX x rd 1)) ∧
      (k.dequeUnit = some g.unit → k.stealBox = none →
        (k.deque.length < 64 → exec (.spawn rd rs1 rs2) s = .next (s.doneX' x rd 0
          (s.setCore x.c { k with deque := k.deque ++ [{ fn := s.x x rs1, arg := s.x x rs2, tenq := s.time }] }))) ∧
        (64 ≤ k.deque.length → exec (.spawn rd rs1 rs2) s = .next (s.doneX x rd 1))) ∧
      (∀ id, k.dequeUnit = some g.unit → k.stealBox = some id →
        ∃ t : State, exec (.spawn rd rs1 rs2) s = .next (s.doneX' x rd 2 t) ∧ (t.core x.c).stealBox = none ∧
          (t.core x.c).deque = k.deque ∧
          ∀ f ∈ t.flights, f.id = id → f.answer = some [s.x x rs1, s.x x rs2, s.time])) ∧
    (IssuesEng s x 3 [rd, rd + 1, 0, rs2] → rd.toNat % 2 = 0 → rd ≠ 0 →
      (∀ t : Task, k.dequeUnit = some g.unit → k.deque.getLast? = some t →
        ∃ u : State, exec (.steal rd 0 rs2) s = .next (s.done ((u.setX x rd t.fn).setX x (rd + 1) t.arg) x 1) ∧
          (u.core x.c).deque = k.deque.dropLast ∧ (u.slot x.c x.sl).tvalid = true ∧ (u.slot x.c x.sl).tdeq = s.time ∧
          (u.slot x.c x.sl).tenq = t.tenq ∧ u.grp x = g) ∧
      (k.dequeUnit ≠ some g.unit ∨ k.deque = [] →
        exec (.steal rd 0 rs2) s = .next (s.done ((s.setX x rd 0).setX x (rd + 1) 0) x 1))) ∧
    (IssuesEng s x 3 [rd, rd + 1, rs1, rs2] → rd.toNat % 2 = 0 → rd ≠ 0 → rs1 ≠ 0 → ∀ c,
      coreOf ((s.x x rs1).extractLsb' 0 18) = some c →
      let lim := (s.x x rs2).toNat % 65536
      let what : Errand := .steal c (if lim = 0 then 65536 else lim)
      (s.parkedErrand x (s.spl x) what = none → x.handler = false →
        exec (.steal rd rs1 rs2) s = .next (s.parks (s.ask x what rd) x (.answer s.nextId))) ∧
      (∀ f fn arg t, s.parkedErrand x (s.spl x) what = some f → f.arrived = true → f.answer = some [fn, arg, t] →
        s.group x.c x.sl = some g →
        ∃ u : State, exec (.steal rd rs1 rs2) s = .next (s.done u x 1) ∧ u.flights = (s.dropFlight f.id).flights ∧
          (u.grp x).x x.sp rd = fn ∧ (u.grp x).x x.sp (rd + 1) = arg)) ∧
    (IssuesEng s x 3 [rd] →
      (w.tvalid = false → exec (.tdone rd) s = .next (s.doneX x rd 0)) ∧
      (w.tvalid = true → ∃ t : State, exec (.tdone rd) s = .next (s.doneX' x rd (s.time - w.tdeq) t) ∧
        (t.slot x.c x.sl).tvalid = false ∧ (t.core x.c).tasks = satInc k.tasks ∧
        (t.core x.c).runTicks = addSat64 k.runTicks (s.time - w.tdeq) ∧ (t.core x.c).deque = k.deque ∧ t.grp x = g))

/-- 14 R283, R284, R292, R293, 04 R77, R78: RFORK with and without recruits, and JOIN of a handle that names no cell, of a participant
that is not the last, and of the forker that is. That a recruit has its forker's group index (log 10), and that a JOIN by a split that is neither
the forker's nor a recruit's acts as a recruit's (log 22), are the model's choices. -/
def rangeForks : Prop :=
  ∀ (s : State) (x : Ctx) (rd rs1 : BitVec 5), x.handler = false →
    let g := s.grp x
    let p := s.spl x
    let a := (s.x x rs1).toNat % 2 ^ 32
    (IssuesEng s x 3 [rd, rd + 1, rs1] → rd.toNat % 2 = 0 → rd ≠ 0 → a % 32 = 0 → ∀ b b',
      (s.own x).localByte a = some b → (s.own x).localByte (a + 31) = some b' → s.linePresent (b / 64) = true →
      (s.core x.c).released x.sl x.sp = true →
      let d := s.scratch.bytes b 32
      let count := fieldAt d 24 4
      let want := min (ceilDiv count (max (fieldAt d 28 2) 1) - 1) (fieldAt d 30 1 % 64)
      let cs := s.recruitCores x.c want
      (want = 0 ∨ s.freeCell (flockOf x.c) = none ∨ cs = [] →
        exec (.rfork rd rs1) s = .next (s.done ((s.setX x rd (BitVec.ofNat 64 count)).setX x (rd + 1) 0) x 1)) ∧
      (∀ cell, want ≠ 0 → s.freeCell (flockOf x.c) = some cell → cs ≠ [] → x.c ∉ cs →
        let n := cs.length + 1
        let h := joinHandle n x.c cell
        ∃ t : State, exec (.rfork rd rs1) s =
            .next (s.done ((t.setX x rd (BitVec.ofNat 64 (count / n))).setX x (rd + 1) h) x 1) ∧
          Map.find t.joins (flockOf x.c * 64 + cell) = some {
            unit := g.unit, named := flockOf x.c * 64 + cell, cont := (wordAt d 8).setWidth 48, count := n
            ocore := x.c, oslot := x.sl } ∧
          ∀ c ∈ cs, ∃ r, t.group c 0 = some r ∧ r.recruit = some h ∧ r.index = g.index ∧ (r.split 0).pc = wordAt d 0 ∧
            r.x 0 10 = wordAt d 16 ∧ r.x 0 13 = h)) ∧
    (IssuesEng s x 3 [rs1] → LastWord s x →
      let h := s.x x rs1
      let key := (coreOf (h.extractLsb' 8 14 ++ 0#4)).map (fun c => flockOf c * 64 + (h.extractLsb' 0 6).toNat)
      (h.getLsbD 22 = false → exec (.join rs1) s = .next (s.done s x 1)) ∧
      (h.getLsbD 22 = true → p.joined = none →
        (key.bind (s.namedCell g.unit) = none → exec (.join rs1) s = .next (s.traps x 28 h)) ∧
        (∀ k j, key.bind (s.namedCell g.unit) = some (k, j) → j.unit = g.unit →
          (s.core x.c).released x.sl x.sp = true →
          let left : State := { s with joins := Map.put s.joins k { j with count := j.count - 1 } }
          let forker : Prop := j.ocore = x.c ∧ j.oslot = x.sl
          (1 < j.count → forker → exec (.join rs1) s =
            .next (s.parks (left.setSpl x { p with joined := some k }) x .event)) ∧
          (1 < j.count → ¬ forker → s.group x.c x.sl ≠ none → ∃ t : State, exec (.join rs1) s = .next t ∧
            t.group x.c x.sl = none ∧ Map.find t.joins k = some { j with count := j.count - 1 }) ∧
          (j.count ≤ 1 → forker → exec (.join rs1) s = .next
            (({ s with joins := Map.del s.joins k }.dropL1 x.c g.asid).finish x (j.cont.setWidth 64) 1 false)))))

/-- 14 R285, R294-R296: DEPDEC, LAUNCH and CANCEL are sent, and their result is outstanding; CANCEL parks until it is answered and then
completes with the answer. -/
def errands : Prop :=
  ∀ (s : State) (x : Ctx) (rd rs1 rs2 : BitVec 5),
    let a := s.x x rs1
    let b := s.x x rs2
    (IssuesEng s x 4 [rd, rs1] →
      (a.extractLsb' 0 3 ≠ 0#3 → exec (.depdec rd rs1) s = .next (s.traps x 6 a)) ∧
      (a.extractLsb' 0 3 = 0#3 → (s.spl x).mode = .u →
        exec (.depdec rd rs1) s = .next (s.done (s.askFor x (.depdec a none) rd) x 1)) ∧
      (a.extractLsb' 0 3 = 0#3 → (s.spl x).mode = .s →
        (∀ pl at_, s.translate (s.grp x).asid a .write .s (sumBit (s.grp x)) (mxrBit (s.grp x)) = .ok pl at_ →
          exec (.depdec rd rs1) s = .next (s.done (s.askFor x (.depdec a (some pl)) rd) x 1)) ∧
        ((∀ pl at_, s.translate (s.grp x).asid a .write .s (sumBit (s.grp x)) (mxrBit (s.grp x)) ≠ .ok pl at_) →
          exec (.depdec rd rs1) s = .next (s.traps x 15 a)))) ∧
    (IssuesEng s x 4 [rd, rs1, rs2] →
      exec (.launch rd rs1 rs2) s = .next (s.done (s.askFor x (.launch a b) rd) x 1) ∧
      ((s.spl x).mode = .s →
        (s.parkedErrand x (s.spl x) (.cancel a b) = none → x.handler = false → exec (.cancel rd rs1 rs2) s =
          .next (s.parks (s.ask x (.cancel a b) rd) x (.answer s.nextId))) ∧
        (∀ f v vs, s.parkedErrand x (s.spl x) (.cancel a b) = some f → f.arrived = true → f.answer = some (v :: vs) →
          exec (.cancel rd rs1 rs2) s = .next (s.doneX' x rd v (s.dropFlight f.id))))) ∧
    (IssuesDev s x [rd, rs1, rs2] [] → (s.spl x).mode = .u →
      exec (.cancel rd rs1 rs2) s = .next (s.traps x 2 ((encodeWord (.cancel rd rs1 rs2)).setWidth 64)))

/-- 14 R276-R285, R290: the events of messages, tasks and results. -/
def taskEvents : Prop :=
  ∀ (s : State) (n : Nat),
    (∀ m : Mail, s.mails.find? (fun m => m.id = n && !m.refusal) = some m →
      (∀ o ∈ s.mails, o.refusal = false → o.id < n → ¬ (o.msg.core = m.msg.core ∧ o.msg.slot = m.msg.slot ∧ o.msg.tag = m.msg.tag)) →
      (s.core m.msg.core).earlierDone m.msg.slot n = true → ∀ c, tagCoord m.msg.tag = some c →
      let ch : BitVec 3 := m.msg.tag.extractLsb' 0 3
      let box (k : Core) : List Msg := (k.channel ch.toNat).mailbox
      (s.ownsChannels c m.msg.job = true → ((s.core c).channel ch.toNat).bound = true →
        (box (s.core c)).length < ((s.core c).channel ch.toNat).depth →
        ∃ t, exec (.messageArrival n) s = .next t ∧ box (t.core c) = box (s.core c) ++ [m.msg] ∧
          ∀ o, o ∈ t.mails ↔ o ∈ s.mails ∧ o.id ≠ n) ∧
      (s.ownsChannels c m.msg.job = false ∨ ((s.core c).channel ch.toNat).bound = false →
        ∃ t o, exec (.messageArrival n) s = .next t ∧ t.cores = s.cores ∧ o ∈ t.mails ∧ o.refusal = true ∧
          o.msg.hdr.extractLsb' 26 2 = 2#2 ∧ o.msg.pay = m.msg.pay)) ∧
    (∀ m : Mail, s.mails.find? (fun m => m.id = n && m.refusal) = some m →
      (((s.core m.msg.core).chanUnit ≠ some m.msg.unit ∨ ((s.core m.msg.core).channel m.msg.reply.toNat).bound = false) →
        (∀ u, Map.find s.units m.msg.unit = some u → ∃ t, exec (.refusalArrival n) s = .next t ∧
          t.unit m.msg.unit = u.absorb m.msg.core ⟨flagMsgdrop, 0, s.cycle⟩) ∧
        (Map.find s.units m.msg.unit = none → ∃ t, exec (.refusalArrival n) s = .next t ∧ t.units = s.units)) ∧
      ((s.core m.msg.core).chanUnit = some m.msg.unit → ((s.core m.msg.core).channel m.msg.reply.toNat).bound = true →
        ∃ t, exec (.refusalArrival n) s = .next t ∧
          (t.slot m.msg.core m.msg.slot).refusals =
            (s.slot m.msg.core m.msg.slot).refusals ++ [(m.msg.reply, { m.msg with arr := s.nextId })])) ∧
    (∀ (c u i : Nat) (g : Group) (m : Msg) (r : List Msg),
      (s.core c).chanUnit = some u → (s.slot c 4).group = some g → (s.slot c 4).activation = none →
      (s.core c).nextChannel = some i → (s.core c).refusalFor (BitVec.ofNat 3 i) = none →
      ((s.core c).channel i).mailbox = m :: r → (s.unit u).saving = false → (s.unit u).ended = false →
      (s.unit u).halted = false → g.halted = false →
      ∃ t h, exec (.activationStart c) s = .next t ∧ (t.slot c 4).activation = some (BitVec.ofNat 3 i) ∧
        (t.slot c 4).group = some h ∧ (h.split 0).pc = ((s.core c).channel i).handler ∧ (h.split 0).mode = .u ∧
        h.x 0 10 = m.hdr ∧ (∀ j, j < 4 → h.x 0 (BitVec.ofNat 5 (11 + j)) = m.pay.getD j 0) ∧
        h.x 0 15 = BitVec.ofNat 64 i ∧ h.x 0 16 = BitVec.ofNat 64 (s.unit u).index ∧ h.x 0 17 = (s.unit u).param ∧
        ((t.core c).channel i).mailbox = r) ∧
    (∀ (f : Flight) (v lim u : Nat), s.flight n = some f → f.what = .steal v lim → f.posted = false → f.answer = none →
      (s.core v).stealBox = none → (s.core v).dequeUnit = some u → (s.unit u).job = f.job → (s.unit u).saving = false →
      (s.unit u).ended = false →
      ∃ t, exec (.stealRequestArrival n) s = .next t ∧ (t.core v).stealBox = some n) ∧
    (∀ (c lim v : Nat) (f : Flight), (s.core c).stealBox = some n → s.flight n = some f → f.what = .steal v lim →
      ∃ t, exec (.stealTimeout c) s = .next t ∧ (t.core c).stealBox = none ∧ f.since.toNat + lim ≤ t.cycle / 6 ∧
        ∀ h ∈ t.flights, h.id = n → h.answer = some [0, 3]) ∧
    (∀ (f : Flight) (v lim : Nat) (g : Group) (a b c : Word64), s.flight n = some f → f.what = .steal v lim →
      f.answer = some [a, b, c] → f.after = none → s.parkedOn f = true → s.group f.core f.slot = some g →
      (∀ k, k ≠ f.split → g.uses k = false) → f.rd.toNat % 2 = 0 → f.rd ≠ 0 →
      ∃ t h, exec (.stealAnswer n) s = .next t ∧ t.group f.core f.slot = some h ∧ h.x f.split f.rd = a ∧
        h.x f.split (f.rd + 1) = b ∧ (h.split f.split).wake = none ∧ (h.split f.split).pc = (g.split f.split).pc + 4 ∧
        (t.slot f.core f.slot).tvalid = true ∧ (t.slot f.core f.slot).tenq = c ∧ ∀ e ∈ t.flights, e.id ≠ n) ∧
    (∀ (f : Flight) (desc ctl : Word64), s.flight n = some f → f.what = .launch desc ctl →
      (s.core f.core).earlierDone f.slot n = true →
      let r := s.enqueue f.job desc ctl
      exec (.engineResultReturn n) s = .next ((r.1.dropFlight n).landPend f.core f.slot n r.2)) ∧
    (∀ (c sl sp k : Nat) (g : Group) (p : Split) (q : Pend) (v : Word64), s.group c sl = some g →
      g.findPend (fun q => q.val.isSome && q.bank = sp) = some (k, p, q) → q.val = some v →
      ∃ h, exec (.divRemResultReturn c sl sp) s = .next (s.setGroup c sl h) ∧
        (q.rd ≠ 0 → h.x sp q.rd = v) ∧ (∀ j r, ¬ (j = sp ∧ r = q.rd) → j < 4 → sp < 4 → h.x j r = g.x j r) ∧
        (h.split k).pend = p.pend.erase q ∧ h.v = g.v ∧ h.m = g.m)

/-! ## Conflict batching (15) -/

/-- 15 R301: a batch is taken in the order of the window, names no body twice and none that an outstanding batch holds; when it has room
left, every record left in the window conflicts. -/
def disjointBatches : Prop :=
  ∀ (occ : List (BitVec 24)) (c : Nat) (rs : List (BitVec 128)),
    let q := pickBatch occ c rs
    q.1.length ≤ c ∧ q.1.Sublist rs ∧ q.2.2.Sublist rs ∧ q.1.length + q.2.2.length = rs.length ∧
    q.2.1 = q.1.flatMap recBodies ∧ (∀ r ∈ q.1, ∀ b ∈ recBodies r, b ∉ occ) ∧
    q.1.Pairwise (fun r t => ∀ b ∈ recBodies r, b ∉ recBodies t) ∧
    (q.1.length < c → ∀ r ∈ q.2.2, ∃ b ∈ recBodies r, b ∈ occ ++ q.2.1)

/-- 15 R302, R309-R313: the Sheepdog instructions send their operation; a second CBTAKE before CBDONE, and a CBDONE without a batch, are
misuse. -/
def sheepdogInstructions : Prop :=
  ∀ (s : State) (x : Ctx) (rd rs1 rs2 : BitVec 5) (md : Option Word32) (vd : BitVec 6) (k : BitVec 3),
    let g := s.grp x
    let idle : Prop := s.sheepIdle x.c x.sl = true
    let batch : Prop := s.holdsBatch x = true
    let a := (s.x x rs1).toNat % 2 ^ 32
    let n := (s.x x rs2).toNat % 128
    let byte (i : Nat) : Nat := ((s.own x).localByte (a + 16 * i)).getD 0
    let recs := (List.range n).map (fun i => BitVec.ofNat 128 (leValue (s.scratch.bytes (byte i) 16)))
    let op : BitVec 2 := (s.x x rs1).extractLsb' 0 2
    let act := g.active x.sp
    let c0 := (s.x x rs1).toNat % 64
    let cap := min (if c0 = 0 then g.lanesSeen else c0) act.length
    (IssuesEng s x 5 [rd, rs1, rs2] →
      (1 ≤ n → n ≤ 64 → a % 16 = 0 → (∀ i, i < n → ((s.own x).localByte (a + 16 * i)).isSome = true) →
        ((s.own x).localByte (a + 16 * n - 1)).isSome = true → (∀ i, i < n → s.linePresent (byte i / 64) = true) →
        (s.core x.c).storesDone x.sl = true → (∀ r ∈ recs, recBodies r ≠ []) →
        exec (.cbpush rd rs1 rs2) s = .next (s.done (s.askFor x (.push recs) rd) x (1 + n))) ∧
      (n = 0 ∨ 64 < n → exec (.cbpush rd rs1 rs2) s =
        .next (s.traps x 2 ((encodeWord (.cbpush rd rs1 rs2)).setWidth 64)))) ∧
    (IssuesEng s x 5 [rd] → x.handler = false →
      (¬ idle → exec (.cbdone rd) s = .next (s.parks s x .sheepIdle)) ∧
      (idle → ¬ batch → exec (.cbdone rd) s = .next (s.traps x 29 2)) ∧
      (idle → batch → exec (.cbdone rd) s = .next (s.done (s.askFor x .done rd) x 1))) ∧
    (IssuesEng s x 5 [rd, rs1] →
      (op = 1 ∨ op = 3 → exec (.cbflush rd rs1) s = .next (s.done (s.askFor x (.flush op) rd) x 1)) ∧
      (op = 0 ∨ op = 2 → x.handler = false →
        (s.parkedErrand x (s.spl x) (.flush op) = none → exec (.cbflush rd rs1) s =
          .next (s.parks (s.ask x (.flush op) rd) x (.answer s.nextId))) ∧
        (∀ f v vs, s.parkedErrand x (s.spl x) (.flush op) = some f → f.arrived = true → f.answer = some (v :: vs) →
          exec (.cbflush rd rs1) s = .next (s.doneX' x rd v (s.dropFlight f.id))))) ∧
    (IssuesLane s x shBare md [rs1] [vd, vd + 1, vd + 2, vd + 3, vd + 4] → vd.toNat + 4 < 64 → ClauseTakes s x 5 → Ungated s x → md.getD 0 = 0 →
      x.handler = false →
      let t (u : State) : Result := .next (u.finish x ((s.spl x).pc + laneLen md) (laneCycles g none) false)
      (idle → batch → exec (.cbtake md vd k rs1) s = .next (s.traps x 29 1)) ∧
      (idle → ¬ batch → cap = 0 → exec (.cbtake md vd k rs1) s = t s) ∧
      (idle → ¬ batch → cap ≠ 0 →
        exec (.cbtake md vd k rs1) s = t (s.askFor x (.take cap act (s.spl x).m0 vd k) 0)))

/-- 15 R302, R306, R310-R312: an operation at the Sheepdog of its die, and the answer at its group. -/
def sheepdogEvents : Prop :=
  ∀ (s : State) (n : Nat) (f : Flight), s.flight n = some f →
    let d := dieOf f.core
    let h := (s.die d).sheep
    let first : Prop := ∀ g ∈ s.flights, ¬ (g.sameIssuer f = true ∧ g.what.sheep = true ∧ g.answer = none ∧ g.posted = false ∧
      g.id < f.id)
    let lander (g : Group) : Nat := ((g.findPend (fun q => q.id = f.id)).map Prod.fst).getD f.split
    let early : Prop := (s.core f.core).earlierDone f.slot f.id = true
    let answered (t : State) (vs : List Word64) : Prop := ∀ g ∈ t.flights, g.id = f.id → g.answer = some vs
    (f.answer = none → first →
      (∀ recs, f.what = .push recs → early → (h.owner = none ∨ h.owner = some f.unit) →
        (s.unit f.unit).ended = false →
        let m := min recs.length (1024 - h.window.length)
        ∃ t, exec (.sheepdogArrival n) s = .next t ∧ (t.die d).sheep.window = h.window ++ recs.take m ∧
          (t.die d).sheep.owner = some f.unit ∧ answered t [BitVec.ofNat 64 m]) ∧
      (∀ recs u, f.what = .push recs → early → h.owner = some u → u ≠ f.unit →
        ∃ t, exec (.sheepdogArrival n) s = .next t ∧ t.dies = s.dies ∧ answered t [BitVec.allOnes 64]) ∧
      (∀ c ls m0 vd k, f.what = .take c ls m0 vd k → s.group f.core f.slot ≠ none → h.owner = some f.unit →
        let q := h.take c (f.core * 8 + f.slot)
        ∃ t, exec (.sheepdogArrival n) s = .next t ∧ (t.die d).sheep.window = q.1.window ∧
          (t.die d).sheep.batches = q.1.batches ∧ answered t [] ∧ ∀ g ∈ t.flights, g.id = f.id → g.batch = q.2) ∧
      (f.what = .done → early →
        ∃ t v, exec (.sheepdogArrival n) s = .next t ∧ answered t [v] ∧
          ∀ b, b ∈ (t.die d).sheep.batches ↔ b ∈ h.batches ∧ b.holder ≠ f.core * 8 + f.slot) ∧
      (∀ op, f.what = .flush op → op = 3 → h.owner = some f.unit →
        ∃ t, exec (.sheepdogArrival n) s = .next t ∧ t.dies = s.dies ∧
          answered t [BitVec.ofNat 64 (h.sweeps.toNat * 2 ^ 32 + h.batches.length * 2 ^ 11 + h.window.length)])) ∧
    (∀ recs v, f.what = .push recs → f.answer = some [v] →
      exec (.sheepdogAnswer n) s = .next ((s.dropFlight f.id).landPend f.core f.slot f.id v)) ∧
    (∀ c ls m0 vd k g, f.what = .take c ls m0 vd k → f.answer = some [] → f.batch = [] → s.group f.core f.slot = some g →
      g.uses (lander g) = true →
      ∃ h : Group, exec (.sheepdogAnswer n) s =
          .next (((s.dropFlight f.id).setGroup f.core f.slot h).landPend f.core f.slot f.id 0) ∧ h.v = g.v ∧
        (k ≠ 0 → h.rawMask (lander g) k = g.rawMask (lander g) k &&& ~~~m0)) ∧
    (∀ c ls m0 vd k g, f.what = .take c ls m0 vd k → f.answer = some [] → f.batch ≠ [] → s.group f.core f.slot = some g →
      g.uses (lander g) = true → ls.Nodup → (∀ l ∈ ls, l < 32) → vd.toNat + 4 < 64 →
      ∃ h : Group, exec (.sheepdogAnswer n) s =
          .next ((((s.dropFlight f.id).setGroup f.core f.slot h).dropL1 f.core g.asid).landPend f.core f.slot f.id 0) ∧
        ∀ l r, (l, r) ∈ ls.zip f.batch → h.v32 vd l = r.setWidth 32 ∧
          ∀ i, i < 4 → h.v32 (vd + 1 + BitVec.ofNat 6 i) l = recBody r i)

/-! ## Kernel images and the code heap (01 R18-R20, 05 R79-R86) -/

/-- 01 R20: loading an image into a registered job answers the code of the first check that fails and changes nothing else; where
all pass, the job has the kernel under a new handle, its text is in the extent chosen, and the job's generation is one more.
Nothing loads before the executive runs (22 R411). -/
def imageLoads : Prop :=
  ∀ (job : BitVec 16) (img : List Byte) (s : State), s.registered job = true → s.power.exec = true →
    (∀ c, s.loadPlan job img = .error c → exec (.imageLoad job img) s = .next { s with reply := [BitVec.ofNat 64 c] }) ∧
    (∀ off len, s.loadPlan job img = .ok (off, len) →
      ∃ t : State, exec (.imageLoad job img) s = .next t ∧ t.reply = [0, BitVec.ofNat 64 s.nextId] ∧
        t.nextId = s.nextId + 1 ∧ Map.find t.kernels s.nextId = some (kernelOf job img off) ∧
        (t.job job).gen = (s.job job).gen + 1 ∧
        t.extents = s.extents ++ [({ job := job, asid := (s.job job).asid, off := off, len := len, text := (imageHdr img).textLen } : Extent)])

/-- 05 R85: replacing a kernel keeps its handle; with too few free forwarding entries the answer is code 11, and a failed load
check answers its code, with no effect in either case. That code 11 comes before the load checks is the model's choice (log 10). -/
def kernelReplacements : Prop :=
  ∀ (handle : Word64) (img : List Byte) (points : List (Nat × Nat)) (s : State) (k : Kernel),
    Map.find s.kernels handle.toNat = some k →
    (s.freeFwd.length < points.length →
      exec (.kernelReplace handle img points) s = .next { s with reply := [11] }) ∧
    (points.length ≤ s.freeFwd.length →
      (∀ c, s.loadPlan k.job img = .error c →
        exec (.kernelReplace handle img points) s = .next { s with reply := [BitVec.ofNat 64 c] }) ∧
      (∀ off len, s.loadPlan k.job img = .ok (off, len) →
        ∃ t : State, exec (.kernelReplace handle img points) s = .next t ∧ t.reply = [0, handle] ∧
          Map.find t.kernels handle.toNat = some (kernelOf k.job img off) ∧
          (t.job k.job).gen = (s.job k.job).gen + 1 ∧ t.nextId = s.nextId))

/-- 05 R84, R86: compaction into free, page-aligned ranges advances the job's generation once, whatever the number of ranges, and a moved
kernel keeps its handle; a superseded extent is reclaimed only when no group of an older generation is left and no launch leases a page
of it (03 R58). That a compaction whose ranges do not fit has no effect, and that it advances the generation once, is the model's choice
(log 10). -/
def compactionAndReclaim : Prop :=
  (∀ (job : BitVec 16) (old new len : List Nat) (s : State),
    let moves := old.zip (new.zip len)
    (s.registered job = true → (s.job job).gen ≠ BitVec.allOnes 32 → s.movesFit job moves = true →
      moves.length ≤ s.freeFwd.length →
      ∃ t : State, exec (.heapCompaction job old new len) s = .next t ∧ (t.job job).gen = (s.job job).gen + 1 ∧
        t.reply = s.reply ∧ t.nextId = s.nextId ∧ t.kernels.map Prod.fst = s.kernels.map Prod.fst ∧ t.units = s.units) ∧
    (s.registered job = false ∨ (s.job job).gen = BitVec.allOnes 32 ∨ s.movesFit job moves = false ∨
      s.freeFwd.length < moves.length → exec (.heapCompaction job old new len) s = .next s)) ∧
  (∀ (job : BitVec 16) (old : BitVec 28) (s : State) (e : Extent),
    s.extents.find? (fun x => x.job = job && x.off = old.toNat && x.old.isSome) = some e →
    (s.olderGroup job (e.old.getD 0) = true ∨ s.extentLeased e = true → exec (.textReclaim job old) s = .next s) ∧
    (s.olderGroup job (e.old.getD 0) = false → s.extentLeased e = false →
      ∃ t : State, exec (.textReclaim job old) s = .next t ∧ t.extents = s.extents.filter (fun x => x ≠ e) ∧
        t.kernels = s.kernels ∧ t.jobs = s.jobs))

/-- 05 R81, R82: a forwarding table dword is written with its reserved bits 0 and the other dword kept, on its die alone. -/
def fwdWrites : Prop :=
  ∀ (die : BitVec 3) (idx : BitVec 10) (high : Bool) (v : Word64) (s : State),
    ∃ t : State, exec (.fwdTableWrite die idx high v) s = .next t ∧
      (∀ d, d ≠ die.toNat → t.die d = s.die d) ∧
      (∀ i, i ≠ idx.toNat → Map.getD 0 (t.die die.toNat).fwd i = Map.getD 0 (s.die die.toNat).fwd i) ∧
      (let e := Map.getD 0 (s.die die.toNat).fwd idx.toNat
       let f := Map.getD 0 (t.die die.toNat).fwd idx.toNat
       f.extractLsb' 0 64 = (if high then e.extractLsb' 0 64 else v &&& 0x0FFFFFFF0FFFFFFF) ∧
       f.extractLsb' 64 64 = if high then v &&& 0xCFFFFFFF0000FFFF else e.extractLsb' 64 64)

/-- 05 R82: a write to an idle icinv sets BUSY and starts the invalidation, a write to a busy one is ignored; when it completes,
BUSY clears and no line of the named pages is left in an instruction cache of the die. -/
def icacheInvalidation : Prop :=
  ∀ (die : BitVec 3) (s : State),
    (∀ v : Word64,
      ((s.die die.toNat).icinv.getLsbD 63 = true → exec (.icinvWrite die v) s = .next s) ∧
      ((s.die die.toNat).icinv.getLsbD 63 = false →
        exec (.icinvWrite die v) s = .next (s.setDie die.toNat { s.die die.toNat with
          icinv := (v &&& 0x0000FFFF0FFFFFFF) ||| 0x8000000000000000 }))) ∧
    ((s.die die.toNat).icinv.getLsbD 63 = true →
      ∃ t : State, exec (.icinvComplete die) s = .next t ∧ (t.die die.toNat).icinv.getLsbD 63 = false ∧
        (∀ e ∈ t.icache, e ∈ s.icache) ∧
        (let w := (s.die die.toNat).icinv
         let first := 0x7F0000000000 + 4096 * (w.toNat / 2 ^ 12 % 2 ^ 16)
         let n := if w.toNat % 2 ^ 12 = 0 then 4096 else w.toNat % 2 ^ 12
         ∀ (f : Nat) (va : Word64), f / 1280 = die.toNat → first ≤ va.toNat → va.toNat < first + 4096 * n →
           ∀ e ∈ t.icache, e.1 ≠ tagKey f (w.extractLsb' 32 16) va))

/-- The line d is in the instruction cache under a key. A flock whose 512 lines are all taken gives one of them up for it, and which one
the spec leaves open (00 Table 0.2, log 34); every other line stays. -/
def LineFilled (s t : State) (flock key : Nat) (d : List Byte) : Prop :=
  t = { s with icache := t.icache, freeCtr := t.freeCtr } ∧ Map.find t.icache key = some d ∧
    ∀ k, k ≠ key → Map.find t.icache k = Map.find s.icache k ∨
      (Map.find t.icache k = none ∧ inFlock flock k = true ∧ 512 ≤ (s.icache.filter (fun e => inFlock flock e.1)).length)

/-- 05 R79, R83: a miss of a split that fetches a word fills the line of its pc; a forwarded miss moves the pc and fills nothing. 18 R349:
a line that cannot be read is filled with zeros, once the error is counted. -/
def icacheFills : Prop :=
  ∀ (c sl sp : Nat) (s : State) (g : Group),
    s.group c sl = some g → g.uses sp = true → (g.split sp).wake = none →
    Map.find s.icache (tagKey (flockOf c) g.asid (g.split sp).pc) = none →
    (∀ pc, s.fetch c g (g.split sp).mode (g.split sp).pc = .redirect pc →
      exec (.icacheMissFill c sl sp) s = .next { s.setGroup c sl (g.setSplit sp { g.split sp with pc := pc }) with
        cycle := s.cycle + 8 }) ∧
    (∀ w pl at_, s.fetch c g (g.split sp).mode (g.split sp).pc = .word w →
      s.translate g.asid ((g.split sp).pc &&& ~~~63#64) .fetch (g.split sp).mode false false = .ok pl at_ →
      let key := tagKey (flockOf c) g.asid (g.split sp).pc
      (s.flawAt { c := c, sl := sl, sp := sp } pl true = none →
        ∃ t : State, exec (.icacheMissFill c sl sp) s = .next t ∧ LineFilled s t (flockOf c) key (s.readPlace pl 64)) ∧
      (∀ q, s.flawAt { c := c, sl := sl, sp := sp } pl true = some q →
        ∃ t : State, exec (.icacheMissFill c sl sp) s = .next t ∧
          LineFilled (s.meetFlaw { c := c, sl := sl, sp := sp } (g.split sp).pc pl false q) t (flockOf c) key (List.replicate 64 0)))

/-- Which splits an arbitration may choose (06 R122): a parked, frozen or halted one is none, nor one of a unit that is being saved, a
sibling of a split in a trap (16 R315), one in its stall window in native mode (05 R105), or one that waits at LJALR for a split id; any
other is, once the waits of the clause header at its pc are met. The handler slot has its splits only in an activation. -/
def eligibleSplits : Prop :=
  ∀ (s : State) (x : Ctx) (g : Group) (p : Split),
    let waits : Prop := p.wake ≠ none ∨ g.frozen ≠ none ∨ g.halted = true ∨ (s.unit g.unit).saving = true ∨
      (∃ k, g.trapped = some k ∧ k ≠ x.sp) ∨ (p.window = true ∧ s.native g p.pc = true) ∨
      (p.atLjalr = true ∧ g.freeIds x.sp = []) ∨ (x.sl = 4 ∧ (s.slot x.c x.sl).activation = none)
    (waits → s.eligible x g p = false) ∧
    (¬ waits → p.resume = true → p.crem ≠ 0 → s.eligible x g p = true) ∧
    (¬ waits → (p.resume = false ∨ p.crem = 0) → ∀ w, s.fetch x.c g p.mode p.pc = .word w →
      (clhWaits w = none → s.eligible x g p = true) ∧
      ∀ t cp st l, clhWaits w = some (t, cp, st, l) → s.eligible x g p = (s.core x.c).met x.sl x.sp t cp st l)

/-- A split of a core that an arbitration may choose. -/
def MayIssue (s : State) (c sl sp : Nat) (g : Group) : Prop :=
  sl ≤ 4 ∧ sp ≤ 3 ∧ s.group c sl = some g ∧ g.uses sp = true ∧ s.eligible { c := c, sl := sl, sp := sp } g (g.split sp) = true

/-- The effective priority of a split (06 R123, step 1): in the handler slot PRIO of its activation's channel, else that of the slot,
with one more where the aging counter has reached 64, at most 7. -/
def effective (s : State) (c sl sp : Nat) (g : Group) : Nat :=
  if sl = 4 then
    match (s.slot c 4).activation with
    | some ch => ((Map.find (s.core c).channels ch.toNat).getD {}).prio.toNat
    | none => 0
  else if 64 ≤ (g.split sp).aging then min 7 (g.prio.toNat + 1) else min 7 g.prio.toNat

/-- The turn of a slot: they are asked in order from the one after the slot that issued last, from slot 0 where none has (06 R123, step 3). -/
def turnOf (last : Option Nat) (sl : Nat) : Nat :=
  match last with
  | none => sl
  | some k => (sl + 4 - k % 5) % 5

/-- One split comes before another: by priority, then by the turn of its slot, then by the lower pc, then by the lower id (06 R123). -/
def Precedes (s : State) (c sl sp : Nat) (g : Group) (sl' sp' : Nat) (g' : Group) : Prop :=
  let last := (s.core c).lastSlot
  effective s c sl' sp' g' < effective s c sl sp g ∨
    (effective s c sl' sp' g' = effective s c sl sp g ∧ (turnOf last sl < turnOf last sl' ∨
      (sl = sl' ∧ ((g.split sp).pc.toNat < (g'.split sp').pc.toNat ∨ ((g.split sp).pc = (g'.split sp').pc ∧ sp < sp')))))

/-- What an arbitration leaves of the aging counters of a core: that of the winner is 0, that of every other split which may issue is one
more, and nothing else of the machine changes (06 R123). -/
def Aged (s t : State) (c sl sp : Nat) : Prop :=
  t = { s with cores := t.cores } ∧ (∀ c', c' ≠ c → t.core c' = s.core c') ∧
  t.core c = { s.core c with slots := (t.core c).slots } ∧
  ∀ sl' sp' g', MayIssue s c sl' sp' g' → t.spl { c := c, sl := sl', sp := sp' } =
    { g'.split sp' with aging := if sl' = sl ∧ sp' = sp then 0 else (g'.split sp').aging + 1 }

/-- 06 R123, 16 R324: with its slot free and none of its splits parked or behind a fence, a core that has no split which may issue stays
as it is; else the split that comes before all others wins. The losers age. The winner takes an interrupt that it can take, and else
has the issue slot, and its whole clause or what is left of it. While a split is at issue no other is chosen. -/
def arbitrations : Prop :=
  ∀ (c : Nat) (s : State),
    (∀ sl g, sl ≤ 4 → s.group c sl = some g → ∀ e ∈ g.splits, e.2.wake = none ∧ e.2.held = []) →
    ((s.core c).issuing ≠ none → exec (.issueArbitration c) s = .next s) ∧
    ((s.core c).issuing = none →
      ((∀ sl sp g, ¬ MayIssue s c sl sp g) → exec (.issueArbitration c) s = .next s) ∧
      ∀ sl sp g, MayIssue s c sl sp g →
        (∀ sl' sp' g', MayIssue s c sl' sp' g' → (sl', sp') ≠ (sl, sp) → Precedes s c sl sp g sl' sp' g') →
        let p := g.split sp
        let rest := p.resume = true ∧ p.crem ≠ 0
        ∃ a t : State, exec (.issueArbitration c) s = .next t ∧ Aged s a c sl sp ∧
          (∀ i md, sl ≠ 4 → ¬ rest → s.takeable c sl p = some (i, md) → t = a.takeTrap c sl sp i true 0 p.pc 0) ∧
          (sl = 4 ∨ rest ∨ s.takeable c sl p = none →
            t = { a with cores := t.cores } ∧ (∀ c', c' ≠ c → t.core c' = a.core c') ∧
            (t.core c).issuing = some (sl, sp) ∧ (t.core c).lastSlot = some sl ∧
            t.spl { c := c, sl := sl, sp := sp } = { a.spl { c := c, sl := sl, sp := sp } with
              left := if p.resume then p.crem else 0
              engc := if p.resume && p.crem ≠ 0 then p.cremEngc else 7
              crem := if p.resume then 0 else p.crem
              armed := p.resume && p.pp, resume := false, stall := 0, window := false }))

/-- 05 R105, 16 R323, R325: the end of a stall window lets its split issue again; time that reaches the comparison value of a group
makes its supervisor timer interrupt pending (TIMER_COMPARE moves the clock there, log 21; a premise leaves out the clock's end); sireq
sets SSIP of the slot it names, or is dropped. -/
def slotEvents : Prop :=
  (∀ (c sl sp : Nat) (s : State) (g : Group), s.group c sl = some g → g.uses sp = true →
    exec (.stallWindowExpire c sl sp) s = .next (s.setGroup c sl (g.setSplit sp { g.split sp with window := false }))) ∧
  (∀ (c sl : Nat) (s : State) (g : Group), s.group c sl = some g → g.csr.stimecmp ≠ BitVec.allOnes 64 → s.cycle < 6 * 2 ^ 64 →
    ∃ t : State, exec (.timerCompare c sl) s = .next t ∧ t = { s with cycle := t.cycle } ∧ s.cycle ≤ t.cycle ∧
      g.csr.stimecmp.toNat ≤ t.time.toNat ∧ (t.mip c sl).getLsbD 5 = true) ∧
  (∀ (die : BitVec 3) (v : Word64) (s : State),
    (coreOf (v.extractLsb' 0 18) = none → exec (.sireqWrite die v) s = .next s) ∧
    (∀ c, coreOf (v.extractLsb' 0 18) = some c →
      (3 < (v.extractLsb' 18 3).toNat → exec (.sireqWrite die v) s = .next s) ∧
      (s.group c (v.extractLsb' 18 3).toNat = none → exec (.sireqWrite die v) s = .next s) ∧
      (∀ g, (v.extractLsb' 18 3).toNat ≤ 3 → s.group c (v.extractLsb' 18 3).toNat = some g →
        exec (.sireqWrite die v) s = .next (s.setGroup c (v.extractLsb' 18 3).toNat
          { g with csr := { g.csr with sip := g.csr.sip ||| 2 } }))))

/-! ## Launch queues (03 R50-R56) -/

/-- 03 R53: once the module is ready, a doorbell write of p is accepted if p lies from CONS to CONS plus the ring size and not
before PROD; otherwise QERR is set and PROD stays. A ring that qsize has shrunk below its pending entries gives QERR for every p, its
PROD too: the model's choice (log 33). -/
def doorbells : Prop :=
  ∀ (q : BitVec 6) (p : Word32) (s : State), s.power.ready = true →
    ∃ x : Queue, exec (.queueDoorbell q p) s = .next (s.setQueue q.toNat x) ∧
      (((s.queue q.toNat).prod - (s.queue q.toNat).cons).toNat ≤ (p - (s.queue q.toNat).cons).toNat ∧
        (p - (s.queue q.toNat).cons).toNat ≤ 2 ^ (s.queue q.toNat).logn.toNat → x = { s.queue q.toNat with prod := p }) ∧
      (¬ (((s.queue q.toNat).prod - (s.queue q.toNat).cons).toNat ≤ (p - (s.queue q.toNat).cons).toNat ∧
        (p - (s.queue q.toNat).cons).toNat ≤ 2 ^ (s.queue q.toNat).logn.toNat) →
        x = { s.queue q.toNat with qerr := true })

/-- 03 R51, R53: qcfg sets EN and QPRIO, QJOB where EN was 0, and CTL where the host or M-mode writes it; qsize takes 4 to 16
where EN is 0; qstat clears QERR where bit 1 is written 1. -/
def queueRegisters : Prop :=
  ∀ (q : BitVec 6) (v : Word64) (s : State),
    (∀ who : Writer, ∃ x : Queue, exec (.qcfgWrite q who v) s = .next (s.setQueue q.toNat x) ∧
      x = { s.queue q.toNat with en := x.en, qprio := x.qprio, qjob := x.qjob, ctl := x.ctl } ∧
      x.en = v.getLsbD 3 ∧ x.qprio = v.extractLsb' 0 3 ∧
      x.qjob = (if (s.queue q.toNat).en = true then (s.queue q.toNat).qjob else v.extractLsb' 16 16) ∧
      x.ctl = if who = .host ∨ who = .mmode then v.getLsbD 32 else (s.queue q.toNat).ctl) ∧
    (∃ x : Queue, exec (.qsizeWrite q v) s = .next (s.setQueue q.toNat x) ∧
      x = { s.queue q.toNat with logn := x.logn } ∧
      ((s.queue q.toNat).en = false → 4 ≤ (v.extractLsb' 0 5).toNat → (v.extractLsb' 0 5).toNat ≤ 16 →
        x.logn = v.extractLsb' 0 5) ∧
      ((s.queue q.toNat).en = true ∨ (v.extractLsb' 0 5).toNat < 4 ∨ 16 < (v.extractLsb' 0 5).toNat →
        x.logn = (s.queue q.toNat).logn)) ∧
    (∃ x : Queue, exec (.qstatClear q v) s = .next (s.setQueue q.toNat x) ∧
      x = { s.queue q.toNat with badent := x.badent, qerr := x.qerr } ∧
      x.qerr = ((s.queue q.toNat).qerr && !v.getLsbD 1))

/-- 03 R54, R55: dispatch takes the entry at CONS of the queue chosen and advances CONS by one; an entry of a kind above 3 is
skipped, and BADENT counts it; a launch entry of the queue's job that may use the queue becomes a launch that asks for admission,
and the job counts it. -/
def dispatches : Prop :=
  ∀ (iod : BitVec 1) (s : State) (q : Nat), s.nextQueue iod.toNat = some q →
    let x := s.queue q
    let e := s.entryAt x
    let desc : Word64 := e.extractLsb' 0 64
    (4 ≤ (e.extractLsb' 64 3).toNat → ∃ t : State, exec (.queueEntryDispatch iod) s = .next t ∧
      t.queue q = { x with cons := x.cons + 1, badent := satInc x.badent } ∧ t.jobs = s.jobs ∧ t.launches = s.launches) ∧
    ((e.extractLsb' 64 3).toNat = 0 → desc.toNat % 64 = 0 → x.ctl = false → s.registered x.qjob = true →
      (s.job x.qjob).cancelled = false → (s.job x.qjob).qmask.getLsbD q = true →
      ∃ t : State, exec (.queueEntryDispatch iod) s = .next t ∧ (t.queue q).cons = x.cons + 1 ∧
        (t.queue q).live = x.live ++ [.launch s.nextId] ∧
        t.launch s.nextId = some { job := x.qjob, asid := (s.job x.qjob).asid, desc := desc, queue := q, iod := iodOf q } ∧
        (t.job x.qjob).counter = (s.job x.qjob).counter + 1)

/-! ## Launches, replays and phases (01 R21-R26, 03 R57-R65) -/

/-- The launches that wait for admission before one of the same replay: a replay admits its launches in order (01 R25). -/
def firstAsked (s : State) (l : Nat) (x : Launch) : Prop :=
  ∀ e ∈ s.launches, ¬ (x.run.isSome = true ∧ e.2.run = x.run ∧ e.2.stage = .asked ∧ e.1 < l)

/-- A launch that is refused, with its status and its fault address (03 R57, 18 R348). -/
def refusedLaunch (x : Launch) (code : Nat) (fa : Word64) : Launch :=
  { x with stage := .refused, status := firstFault code noCoord 7, faddr := fa }

/-- 03 R57: admission reads the descriptor; one that cannot be read or breaks a rule of R21 refuses the launch with BADDESC, a lease
whose base is missing or unaligned with LEASEFAIL; otherwise the launch takes its job's generation and its kernel's image, here and not at its install (the model's choice, log 33), and waits
for its pages. -/
def admissions : Prop :=
  ∀ (l : Nat) (s : State) (x : Launch), s.launch l = some x → x.stage = .asked → (s.job x.job).unplaced = false →
    firstAsked s l x →
    (s.devRead (s.job x.job).asid x.desc 64 = none →
      exec (.launchAdmit l) s = .next (s.setLaunch l (refusedLaunch { x with done := 0 } 1 x.desc))) ∧
    ∀ d, s.devRead (s.job x.job).asid x.desc 64 = some d →
      let y := x.load (s.job x.job).pceil d ((s.devRead (s.job x.job).asid x.node 64).getD [])
      (s.descBad y = true → exec (.launchAdmit l) s = .next (s.setLaunch l (refusedLaunch y 1 0))) ∧
      (s.descBad y = false → ∀ k, Map.find s.kernels y.kernel = some k →
        (∀ a, s.leaseRanges l (s.job x.job).asid y.param y.plen k.leases = .error a →
          exec (.launchAdmit l) s = .next (s.setLaunch l (refusedLaunch y 3 a))) ∧
        (∀ rs, s.leaseRanges l (s.job x.job).asid y.param y.plen k.leases = .ok rs →
          exec (.launchAdmit l) s = .next (s.setLaunch l { y with
            stage := .leasing, ranges := rs, ncores := k.cores, gen := (s.job x.job).gen, image := some k })))

/-- 03 R57-R59: with a leaf for every page and room for its ranges at every home, a launch receives its leases and its counter of
units, and its units go to placement, or it is refused with PLACEFAIL (code 4) where a unit needs more than 96 cores (04 R70, 18 R348). Too many
ranges give LEASEFAIL, and so does a page without a leaf that the lease needs (that it is found here is the model's choice, log 33); with
no room now, the launch waits. -/
def leaseInstalls : Prop :=
  ∀ (l : Nat) (s : State) (x : Launch), s.launch l = some x → x.stage = .leasing →
    let standing := (s.ranges.filter (fun r => r.launch = 0)).length
    (∀ p, s.badPage (s.job x.job).asid x.ranges = some p →
      exec (.leaseInstall l) s = .next (s.setLaunch l (refusedLaunch { x with ranges := [] } 3 (pageVa p)))) ∧
    (s.badPage (s.job x.job).asid x.ranges = none →
      (8192 < standing + x.ranges.length →
        exec (.leaseInstall l) s = .next (s.setLaunch l (refusedLaunch { x with ranges := [] } 3 0))) ∧
      (standing + x.ranges.length ≤ 8192 → 8192 < s.ranges.length + x.ranges.length → exec (.leaseInstall l) s = .next s) ∧
      (standing + x.ranges.length ≤ 8192 → s.ranges.length + x.ranges.length ≤ 8192 →
        let y : Launch := { x with counter := x.gx * x.gy * x.gz, seq := s.nextId + 1 }
        ∃ t : State, exec (.leaseInstall l) s = .next t ∧ t.ranges = s.ranges ++ x.ranges ∧
          t.launch l = some (if 96 < x.ncores then refusedLaunch y 4 0 else { y with stage := .running })))

/-- 01 R25, R26, 03 R62: a replay starts only where HOLD is 0, no replay of its graph is in progress, every earlier phase has ended and
a replay is left: then it counts its nodes, and every node without predecessors is enqueued. A job's next phase begins once the phase
before it has ended, and with it its first replay. -/
def replaysAndPhases : Prop :=
  (∀ (r : Nat) (s : State) (x : Run) (nodesAt gdone : Word64) (n : Nat) (hold : Bool), s.run r = some x →
    s.graphAt (s.job x.job).asid x.graph = some (nodesAt, n, hold, gdone) →
    (hold = true ∨ s.replaying x = true ∨ s.phaseWaits r x = true ∨ x.left = 0 ∨ x.cancelled = true ∨ (s.job x.job).held = true →
      exec (.replayStart r) s = .next s) ∧
    (hold = false → s.replaying x = false → s.phaseWaits r x = false → x.left ≠ 0 → x.cancelled = false →
      (s.job x.job).held = false →
      ∃ (t : State) (y : Run), exec (.replayStart r) s = .next t ∧ t.run r = some y ∧ y.active = true ∧ y.left = x.left - 1 ∧
        y.counter = n ∧ y.nodes.length = n ∧
        ∀ i d pl ps c pn, i < n → s.devRead (s.job x.job).asid (nodesAt + BitVec.ofNat 64 (8 * i)) 8 = some d →
          s.nodeAt (s.job x.job).asid (wordAt d 0) = some (pl, ps, c, 0, pn) → i ∈ y.begun)) ∧
  (∀ (job : BitVec 16) (s : State) (x : Job), Map.find s.jobs job.toNat = some x →
    (x.nphase ≤ x.pnext ∨ x.prun ≠ none ∨ x.cancelled = true ∨ x.held = true → exec (.phaseStart job) s = .next s) ∧
    (x.pnext < x.nphase → x.prun = none → x.cancelled = false → x.held = false →
      ∀ e d nodesAt n gdone, s.devRead x.asid (x.phases + BitVec.ofNat 64 (8 * x.pnext)) 8 = some e →
        s.devRead x.asid (wordAt e 0) 32 = some d → fieldAt d 8 8 ≠ 0 →
        s.graphAt x.asid (wordAt d 0) = some (nodesAt, n, false, gdone) → 1 ≤ n → n ≤ 4096 →
        (∀ q ∈ s.runs, ¬ (q.2.job = job ∧ q.2.phase.isSome = true) ∧
          ¬ (q.2.active = true ∧ q.2.graph = wordAt d 0 ∧ (s.job q.2.job).asid = x.asid)) →
        ∃ (t : State) (y : Run), exec (.phaseStart job) s = .next t ∧ (t.job job).prun = some s.nextId ∧
          (t.job job).counter = x.counter + 1 ∧ (t.job job).pnext = x.pnext ∧ t.run s.nextId = some y ∧
          y.graph = wordAt d 0 ∧ y.phase = some (wordAt e 0, wordAt d 16) ∧ y.own = true ∧ y.active = true ∧
          y.left = fieldAt d 8 8 - 1 ∧ y.counter = n))

/-- 04 R75, R76: a done message is combined into its die's collector, which has one unit less to wait for; once all units are
placed, every collector of the launch is sealed; a sealed collector with none to wait for forwards its word and its count to the
launch, once. -/
def completionTree : Prop :=
  (∀ (n : Nat) (s : State) (d : DoneMsg) (x : Launch) (col : Collector),
    s.dones.find? (fun e => e.id = n) = some d → s.launch d.launch = some x → Map.find x.cols d.die = some col →
    ∃ (t : State) (y : Launch), exec (.doneMessage n) s = .next t ∧ t.dones = s.dones.filter (fun e => e.id ≠ n) ∧
      t.launch d.launch = some y ∧ y.counter = x.counter ∧
      let w := col.report.combine d.report
      Map.find y.cols d.die = some { col with
        pending := col.pending - 1, count := col.count + 1, status := w.word, faddr := w.addr, ftime := w.time }) ∧
  (∀ (l : Nat) (s : State) (x : Launch), s.launch l = some x → x.stage = .running → x.next = x.gx * x.gy * x.gz →
    ∃ y : Launch, exec (.sealed l) s = .next (s.setLaunch l y) ∧ y.sealed = true ∧ ∀ e ∈ y.cols, e.2.sealed = true) ∧
  (∀ (l : Nat) (die : BitVec 3) (s : State) (x : Launch) (col : Collector), s.launch l = some x →
    Map.find x.cols die.toNat = some col →
    (col.sealed = true → col.pending = 0 → col.forwarded = false →
      ∃ y : Launch, exec (.collectorForward l die) s = .next (s.setLaunch l y) ∧ y.counter = x.counter - col.count ∧
        y.report = x.report.combine col.report ∧
        ∃ c', Map.find y.cols die.toNat = some c' ∧ c'.forwarded = true ∧ c'.count = 0) ∧
    (col.sealed = false ∨ col.pending ≠ 0 ∨ col.forwarded = true → exec (.collectorForward l die) s = .next s))

/-- 03 R63, R65: a launch that is over and whose decrements are made retires; a decrement that finds a counter above 0 lowers it
by one, and no decrement is made before the earlier ones of its launch. -/
def retirements : Prop :=
  (∀ (l : Nat) (s : State) (x : Launch), s.launch l = some x → x.over = true → (∀ d ∈ s.decs, d.run ≠ l) →
    exec (.launchRetire l) s = .next (s.retireLaunch l) ∧
      (x.node = 0 → x.done = 0 → x.run = none → x.counted = true → ∀ j, Map.find s.jobs x.job.toNat = some j → 1 < j.counter →
        (s.retireLaunch l).launch l = none ∧ ((s.retireLaunch l).job x.job).counter = j.counter - 1 ∧
          ∀ r, r ∈ (s.retireLaunch l).ranges ↔ r ∈ s.ranges ∧ r.launch ≠ l)) ∧
  (∀ (n : Nat) (s : State) (d : Dec), s.decs.find? (fun e => e.id = n) = some d →
    ((∃ e ∈ s.decs, e.run = d.run ∧ e.id < d.id) → exec (.counterDecrement n) s = .next s) ∧
    ((∀ e ∈ s.decs, e.run = d.run → d.id ≤ e.id) → d.last = false → ∀ pl at_ (v : Word64),
      s.translate d.asid d.addr .write .u false false = .ok pl at_ → leWord (s.readPlace pl 8) = v → 1 < v.toNat →
      exec (.counterDecrement n) s =
        .next ({ s with decs := s.decs.filter (fun e => e.id ≠ n) }.writePlace pl (leBytes (v - 1).toNat 8))))

/-- 03 R64: lcctl with GO answers, when the module is ready, with the level and operation it was given and RES: 3 at a level that is none
of 1 to 4 and for an END at any level but a job's; a job that is unknown and was not known gives 2; the cancel of a live launch places no
more of its units and marks it CANCELLED, and answers 0, as that of a job does. Of several live launches of one descriptor the first
is cancelled, and a second END of a job answers 0: the model's choices (log 10). -/
def cancelsAndEnds : Prop :=
  ∀ (level : BitVec 3) (s : State), s.power.ready = true →
    (∃ t : State, exec (.lcCancel level) s = .next t ∧ t.lcop = 0 ∧ t.lclevel = level ∧
      (level = 0 ∨ 4 < level.toNat → t = { s with lcop := 0, lclevel := level, lcres := 3 }) ∧
      (level = 4 → Map.find s.jobs (s.lcaddr.extractLsb' 48 16).toNat = none → s.gone = [] →
        t = { s with lcop := 0, lclevel := level, lcres := 2 }) ∧
      (level = 1 → ∀ l x, s.launches.find? (fun e => e.2.job = s.lcaddr.extractLsb' 48 16 && e.2.desc = sextVa s.lcaddr) = some (l, x) →
        s.launch l = some x → x.stage = .leasing ∨ (x.stage = .running ∧ x.over = false) →
        ∃ y, t.launch l = some y ∧ t.lcres = 0 ∧ y.cancelled = true ∧ y.status = x.status ||| flagCancelled ∧
          (x.stage = .leasing → y.stage = .refused ∧ y.counter = x.counter) ∧
          (x.stage = .running → y.stage = .running ∧ y.next = x.gx * x.gy * x.gz ∧
            y.counter = x.counter - (x.gx * x.gy * x.gz - x.next))) ∧
      (level = 4 → ∀ x, Map.find s.jobs (s.lcaddr.extractLsb' 48 16).toNat = some x → x.desc = sextVa s.lcaddr →
        t.lcres = 0 ∧ (x.cancelled = true → t = { s with lcop := 0, lclevel := level, lcres := 0 }))) ∧
    (∃ t : State, exec (.lcEnd level) s = .next t ∧ t.lcop = 1 ∧ t.lclevel = level ∧
      (level ≠ 4 → t = { s with lcop := 1, lclevel := level, lcres := 3 }) ∧
      (level = 4 → ∀ x, Map.find s.jobs (s.lcaddr.extractLsb' 48 16).toNat = some x →
        x.desc = sextVa s.lcaddr → t.lcres = 0 ∧
        (x.ended = true → t = { s with lcop := 1, lclevel := level, lcres := 0 }) ∧
        (x.ended = false → 1 < x.counter →
          t = { s.setJob (s.lcaddr.extractLsb' 48 16) { x with ended := true, counter := x.counter - 1 } with
            lcop := 1, lclevel := level, lcres := 0 })))

/-! ## Placement (04 R66-R76) -/

/-- 04 R72: where launches wait and the placer finds room for the next unit of one, that unit is placed on the cores found, with its
groups' counter; where it finds none it searches again later; 03 R62: a unit with its counter at 0 and nothing outstanding ends, and its
done message carries the word of its tree. -/
def unitsPlacedAndRetired : Prop :=
  (∀ (iod : BitVec 1) (s : State),
    let room (e : Nat × Launch) := e.2.image.bind (fun k => (s.region iod.toNat k.cores k.need).map (fun r => (k, r)))
    ((∀ e ∈ s.pending iod.toNat, room e = none) → exec (.unitPlace iod) s = .next s) ∧
    (∀ before id l rest k r, s.pending iod.toNat = before ++ (id, l) :: rest → (∀ e ∈ before, room e = none) →
      room (id, l) = some (k, r) →
      ∃ (t : State) (x : Machine.Unit), exec (.unitPlace iod) s = .next t ∧ t.launch id = some { l with
          next := l.next + 1
          cols := Map.put l.cols (dieOf (r.headD 0)) (let col := (Map.find l.cols (dieOf (r.headD 0))).getD {}
            { col with pending := col.pending + 1, forwarded := false }) } ∧
        t.nextId = s.nextId + 1 ∧ Map.find t.units s.nextId = some x ∧ x.launch = id ∧ x.index = l.next ∧ x.cores = r ∧
        x.counter = k.groups ∧ x.gen = l.gen ∧ Map.find t.lastDie iod.toNat = some (dieOf (r.headD 0)))) ∧
  (∀ (u : Nat) (s : State) (x : Machine.Unit), Map.find s.units u = some x →
    (x.counter ≠ 0 ∨ x.saving = true ∨ s.unitDrained u = false → exec (.unitRetire u) s = .next s) ∧
    (x.counter = 0 → x.saving = false → s.unitDrained u = true →
      ∃ (t : State) (d : DoneMsg), exec (.unitRetire u) s = .next t ∧ Map.find t.units u = none ∧ t.dones = s.dones ++ [d] ∧
        d.launch = x.launch ∧ d.die = dieOf (x.cores.headD 0) ∧ d.faddr = x.collect.faddr ∧ d.ftime = x.collect.ftime ∧
        d.status = if s.usedFenced u x.collect then x.collect.status ||| flagFenced else x.collect.status))

/-! ## The debug port (19 R365-R369) -/

/-- What a debug operation leaves in the port (19 Table 19.7). -/
def portAfter (s : State) (die : Nat) (force : Bool) (op : BitVec 3) (bar : BitVec 5) (res : BitVec 2) : State :=
  s.setDie die { s.die die with dforce := force, dop := op, dbar := bar, dres := res }

/-- 19 R367, R369: a halt of a whole unit leaves the unit and each of its groups halted and RES 0; a resume lets the unit go on; with ONE
both act on the group named. A port that addresses no unit answers 1 and one whose unit is being saved 2, with no other effect. That an
operation is carried out in the step that orders it is the model's choice (log 13). -/
def debugHaltsAndResumes : Prop :=
  ∀ (die : BitVec 3) (force : Bool) (s : State),
    (s.dbgTarget (s.die die.toNat) = none →
      exec (.debugHalt die force) s = .next (portAfter s die.toNat force 0 (s.die die.toNat).dbar 1) ∧
      exec (.debugResume die) s =
        .next (portAfter s die.toNat (s.die die.toNat).dforce 1 (s.die die.toNat).dbar 1)) ∧
    (∀ u one, s.dbgTarget (s.die die.toNat) = some (u, one) → (s.unit u).saving = true →
      exec (.debugHalt die force) s = .next (portAfter s die.toNat force 0 (s.die die.toNat).dbar 2) ∧
      exec (.debugResume die) s =
        .next (portAfter s die.toNat (s.die die.toNat).dforce 1 (s.die die.toNat).dbar 2)) ∧
    (∀ u, s.dbgTarget (s.die die.toNat) = some (u, none) → (s.unit u).saving = false →
      (∃ t : State, exec (.debugHalt die force) s = .next t ∧ (t.unit u).halted = true ∧
        (t.die die.toNat).dres = 0 ∧ (t.die die.toNat).dop = 0 ∧
        ∀ a ∈ s.agentsOf u, ∀ g, t.group a.1 a.2 = some g → g.halted = true) ∧
      ∃ t : State, exec (.debugResume die) s = .next t ∧ (t.unit u).halted = false ∧
        (t.die die.toNat).dres = 0 ∧ (t.die die.toNat).dop = 1) ∧
    (∀ u c sl, s.dbgTarget (s.die die.toNat) = some (u, some (c, sl)) → (s.unit u).saving = false →
      (∃ t : State, exec (.debugHalt die force) s = .next t ∧ (t.die die.toNat).dres = 0 ∧
        ∃ g, t.group c sl = some g ∧ g.halted = true) ∧
      ∃ t : State, exec (.debugResume die) s = .next t ∧ (t.die die.toNat).dres = 0 ∧
        ∃ g, t.group c sl = some g ∧ g.halted = false)

/-- 19 R366, R368: a step names a barrier below 16 and a unit that is halted whole, lets it go on and remembers the phase it ends
at, beside other steps in progress; a step ends when that phase is over and every participant has halted, and STEPS counts it. An
operation above 2 answers 3. So does a step of a barrier above 15 of a unit that is being saved, where R369 would give 2: the model's
choice (log 13). -/
def debugSteps : Prop :=
  (∀ (die : BitVec 3) (bar : BitVec 5) (s : State),
    (16 ≤ bar.toNat →
      exec (.debugStep die bar) s = .next (portAfter s die.toNat (s.die die.toNat).dforce 2 bar 3)) ∧
    (∀ u one, bar.toNat < 16 → s.dbgTarget (s.die die.toNat) = some (u, one) → (s.unit u).saving = false →
      (s.unitHalted u = false →
        exec (.debugStep die bar) s = .next (portAfter s die.toNat (s.die die.toNat).dforce 2 bar 3)) ∧
      (s.unitHalted u = true → ∃ t : State, exec (.debugStep die bar) s = .next t ∧ (t.unit u).halted = false ∧
        (t.die die.toNat).stepping =
          (s.die die.toNat).stepping ++ [(u, bar.setWidth 4, ((s.unit u).bar (bar.setWidth 4)).phase)] ∧
        (t.die die.toNat).dres = 0))) ∧
  (∀ (die op : BitVec 3) (bar : BitVec 5) (s : State), 3 ≤ op.toNat ∨ (op = 2 ∧ 16 ≤ bar.toNat) →
    exec (.debugBadRequest die op bar) s = .next (portAfter s die.toNat (s.die die.toNat).dforce op bar 3)) ∧
  (∀ (die : BitVec 3) (s : State),
    let past (q : Nat × BitVec 4 × BitVec 16) : Prop :=
      ((s.unit q.1).bar q.2.1).phase ≠ q.2.2 ∧ ∀ a ∈ s.participants q.1, a.2.2.halted = true
    ((∀ q ∈ (s.die die.toNat).stepping, ¬ past q) → exec (.stepEnd die) s = .next s) ∧
    (∀ before q after, (s.die die.toNat).stepping = before ++ q :: after → (∀ r ∈ before, ¬ past r) → past q →
      ∃ t : State, exec (.stepEnd die) s = .next t ∧
        (t.die die.toNat).stepping = (s.die die.toNat).stepping.filter (fun a => a.1 ≠ q.1) ∧
        (t.die die.toNat).dsteps = (s.die die.toNat).dsteps + 1 ∧ (t.unit q.1).halted = true))

/-! ## Saving and resuming units, the trace (16 R327-R333, 19 R363) -/

/-- What the halt of R328 leaves of a unit: it waits for its save; of each of its agents, its groups, its recruits and its handler slots,
no split is at issue and none may issue, and a split that was inside a clause stands at its first unissued instruction, with what is left
of the clause in CREM. -/
def HaltedForSave (s t : State) (u : Nat) : Prop :=
  (t.unit u).saving = true ∧
  ∀ a ∈ s.agentsOf u ++ (s.handlersOf u).map (fun c => (c, 4)), ∀ g, t.group a.1 a.2 = some g → g.unit = u →
    (∀ sp p, t.eligible { c := a.1, sl := a.2, sp := sp } g p = false) ∧
    ((s.unit u).saving = false → ∀ k, (t.core a.1).issuing ≠ some (a.2, k) ∧
      ((s.core a.1).issuing = some (a.2, k) → (s.spl { c := a.1, sl := a.2, sp := k }).left ≠ 0 →
        (t.spl { c := a.1, sl := a.2, sp := k }).pc = (s.spl { c := a.1, sl := a.2, sp := k }).pc ∧
        (t.spl { c := a.1, sl := a.2, sp := k }).crem = (s.spl { c := a.1, sl := a.2, sp := k }).left ∧
        (t.spl { c := a.1, sl := a.2, sp := k }).resume = true))

/-- 16 R327, R328, R331: an idle port halts the unit it addresses for its save, or answers 1 where there is none (a unit on another die is
none to it: log 23); a resume answers 3 where the area holds no usable image, waits busy where there is no room, and otherwise restores the
unit on the cores found; a busy port ignores a preemption and a reserved operation, which otherwise answers 3. Which images are usable
beyond the rules, and the cores of recruits, are the model's choice (log 12). -/
def preemptionAndResume : Prop :=
  ∀ (die : BitVec 3) (s : State),
    ((s.die die.toNat).pbusy = true → exec (.preempt die) s = .next s ∧ ∀ op, exec (.pctlReservedOp die op) s = .next s) ∧
    ((s.die die.toNat).pbusy = false →
      (∀ op : BitVec 2, 2 ≤ op.toNat → exec (.pctlReservedOp die op) s =
        .next (s.setDie die.toNat { s.die die.toNat with pop := op, pres := 3 })) ∧
      (s.preemptable die.toNat (s.die die.toNat) = none → exec (.preempt die) s =
        .next (s.setDie die.toNat { s.die die.toNat with pop := 0, pres := 1 })) ∧
      (∀ u, s.preemptable die.toNat (s.die die.toNat) = some u → ∃ t : State, exec (.preempt die) s = .next t ∧
        (t.die die.toNat).pbusy = true ∧ (t.die die.toNat).psaving = some u ∧ HaltedForSave s t u) ∧
      ((s.die die.toNat).presume = none →
        (s.imageAt die.toNat (s.die die.toNat).parea.toNat = none →
          exec (.unitResume die) s = .next (s.setDie die.toNat { s.die die.toNat with pop := 1, pres := 3 })) ∧
        ∀ i, s.imageAt die.toNat (s.die die.toNat).parea.toNat = some i →
          let r := s.adoptImage i
          (r.imageLive i = false → ∃ t : State, exec (.unitResume die) s = .next t ∧ (t.die die.toNat).pres = 3 ∧
            t.images = r.images) ∧
          (r.imageLive i = true → r.resumeRegion die.toNat i = none → ∃ t : State, exec (.unitResume die) s = .next t ∧
            (t.die die.toNat).pbusy = true ∧ (t.die die.toNat).presume = some i.number ∧ t.images = r.images) ∧
          (∀ cs b rs, r.imageLive i = true → r.resumeRegion die.toNat i = some (cs, b) →
            r.recruitRegion die.toNat i cs = some rs → ∃ t : State, exec (.unitResume die) s = .next t ∧
              (t.die die.toNat).pbusy = false ∧ (t.die die.toNat).pres = 0 ∧ Map.find t.images i.number = none ∧
              (t.unit i.number).cores = cs ∧ (t.unit i.number).sbase = b)))

/-- 16 R329: the save of a unit at rest frees the port and reports the bytes the image needs: the unit is saved and its place free, or,
where the area is too small, RES is 2 and the unit stays. The layout of the records' bodies is the model's (log 12). -/
def savesComplete : Prop :=
  ∀ (die : BitVec 3) (s : State) (u : Nat), (s.die die.toNat).psaving = some u → s.atRest u = true →
    ∃ t : State, exec (.preemptSaveComplete die) s = .next t ∧ (t.die die.toNat).psaving = none ∧
      (t.die die.toNat).pbusy = false ∧
      (t.die die.toNat).plen =
        BitVec.ofNat 32 (s.saveUnit die.toNat u (s.die die.toNat).parea.toNat (s.die die.toNat).psize.toNat).1 ∧
      match s.saveUnit die.toNat u (s.die die.toNat).parea.toNat (s.die die.toNat).psize.toNat with
      | (_, some _) => (t.die die.toNat).pres = 0 ∧ Map.find t.units u = none
      | (_, none) => (t.die die.toNat).pres = 2 ∧ t.units = s.units

/-- 19 R361-R363: at the end of a period a traced slot that is summarised, with a split in U-mode, starts its counters again. Where none
of its SYNC records is due and the ring has room, the SUMMARY record stands in the ring at PROD with the slot's counts and the cycles
covered, and PROD is one more; where the ring is full, PROD stays and DROP counts the record. The event, not the count of cycles, closes
a summary (the model's choice, log 13). -/
def summaries : Prop :=
  ∀ (c sl : Nat) (s : State) (g : Group), sl ≤ 4 → s.group c sl = some g → s.traced c sl = true →
    ((s.core c).trace sl).on = true → (s.core c).full sl = false → (∃ e ∈ g.splits, e.2.mode = .u) →
    ∃ t : State, exec (.summaryPeriod c sl) s = .next t ∧ t.cycle = max s.cycle (((s.core c).trace sl).start + 4096) ∧
      ((t.core c).trace sl).start = t.cycle ∧ ((t.core c).trace sl).clauses = 0 ∧ ((t.core c).trace sl).insns = 0 ∧
      ((t.core c).trace sl).waits = 0 ∧ ((t.core c).trace sl).parks = 0 ∧ ((t.core c).trace sl).holds = 0 ∧
      (((s.core c).trace sl).need = [] → (s.core c).emits < ((s.core c).trace sl).since + 4096 →
        let d := s.die (dieOf c)
        let x := (s.core c).trace sl
        let n := 2 ^ ((d.trbase.extractLsb' 0 4).toNat + 7)
        let a := (d.trbase.extractLsb' 12 40).toNat * 4096 + d.trprod.toNat % n * 32
        (n ≤ (d.trprod - d.trcons).toNat →
          (t.die (dieOf c)).trprod = d.trprod ∧ (t.die (dieOf c)).trdrop = satInc d.trdrop ∧ t.hbm = s.hbm) ∧
        ((d.trprod - d.trcons).toNat < n → (∀ i < 32, inHbm (a + i) = true) →
          (t.die (dieOf c)).trprod = d.trprod + 1 ∧
          let r : BitVec 256 := BitVec.ofNat 256 (leValue (t.hbm.bytes a 32))
          r.extractLsb' 0 8 = 2 ∧ r.extractLsb' 8 3 = BitVec.ofNat 3 sl ∧ r.extractLsb' 11 2 = 0 ∧
          r.getLsbD 13 = !g.frames.isEmpty ∧ r.extractLsb' 14 18 = coordOf c ∧ r.extractLsb' 32 16 = g.asid ∧
          r.extractLsb' 48 16 = BitVec.ofNat 16 (min (t.cycle - (s.core c).tlast) 65535) ∧
          r.extractLsb' 64 32 = BitVec.ofNat 32 x.clauses ∧ r.extractLsb' 96 32 = BitVec.ofNat 32 x.insns ∧
          r.extractLsb' 128 32 = BitVec.ofNat 32 x.waits ∧ r.extractLsb' 160 32 = BitVec.ofNat 32 x.parks ∧
          r.extractLsb' 192 32 = BitVec.ofNat 32 x.holds ∧ r.extractLsb' 224 32 = BitVec.ofNat 32 (t.cycle - x.start)))

/-! ## Snapshots and migration (10 R196, R197, 20 R370-R382) -/

/-- 10 R196, R197: a snapshot port that is busy ignores a GO; 0 pages, more than 65536, or pages beyond the address space answer 2;
otherwise the snapshot starts, of what the registers say at the GO. It ends by clearing the dirty bits of the pages of its die, writing its
bitmap at OUT and reporting 0. -/
def snapshots : Prop :=
  ∀ (die : BitVec 3) (s : State),
    ((s.die die.toNat).dsbusy = true → exec (.snapshot die) s = .next s) ∧
    ((s.die die.toNat).dsbusy = false →
      ((s.die die.toNat).snapBad = true → exec (.snapshot die) s = .next (s.setDie die.toNat { s.die die.toNat with dsres := 2 })) ∧
      ((s.die die.toNat).snapBad = false →
        exec (.snapshot die) s = .next (s.setDie die.toNat { s.die die.toNat with
          dsbusy := true, dsreq := ((s.die die.toNat).dsva, (s.die die.toNat).dscnt, (s.die die.toNat).dsout) }))) ∧
    ((s.die die.toNat).dsbusy = true →
      let d := (s.die die.toNat).snapReq
      let vas := (List.range d.snapPages).map (fun i => sextVa (d.snapVa i))
      let out := bitDwords (vas.map (fun va => homeOf va = die.toNat && s.dirtyAt d.snapAsid va)) d.snapPages
      ∃ t : State, exec (.snapshotComplete die) s = .next t ∧ (t.die die.toNat).dsbusy = false ∧
        (inHbm d.dsout.toNat = true → inHbm (d.dsout.toNat + out.length - 1) = true →
          (t.die die.toNat).dsres = 0 ∧
          t.dirty = (s.clearDirty d.snapAsid (vas.filter (fun va => homeOf va = die.toNat))).dirty ∧
          ∀ a, inHbm a = true → t.hbm.get a =
            if d.dsout.toNat ≤ a ∧ a < d.dsout.toNat + out.length then out.getD (a - d.dsout.toNat) 0 else s.hbm.get a))

/-- 20 R370: START and RECEIVE work in phases 0, 6 and 8, and enter pre-copy with one record sent, or wait for OPEN; a bad descriptor
gives 3, another phase 1, and the session in progress goes on. An operation above 3 gives 3. -/
def migrationStarts : Prop :=
  ∀ s : State,
    (s.mig.phase = 0 ∨ s.mig.phase = 6 ∨ s.mig.phase = 8 →
      (s.descBadMig s.migDesc true = false → ∃ t : State, exec .migrationStart s = .next t ∧ t.mig.phase = 1 ∧ t.mig.op = 0 ∧
        t.mig.res = 0 ∧ t.mig.sent.length = 1 ∧ t.mig.session = BitVec.ofNat 32 (fieldAt s.migDesc.raw 8 4)) ∧
      (s.descBadMig s.migDesc true = true → ∃ t : State, exec .migrationStart s = .next t ∧
        t.mig = { s.mig with op := 0, res := 3 }) ∧
      (s.descBadMig s.migDesc false = false → ∃ t : State, exec .migrationReceive s = .next t ∧ t.mig.phase = 7 ∧ t.mig.op = 3 ∧
        t.mig.res = 0 ∧ t.mig.opened = false ∧ t.rround = []) ∧
      (s.descBadMig s.migDesc false = true → ∃ t : State, exec .migrationReceive s = .next t ∧
        t.mig = { s.mig with op := 3, res := 3 })) ∧
    (s.mig.phase ≠ 0 → s.mig.phase ≠ 6 → s.mig.phase ≠ 8 →
      (∃ t : State, exec .migrationStart s = .next t ∧ t.mig = { s.mig with op := 0, res := 1 }) ∧
      ∃ t : State, exec .migrationReceive s = .next t ∧ t.mig = { s.mig with op := 3, res := 1 }) ∧
    (∀ op : BitVec 3, 4 ≤ op.toNat → ∃ t : State, exec (.mgctlReservedOp op) s = .next t ∧
      t.mig = { s.mig with op := op, res := 3 })

/-- 20 R374, R382: STOP in pre-copy holds the job and enters phase 3; with FORCE it leaves the job's units unplaced and halts every placed
one for its save, as a preemption does, and one already halted stays so; what the executive gives for the EXEC record goes with it (log 14). ABORT ends a session with
7, phase 0 and the hold released; elsewhere both give 1. -/
def migrationStops : Prop :=
  ∀ s : State,
    (∀ (force : Bool) (data : List Byte),
      (s.mig.phase = 1 ∨ s.mig.phase = 2 → ∃ t : State, exec (.migrationStop (force, data)) s = .next t ∧ t.mig.phase = 3 ∧
        t.mig.op = 1 ∧ t.mig.force = force ∧ t.mig.exec = data.take (2 ^ 20) ∧ (s.registered s.mig.job = true →
          (t.job s.mig.job).held = true ∧ (t.job s.mig.job).unplaced = force) ∧
        (force = true → ∀ u ∈ s.jobUnits, HaltedForSave s t u)) ∧
      (s.mig.phase = 3 → force = true → ∃ t : State, exec (.migrationStop (force, data)) s = .next t ∧ t.mig.phase = 3 ∧
        t.mig.force = true ∧ (∀ u ∈ s.jobUnits, HaltedForSave s t u) ∧
        (s.registered s.mig.job = true → (t.job s.mig.job).held = true ∧ (t.job s.mig.job).unplaced = true)) ∧
      (s.mig.phase ≠ 1 → s.mig.phase ≠ 2 → s.mig.phase ≠ 3 ∨ force = false →
        ∃ t : State, exec (.migrationStop (force, data)) s = .next t ∧
        t.mig = { s.mig with force := force, op := 1, res := 1 })) ∧
    ((1 ≤ s.mig.phase.toNat ∧ s.mig.phase.toNat ≤ 5) ∨ (7 ≤ s.mig.phase.toNat ∧ s.mig.phase.toNat ≤ 9) →
      ∃ t : State, exec .migrationAbort s = .next t ∧ t.mig.phase = 0 ∧ t.mig.res = 7 ∧ t.mig.op = 2 ∧
        (s.registered s.mig.job = true → (t.job s.mig.job).held = false ∧ (t.job s.mig.job).unplaced = false)) ∧
    (s.mig.phase = 0 ∨ s.mig.phase = 6 → ∃ t : State, exec .migrationAbort s = .next t ∧
      t.mig = { s.mig with op := 2, res := 1 })

/-- 20 R372-R374: a round starts with the snapshot that clears the dirty bits and with the pages to send, sends one page a step, and ends
with their number; pre-copy ends its convergence at a round of at most THRESH pages or at MAXROUND; a held job of which nothing runs goes
on to the final rounds. Those end with the first whose snapshot reports no page, with the images, JOB and FIN, or after four that do, with
RES 4. That the pages of a round go out one a step, and that a round in progress goes on in phase 3, is the model's choice (log 14). -/
def migrationRounds : Prop :=
  ∀ s : State,
    let m := s.mig
    let after (total : Nat) : BitVec 4 :=
      if m.phase = 1 ∧ ¬ (min total (2 ^ 32 - 1) ≤ m.thresh ∨ (m.round + 1).toNat = m.maxround) then 1 else 2
    (m.todo = [] → m.phase = 1 ∨ m.phase = 2 ∨ m.phase = 4 → s.snapsOverlap = false →
      let sel := s.migPages.filter (if m.round = 0 then s.trackedAt m.asid else s.dirtyAt m.asid)
      ∃ t : State, exec .precopyRound s = .next t ∧ t.dirty = (s.clearDirty m.asid s.migPages).dirty ∧
        (sel ≠ [] → t.mig = { m with
          total := sel.length, todo := sel, reported := (s.migPages.filter (s.dirtyAt m.asid)).length }) ∧
        (sel = [] → t.mig.round = m.round + 1 ∧ t.mig.pages = 0 ∧ t.mig.phase = if m.phase = 4 then 5 else after 0)) ∧
    (m.todo = [] → s.snapsOverlap = true ∨ (m.phase ≠ 1 ∧ m.phase ≠ 2 ∧ m.phase ≠ 4) → exec .precopyRound s = .next s) ∧
    (∀ va rest, m.todo = va :: rest →
      (m.phase = 0 ∨ 4 < m.phase.toNat → exec .precopyRound s = .next s) ∧
      (1 ≤ m.phase.toNat → m.phase.toNat ≤ 4 →
        ∃ t : State, exec .precopyRound s = .next t ∧ t.mig.todo = rest ∧ t.dirty = s.dirty ∧ t.hbm = s.hbm ∧
          (rest ≠ [] → t.mig.round = m.round ∧ t.mig.phase = m.phase ∧
            t.mig.sent.length = m.sent.length + if (s.frameAt m.asid va).isSome then 1 else 0) ∧
          (rest = [] → t.mig.round = m.round + 1 ∧ t.mig.pages = BitVec.ofNat 32 (min m.total (2 ^ 32 - 1)) ∧
            (m.phase = 1 ∨ m.phase = 2 → t.mig.phase = after m.total) ∧
            (m.phase = 4 → (m.reported = 0 → t.mig.phase = 5) ∧
              (m.reported ≠ 0 → m.finals < 3 → t.mig.phase = 4 ∧ t.mig.finals = m.finals + 1) ∧
              (m.reported ≠ 0 → 3 ≤ m.finals → t.mig.phase = 3 ∧ t.mig.res = 4 ∧ t.mig.stuck = true))))) ∧
    (m.phase = 3 → m.stuck = false → m.todo = [] →
      let idle := if m.forced = true then s.jobUnits = [] else s.jobBusy = false
      (idle → ∃ t : State, exec .stopDrainComplete s = .next t ∧ t.mig = { m with phase := 4, finals := 0 }) ∧
      (¬ idle → exec .stopDrainComplete s = .next s))

/-- What verifying a record gives: AES-256-GCM under the migration key, with the header as additional data (20 R376). -/
def recordBody (s : State) (h c t : List Byte) : Option (List Byte) :=
  aesGcmOpen s.migKey (streamNonce (BitVec.ofNat 256 (leValue h))) h c t

/-- 20 R377, R380, R381: the sender takes an ACK from its peer: that of FIN ends the sending in phase 6, a refusal ends the session with 2
or 3, one whose tag does not verify with 5; a link that fails ends it with 6. An ACK with status 0 before phase 5 changes nothing, and the
end of a session sets PHASE 0 with its RES: the model's choices (log 14). -/
def migrationEnds : Prop :=
  ∀ s : State, 1 ≤ s.mig.phase.toNat → s.mig.phase.toNat ≤ 5 →
    (∀ (h c t : List Byte), hdrField h 0 8 = 7 → s.recvable s.mig.peer h = true →
      ∃ r : State, exec (.migrationAck (s.mig.peer, h, c, t)) s = .next r ∧
        match recordBody s h c t with
        | none => r.mig.phase = 0 ∧ r.mig.res = 5
        | some d =>
          if fieldAt d 0 1 = 0 then r.mig = (if s.mig.phase = 5 then { s.mig with phase := 6 } else s.mig)
          else r.mig.phase = 0 ∧ r.mig.res = if fieldAt d 0 1 = 1 then 2 else 3) ∧
    ∃ t : State, exec .migrationLinkFail s = .next t ∧ t.mig.phase = 0 ∧ t.mig.res = 6

/-- 20 R376, R379, R381: a record that comes from another peer, over a frozen flow, or of another session is ignored; at the receiver one
that arrives before OPEN has been applied waits for it; one whose tag does not verify ends the session with 5 and freezes the peer's flow;
a PAGE record of the ranges is written to its frame if its round is not older than the one applied there. -/
def migrationRecords : Prop :=
  ∀ (peer : BitVec 4) (h c t : List Byte) (s : State),
    (s.recvable peer h = false → exec (.migrationRecordReceive (peer, h) c t) s = .next s) ∧
    (s.recvable peer h = true → s.mig.phase = 7 →
      (s.mig.opened = false → hdrField h 0 8 ≠ 1 → exec (.migrationRecordReceive (peer, h) c t) s =
        .next { s with mig := { s.mig with held := s.mig.held ++ [(h, c, t)] } }) ∧
      (s.mig.opened = true ∨ hdrField h 0 8 = 1 → ∃ r : State, exec (.migrationRecordReceive (peer, h) c t) s = .next r ∧
        match recordBody s h c t with
        | none => r.mig.phase = 0 ∧ r.mig.res = 5 ∧ (Map.getD 0#256 r.peers s.mig.peer.toNat).getLsbD 129 = true
        | some d =>
          let va := hdrField h 160 48
          let f := (s.frameAt s.mig.asid (sextVa (BitVec.ofNat 64 va))).getD 0
          hdrField h 0 8 = 2 ∧ hdrField h 8 8 = 1 ∧ hdrField h 16 16 = 0 ∧ hdrField h 128 32 = 0 ∧ hdrField h 224 32 = 4096 ∧
              d.length = 4096 ∧ s.mig.opened = true ∧ s.mig.held = [] ∧ s.mig.fin = none ∧
              (s.frameAt s.mig.asid (sextVa (BitVec.ofNat 64 va))).isSome = true ∧
              (s.mig.ranges.any (fun q => decide (q.1.toNat ≤ va) && decide (va < q.1.toNat + 4096 * q.2))) = true ∧
              s.leaseCovers s.mig.asid va = false ∧ s.frameLeased f = false →
            if hdrField h 208 16 < (Map.getD 0 s.rround f).toNat then
              r.hbm = s.hbm ∧ r.mig = { s.mig with applied := s.mig.applied + 1, stale := satInc s.mig.stale }
            else r.mig.recs = satInc s.mig.recs ∧ r.mig.applied = s.mig.applied + 1 ∧
              ∀ a, inHbm a = true → r.hbm.get a = if f = a / 4096 then d.getD (a % 4096) 0 else s.hbm.get a))

/-- 20 R375, R378-R380: at a receiver that has applied OPEN, a verified DISCARD record of a page of the ranges leaves its frame discarded, so
that it reads 0, if its round is not older; an IMAGE record is stored where the last one ended, from IMGAREA on at multiples of 64 bytes, and
one that would exceed IMGSIZE freezes the engine in phase 9; a JOB record is kept; FIN, once every record below it has been applied, is
answered: with status 0 and phase 8 where the JOB record is complete, and else the session ends with RES 3. What makes it complete, and that
images stand at multiples of 64 bytes, is the model's choice (log 14). -/
def receivedRecords : Prop :=
  ∀ (peer : BitVec 4) (h c t d : List Byte) (s : State), s.recvable peer h = true → s.mig.phase = 7 → s.mig.opened = true →
    s.mig.held = [] → s.mig.fin = none → recordBody s h c t = some d →
    hdrField h 8 8 = 1 → hdrField h 16 16 = 0 → hdrField h 128 32 = 0 → d.length = hdrField h 224 32 →
    ∃ r : State, exec (.migrationRecordReceive (peer, h) c t) s = .next r ∧
      (hdrField h 0 8 = 3 → d = [] → ∀ f,
        let va := hdrField h 160 48
        s.frameAt s.mig.asid (sextVa (BitVec.ofNat 64 va)) = some f →
        (s.mig.ranges.any (fun q => decide (q.1.toNat ≤ va) && decide (va < q.1.toNat + 4096 * q.2))) = true →
        s.leaseCovers s.mig.asid va = false → s.frameLeased f = false → (Map.getD 0 s.rround f).toNat ≤ hdrField h 208 16 →
        r.mig.recs = satInc s.mig.recs ∧ Map.getD false r.discarded f = true ∧
          Map.getD 0 r.rround f = BitVec.ofNat 16 (hdrField h 208 16) ∧
          ∀ a, r.hbm.get a = if f = a / 4096 then 0 else s.hbm.get a) ∧
      (hdrField h 0 8 = 4 →
        let a := s.mig.imgarea.toNat + s.mig.imgused
        (s.mig.imgsize < s.mig.imgused + d.length → r.mig.phase = 9 ∧ r.mig.imgused = s.mig.imgused ∧ r.mig.imgs = s.mig.imgs) ∧
        (s.mig.imgused + d.length ≤ s.mig.imgsize → r.mig.phase = 7 ∧ r.mig.imgs.length = s.mig.imgs.length + 1 ∧
          r.mig.imgused = s.mig.imgused + (d.length + 63) / 64 * 64 ∧ ((∀ i < d.length, inHbm (a + i) = true) →
            ∀ b, r.hbm.get b = if a ≤ b ∧ b < a + d.length then d.getD (b - a) 0 else s.hbm.get b))) ∧
      (hdrField h 0 8 = 5 → r.mig.phase = 7 ∧ r.mig.jobOk = true ∧ r.mig.jobBody = d ∧ r.mig.recs = satInc s.mig.recs ∧ r.hbm = s.hbm) ∧
      (hdrField h 0 8 = 6 →
        (leValue d ≠ s.mig.applied + 1 → r.mig.phase = 7 ∧ r.mig.fin = some (leValue d) ∧ r.mig.sent = s.mig.sent) ∧
        (leValue d = s.mig.applied + 1 → (∃ q, r.mig.sent = s.mig.sent ++ [q] ∧ hdrField q.1 0 8 = 7) ∧
          if s.mig.jobGood = true then r.mig.phase = 8 else r.mig.phase = 0 ∧ r.mig.res = 3))

/-! ## The security controller (21 R384-R400) -/

/-- A mailbox after a command with its answer. -/
def mailAfter (s : State) (host : Bool) (cmd : Nat) (req : List Byte) (st : BitVec 8) (resp : List Byte) : Mailbox :=
  { s.mailbox host with
    buf := ((s.mailbox host).buf.setBytes 0 req).setBytes 0 resp, len := BitVec.ofNat 16 req.length, cmd := BitVec.ofNat 8 cmd
    rlen := BitVec.ofNat 32 resp.length, status := st, late := [] }

/-- The state after a command that is refused with a status. -/
def refusedMail (s : State) (host : Bool) (cmd : Nat) (req : List Byte) (st : BitVec 8) : State :=
  s.setMailbox host (mailAfter s host cmd req st [])

/-- The controller is up and waits for a command: the module is ready, no GO is open, and one of its harts runs (21 R384, R394). -/
def MailReady (s : State) (host : Bool) : Prop :=
  s.power.ready = true ∧ (s.mailbox host).busy = false ∧ s.sec.turn = [] ∧ s.sec.runs = true

/-- 21 R384, R394-R396: before READY a mailbox does nothing; a command that is not listed gives BADCMD, one of the other mailbox DENIED,
which spends the nonce where it is an UNLOCK or LCADV. A mailbox that is BUSY takes no other command until its own has had its turn; served
in its turn, it is BUSY no more, and the next one waits. -/
def mailboxCommands : Prop :=
  ∀ (s : State) (host : Bool) (req : List Byte),
    (s.power.ready = false → (s.mailbox host).busy = false → s.sec.turn = [] →
      exec (.nonce host req) s = .next s ∧ exec (.measread host req) s = .next s) ∧
    (MailReady s host →
      ∀ cmd : BitVec 8, cmd = 0 ∨ 8 < cmd.toNat →
        exec (.mailboxBadCommand host cmd) s = .next (refusedMail s host cmd.toNat [] 1)) ∧
    (MailReady s false →
      (∀ i, i ∈ [(Instr.nonce false req, 1), (Instr.svnraise false req, 8)] → exec i.1 s = .next (refusedMail s false i.2 req 12)) ∧
      ∀ i, i ∈ [(Instr.unlock false req, 3), (Instr.lcadv false req, 7)] →
        exec i.1 s = .next (refusedMail (s.setSec { s.sec with nonce := none }) false i.2 req 12)) ∧
    (MailReady s true → exec (.extend true req) s = .next (refusedMail s true 6 req 12)) ∧
    (∀ i, i ∈ [(Instr.nonce host req, 1), (Instr.fuseread host req, 2), (Instr.unlock host req, 3), (Instr.logread host req, 4),
        (Instr.measread host req, 5), (Instr.extend host req, 6), (Instr.lcadv host req, 7), (Instr.svnraise host req, 8)] →
      (s.mailbox host).busy = true →
      ((∀ n rest, s.sec.turn ≠ (host, i.2, n) :: rest) → exec i.1 s = .next s) ∧
      ∀ n rest, s.sec.turn = (host, i.2, n) :: rest → s.sec.runs = true →
        ∃ t : State, exec i.1 s = .next t ∧ (t.mailbox host).busy = false ∧ t.sec.turn = rest)

/-- 21 R385, R390, R391, R396: NONCE answers 32 drawn bytes and keeps them as the one outstanding nonce; FUSEREAD answers fuse words,
with the words from 26 on as 0; LOGREAD the records present; MEASREAD the registers and the number of records. That a LOGREAD request is 4
bytes of SEQ and 4 of the number is the model's choice (log 15). -/
def mailboxReads : Prop :=
  ∀ (s : State) (host : Bool) (req : List Byte), MailReady s host →
    (s.sec.lcs ≠ 0 → s.sec.lcs ≠ 4 →
      (host = true → ∃ t : State, exec (.nonce true []) s = .next t ∧
        t.mailbox true = mailAfter s true 1 [] 0 (beBytes (Config.drbg s.sec.draws).toNat 32) ∧
        t.sec.nonce = some (Config.drbg s.sec.draws, s.time.toNat) ∧ t.sec.draws = s.sec.draws + 1) ∧
      exec (.measread host []) s = .next (s.setMailbox host (mailAfter s host 5 [] 0
        ((List.range 8).flatMap (fun i => digestBytes (s.sec.reg i)) ++ leBytes s.sec.log.length 4))) ∧
      (req.length = 8 → 1 ≤ fieldAt req 4 4 → fieldAt req 4 4 ≤ 63 →
        exec (.logread host req) s = .next (s.setMailbox host (mailAfter s host 4 req 0
          ((((s.sec.log.drop (fieldAt req 0 4)).take (fieldAt req 4 4)).zip
            (List.range ((s.sec.log.drop (fieldAt req 0 4)).take (fieldAt req 4 4)).length)).flatMap
              (fun e => logBytes (fieldAt req 0 4 + e.2) e.1)))))) ∧
    (req.length = 8 → 1 ≤ fieldAt req 4 4 → fieldAt req 0 4 + fieldAt req 4 4 ≤ 64 →
      exec (.fuseread host req) s = .next (s.setMailbox host (mailAfter s host 2 req 0
        ((List.range (fieldAt req 4 4)).flatMap (fun i =>
          leBytes (if fieldAt req 0 4 + i < 26 then Map.getD 0#64 s.sec.fuses (fieldAt req 0 4 + i) else 0#64).toNat 8)))))

/-- 21 R386, R388, R397: UNLOCK and LCADV spend the nonce. With a verified and bound token, UNLOCK opens a higher level that the
lifecycle allows while no job is registered; LCADV blows the new pattern once a reset, and the lifecycle in force stays; both wipe
the key slots and leave two records more. SVNRAISE blows bits of SVNF and leaves one. That an LCADV token is bound to device and nonce as an
UNLOCK token is, is the model's choice (log 15). -/
def mailboxTokens : Prop :=
  ∀ (s : State) (req : List Byte), MailReady s true → s.sec.lcs ≠ 0 → s.sec.lcs ≠ 4 →
    (∃ t : State, exec (.unlock true req) s = .next t ∧ t.sec.nonce = none ∧
      match s.sec.verify req 2 with
      | .error e => t.mailbox true = mailAfter s true 3 req e.code [] ∧ t.sec.keys = s.sec.keys ∧ t.sec.level = s.sec.level
      | .ok _ =>
        if s.sec.bound s.time req s.sec.nonce = true ∧ levelAllowed s.sec.lcs (fieldAt req 0xA8 1) = true ∧
            s.sec.level.toNat < fieldAt req 0xA8 1 ∧ s.jobs = [] then
          t.mailbox true = mailAfter s true 3 req 0 [] ∧ t.sec.keys = [] ∧ t.sec.level = BitVec.ofNat 2 (fieldAt req 0xA8 1) ∧
            t.sec.log.length = s.sec.log.length + 2
        else (t.mailbox true).status ≠ 0 ∧ t.sec.keys = s.sec.keys ∧ t.sec.level = s.sec.level ∧ t.sec.log = s.sec.log) ∧
    (∃ t : State, exec (.lcadv true req) s = .next t ∧ t.sec.nonce = none ∧ t.sec.lcf = s.sec.lcf ∧
      match s.sec.verify req 4 with
      | .error e => t.mailbox true = mailAfter s true 7 req e.code [] ∧ t.sec.fuses = s.sec.fuses ∧ t.sec.keys = s.sec.keys
      | .ok _ =>
        let new := fieldAt req 0xA8 1
        if s.sec.bound s.time req s.sec.nonce = true ∧ s.sec.lcadv = false ∧
            ((s.sec.lcs = 1 ∧ new = 2) ∨ (s.sec.lcs = 2 ∧ new = 3) ∨ new = 4) then
          (t.mailbox true).status = 0 ∧ t.sec.keys = [] ∧ t.sec.lcadv = true ∧
            t.sec.fuse 1 = (s.sec.fuse 1 ||| BitVec.ofNat 64 (2 ^ new - 1)) ∧ t.sec.log.length = s.sec.log.length + 2
        else (t.mailbox true).status ≠ 0 ∧ t.sec.fuses = s.sec.fuses ∧ t.sec.keys = s.sec.keys) ∧
    (∃ t : State, exec (.svnraise true req) s = .next t ∧
      (∀ i, (s.sec.fuse 1).getLsbD i = true → (t.sec.fuse 1).getLsbD i = true) ∧
      match s.sec.verify req 1 with
      | .error e => t = refusedMail s true 8 req e.code
      | .ok _ =>
        if s.sec.log.length < 1016 then
          (t.mailbox true).status = 0 ∧ t.sec.log.length = s.sec.log.length + 1 ∧ t.sec.keys = s.sec.keys ∧
            t.sec.fuse 1 = blowSvn 32 (min 32 (fieldAt req 0xA4 1) - s.sec.svn) (s.sec.fuse 1)
        else t = refusedMail s true 8 req 9)

/-- 21 R390: EXTEND takes a software event for M5 to M7: the register becomes the hash of itself and the event, and the log gets the
record; a log of 960 records gives FULL, and a bad type or register FORMAT (that status is the model's choice, log 15). -/
def measuredEvents : Prop :=
  ∀ (s : State) (req : List Byte), MailReady s false → s.sec.lcs ≠ 0 → s.sec.lcs ≠ 4 → req.length = 56 →
    let type := fieldAt req 0 2
    let r := fieldAt req 2 1
    (type < 0x100 ∨ r < 5 ∨ 7 < r ∨ fieldAt req 3 5 ≠ 0 → exec (.extend false req) s = .next (refusedMail s false 6 req 3)) ∧
    (0x100 ≤ type → 5 ≤ r → r ≤ 7 → fieldAt req 3 5 = 0 →
      (960 ≤ s.sec.log.length → exec (.extend false req) s = .next (refusedMail s false 6 req 9)) ∧
      (s.sec.log.length < 960 →
        let e : BitVec 384 := BitVec.ofNat 384 (leValue ((req.drop 8).take 48).reverse)
        ∃ t : State, exec (.extend false req) s = .next t ∧
          t.mailbox false = mailAfter s false 6 req 0 (leBytes s.sec.log.length 4) ∧
          t.sec.log = s.sec.log ++ [{ type := BitVec.ofNat 16 type, reg := BitVec.ofNat 8 r, time := s.time, dig := e }] ∧
          (∀ i, t.sec.reg i = if i = r then sha384 (digestBytes (s.sec.reg r) ++ digestBytes e) else s.sec.reg i)))

/-- 21 R392: inside a session KEYSET fills an empty slot below 64 in a lifecycle that allows it, KEYCLR empties one that no job uses, each with
one record; without a session both are refused, with DENIED (the model's choice, log 15). 21 R396: a nonce is gone 600 seconds after it was
drawn. -/
def keySlots : Prop :=
  ∀ (s : State),
    (∀ (slot : BitVec 8) (a b : BitVec 256),
      (s.sec.session = false → exec (.keyset slot a b) s = .next { s with reply := [12] } ∧
        exec (.keyclr slot) s = .next { s with reply := [12] }) ∧
      (s.sec.session = true → s.sec.log.length < 1000 → slot.toNat < 64 →
        (s.sec.lcs = 1 ∨ s.sec.lcs = 2 → Map.find s.sec.keys slot.toNat = none →
          ∃ t : State, exec (.keyset slot a b) s = .next t ∧ t.reply = [0] ∧ t.sec.keys = Map.put s.sec.keys slot.toNat (a, b) ∧
            t.sec.log.length = s.sec.log.length + 1) ∧
        (s.sec.lcs ≠ 0 → s.sec.lcs ≠ 4 → (∀ e ∈ s.jobs, e.2.keyslot ≠ slot.toNat) →
          ∃ t : State, exec (.keyclr slot) s = .next t ∧ t.reply = [0] ∧ t.sec.keys = Map.del s.sec.keys slot.toNat ∧
            t.sec.log.length = s.sec.log.length + 1) ∧
        ((∃ e ∈ s.jobs, e.2.keyslot = slot.toNat) → exec (.keyclr slot) s = .next { s with reply := [12] }) ∧
        (Map.find s.sec.keys slot.toNat ≠ none → exec (.keyset slot a b) s = .next { s with reply := [12] }))) ∧
    (∀ n at_, s.sec.nonce = some (n, at_) → ∃ t : State, exec .nonceExpire s = .next t ∧ t.sec = { s.sec with nonce := none } ∧
      (at_ + 60000000000) * 6 ≤ t.cycle ∧ s.cycle ≤ t.cycle)

/-- 21 R389, R399, R400: over SPDM (the messages are those of its standard, log 15) GET_VERSION begins a connection and ends a session;
before the algorithms are agreed on nothing else is served; GET_CERTIFICATE returns a part of the chain in slot 0; GET_MEASUREMENTS returns
a measurement register; a FINISH that proves the keys of the exchange opens a session, another does not, and END_SESSION closes it. In
a lifecycle state that serves nothing over SPDM there is no response. -/
def sessions : Prop :=
  ∀ (s : State) (arg : List Byte),
    (s.sec.lcs = 0 ∨ s.sec.lcs = 4 → ∀ code, exec (.spdmMessage code arg) s = .next s) ∧
    (s.sec.lcs ≠ 0 → s.sec.lcs ≠ 4 →
      (∃ t : State, exec (.spdmMessage 0x84 arg) s = .next t ∧ t.sec.session = false ∧ t.sec.spdm.stage = 1 ∧
        t.data = [0x10, 0x04, 0, 0, 0, 1, 0, 0x13]) ∧
      (s.sec.spdm.stage ≠ 3 → ∀ code : BitVec 8, code ∈ [0x81#8, 0x82#8, 0x83#8, 0xE0#8, 0xE4#8, 0xE5#8, 0xEC#8] →
        exec (.spdmMessage code arg) s = .next { s with data := spdmError 4 }) ∧
      (s.sec.spdm.stage = 3 →
        (arg.getD 0 0 = 0 → ∃ t : State, exec (.spdmMessage 0x82 arg) s = .next t ∧
          (let d := s.sec.certChain.drop (fieldAt arg 2 2)
           t.data.drop 8 = d.take (min (fieldAt arg 4 2) d.length)) ∧ t.sec.session = s.sec.session) ∧
        (arg.getD 0 0 = 0 → 1 ≤ (arg.getD 1 0).toNat → (arg.getD 1 0).toNat ≤ 8 →
          ∃ t : State, exec (.spdmMessage 0xE0 arg) s = .next t ∧ t.sec.session = s.sec.session ∧ t.sec.m = s.sec.m ∧
            (t.data.drop 15).take 48 = digestBytes (s.sec.reg ((arg.getD 1 0).toNat - 1))) ∧
        (s.sec.spdm.fin ≠ [] →
          let proof := hmac384 s.sec.spdm.fin (digestBytes (sha384 (s.sec.spdm.kex ++ (spdmVersion :: 0xE5 :: arg).take 4)))
          ((arg.drop 2).take 48 = proof → ∃ t : State, exec (.spdmMessage 0xE5 arg) s = .next t ∧ t.sec.session = true) ∧
          ((arg.drop 2).take 48 ≠ proof → ∃ t : State, exec (.spdmMessage 0xE5 arg) s = .next t ∧ t.sec = s.sec)) ∧
        (s.sec.spdm.fin = [] → ∃ t : State, exec (.spdmMessage 0xE5 arg) s = .next t ∧ t.sec = s.sec) ∧
        (s.sec.session = true → ∃ t : State, exec (.spdmMessage 0xEC arg) s = .next t ∧ t.sec.session = false)))

/-- 21 R389, R400: a report takes the next leaf of its block. With the block used up, it takes the first of the next 1,024 leaves, which it
reserves by writing NEXT before it signs; where that write fails, or no leaves are left, it answers EXHAUSTED, and NEXT stays. A nonce that
has not 32 bytes, or a lifecycle state without reports, is answered with DENIED (the model's choice, log 15). -/
def reports : Prop :=
  ∀ (s : State) (req : List Byte),
    let z := s.sec
    let signed (q : Nat) : List Byte :=
      let b := z.reportBody req
      b ++ ecdsaSign z.ecKey (sha384 b) z.secret ++
        lmsSign z.lmsSeed z.lmsId q (BitVec.setWidth 192 (Config.drbg (z.draws + 2))) (digestBytes (sha384 b))
    (req.length ≠ 32 ∨ z.lcs = 0 ∨ z.lcs = 4 → exec (.report req) s = .next { s with reply := [12], data := [] }) ∧
    (z.lcs ≠ 0 → z.lcs ≠ 4 → req.length = 32 →
      (z.leaf < 1024 → ∃ t : State, exec (.report req) s = .next t ∧ t.reply = [0] ∧ t.data = signed (z.next - 1024 + z.leaf) ∧
        t.sec = { z with leaf := z.leaf + 1, draws := z.draws + 3 }) ∧
      (1024 ≤ z.leaf → ∃ t : State, exec (.report req) s = .next t ∧
        (2 ^ 20 < z.next + 1024 → t.reply = [10] ∧ t.data = [] ∧ t.sec = z) ∧
        (z.next + 1024 ≤ 2 ^ 20 →
          (Config.flashFails s.freeCtr = true → t.reply = [10] ∧ t.data = [] ∧ t.sec.next = z.next ∧ t.sec.leaf = z.leaf) ∧
          (Config.flashFails s.freeCtr = false → t.reply = [0] ∧ t.data = signed z.next ∧ t.sec.next = z.next + 1024 ∧
            t.sec.leaf = 1 ∧ t.sec.draws = z.draws + 3))))

/-! ## The package (10 R189, R202, 18 R350, R351, 22 R405-R411) -/

/-- 10 R189, 22 R406, R408, 18 R350, R355: an access of an open peer flow is performed in the HBM, that of a closed one is not, and a read that
fails returns zeros flagged as failed; a host write inside HDM0 is performed; a host write of the weight window with its gates open and no
refresh is performed, with a closed gate freezes the function, and a frozen function writes nothing and reads zeros. Dropped writes are
logged. Without main power nothing is performed (22 R410). -/
def outsideAccesses : Prop :=
  (∀ (peer : BitVec 4) (addr : Word64) (n : Nat) (data : List Byte) (s : State), s.power.off = false →
    (s.peerOpen peer = false → ∀ fail, exec (.peerAccess peer addr false (n, fail) data) s = .next s ∧
      exec (.peerAccess peer addr true (n, fail) data) s = .next (s.dropRecord 0 addr.toNat 11)) ∧
    (s.peerOpen peer = true →
      exec (.peerAccess peer addr false (n, none) data) s = .next { s with data := s.physRead addr.toNat n, reply := [0] } ∧
      (∀ pass, ∃ t : State, exec (.peerAccess peer addr false (n, some pass) data) s = .next t ∧
        t.data = List.replicate n 0 ∧ t.reply = [1]) ∧
      ∃ t : State, exec (.peerAccess peer addr true (n, none) data) s = .next t ∧ ((∀ i < data.length, inHbm (addr.toNat + i) = true) →
        ∀ a, t.hbm.get a =
          if addr.toNat ≤ a ∧ a < addr.toNat + data.length then data.getD (a - addr.toNat) 0 else s.hbm.get a))) ∧
  (∀ (port : BitVec 1) (off : Word64) (n : Nat) (data : List Byte) (s : State), s.power.off = false →
    (s.cxlFrozen.getLsbD port.toNat = true → ∀ w,
      exec (.hostMemWrite port w off data) s = .next (s.dropRecord port.toNat off.toNat (if w then 3 else 1)) ∧
      exec (.hostMemRead port w off n) s = .next { s with data := List.replicate n 0 }) ∧
    (s.cxlFrozen.getLsbD port.toNat = false →
      exec (.hostMemRead port false off n) s = .next { s with data := s.physRead off.toNat n } ∧
      (∃ t : State, exec (.hostMemWrite port false off data) s = .next t ∧ ((∀ i < data.length, inHbm (off.toNat + i) = true) →
        ∀ a, t.hbm.get a =
          if off.toNat ≤ a ∧ a < off.toNat + data.length then data.getD (a - off.toNat) 0 else s.hbm.get a)) ∧
      (s.weightBusy off.toNat n = false → exec (.hostMemRead port true off n) s =
        .next { s with data := (List.range n).map (fun i => s.weight.get ((off.toNat + i) % 2 ^ 35)) }) ∧
      (s.gatesOpen off.toNat data.length = true → s.weightBusy off.toNat data.length = false →
        off.toNat + data.length ≤ 2 ^ 35 → ∃ t : State, exec (.hostMemWrite port true off data) s = .next t ∧
          ∀ a, t.weight.get a =
            if off.toNat ≤ a ∧ a < off.toNat + data.length then data.getD (a - off.toNat) 0 else s.weight.get a) ∧
      (s.gatesOpen off.toNat data.length = false → ∃ t : State, exec (.hostMemWrite port true off data) s = .next t ∧
        t.weight = s.weight ∧ t.cxlFrozen.getLsbD port.toNat = true))) ∧
  (∀ s : State, s.power.off = true →
    (∀ peer addr w n data, exec (.peerAccess peer addr w n data) s = .next s) ∧
    (∀ port w off data n, exec (.hostMemWrite port w off data) s = .next s ∧ exec (.hostMemRead port w off n) s = .next s) ∧
    ∀ die off who v, exec (.registerWrite die off who v) s = .next s)

/-- 22 R408, 18 R354: the dwords of a peer entry, where FROZ written 1 opens the flow again; a function-level reset releases the
function of its port alone. -/
def peersAndResets : Prop :=
  (∀ (idx : BitVec 4) (part : BitVec 2) (v : Word64) (s : State), ∃ t : State, exec (.peerTableWrite idx part v) s = .next t ∧
    t = { s with peers := t.peers } ∧
    (∀ i, i ≠ idx.toNat → Map.getD 0#256 t.peers i = Map.getD 0#256 s.peers i) ∧
    (let e := Map.getD 0#256 s.peers idx.toNat
     let f := Map.getD 0#256 t.peers idx.toNat
     f.extractLsb' 0 64 = (if part = 0 then v else e.extractLsb' 0 64) ∧
     f.extractLsb' 64 64 = (if part = 1 then v else e.extractLsb' 64 64) ∧
     f.getLsbD 128 = (if part = 2 then v.getLsbD 0 else e.getLsbD 128) ∧
     f.getLsbD 129 = (e.getLsbD 129 && !(decide (part = 2) && v.getLsbD 1)))) ∧
  (∀ (port : BitVec 1) (s : State), ∃ t : State, exec (.functionLevelReset port) s = .next t ∧
    t = { s with cxlFrozen := t.cxlFrozen } ∧
    ∀ i, i < 2 → t.cxlFrozen.getLsbD i = (s.cxlFrozen.getLsbD i && decide (i ≠ port.toNat)))

/-- 10 R200, R202, 18 R350, R351: the write gate opens on an idle die only and always closes, and the executive gives a job a region of the
weight store that overlaps no other; a deferred test runs when its part is free, fences a core that fails, and is then no longer due; an
error in the HBM that is corrected is counted, and of one that is not the line reads zero (said where the log is full, so that no record is
written), and the consumer's word gets UNCORR; a clean copy that fails is dropped, and fetched again; an error of the HBM can wait for the
next access of a hart. The operands of a patrol are the model's (log 16). -/
def gatesAndTests : Prop :=
  (∀ (die : BitVec 3) (v : Word64) (s : State),
    (v.getLsbD 0 = true → s.dieIdle die.toNat = false → exec (.wsgateWrite die (.inl v)) s = .next s) ∧
    (v.getLsbD 0 = false ∨ s.dieIdle die.toNat = true →
      exec (.wsgateWrite die (.inl v)) s = .next (s.setDie die.toNat { s.die die.toNat with wsOpen := v.getLsbD 0 })) ∧
    (∀ (job : BitVec 16) (base n : Nat), Map.find s.jobs job.toNat ≠ none → base + n ≤ 64 → n ≠ 0 → (s.die die.toNat).badGroups = 0 →
      s.regions = [] → ∃ t : State, exec (.wsgateWrite die (.inr (job, base, n))) s = .next t ∧
        t.regions = [(job.toNat * 8 + die.toNat, 2 ^ 26 * base, 2 ^ 26 * n)])) ∧
  (∀ (die : BitVec 3) (kind : BitVec 8) (part : Nat) (pass : Bool) (s : State),
    ((kind.toNat, part) ∉ (s.die die.toNat).testDue → exec (.deferredSelfTest die kind part pass) s = .next s) ∧
    ((kind.toNat, part) ∈ (s.die die.toNat).testDue → 4 ≤ kind.toNat → kind.toNat ≤ 7 →
      s.coreHoldsNothing (partCore kind.toNat part) = true →
      ∃ t : State, exec (.deferredSelfTest die kind part pass) s = .next t ∧
        (kind.toNat, part) ∉ (t.die die.toNat).testDue ∧
        (t.core (partCore kind.toNat part)).fenced = ((s.core (partCore kind.toNat part)).fenced || !pass))) ∧
  (∀ (a : Nat) (pass : Bool) (who : Option (Nat × Nat × Nat)) (s : State),
    (inHbm a = true → s.partFenced (a / 2 ^ 38) 1 (a / 4096) = false →
      exec (.idleMemoryPatrol (1, a, who, none) true true) s = .next (s.setDie (a / 2 ^ 38)
        { s.die (a / 2 ^ 38) with elcorr := satInc (s.die (a / 2 ^ 38)).elcorr }) ∧
      ∃ t : State, exec (.idleMemoryPatrol (1, a, who, none) false pass) s = .next t ∧
        ((s.die (a / 2 ^ 38)).elprod - (s.die (a / 2 ^ 38)).elcons = BitVec.ofNat 32 (elSize (s.die (a / 2 ^ 38)).elbase) →
          ∀ b, t.hbm.get b = if a / 64 = b / 64 then 0 else s.hbm.get b) ∧
        ∀ w x, who = some w → Map.find s.units w.2.2 = some x → pass = true →
          Map.find t.units w.2.2 = some (x.absorb w.1 ⟨flagUncorr + 1, 0, s.cycle⟩)) ∧
    (∀ b, exec (.idleMemoryPatrol (0, a, who, none) b pass) s =
      .next { s with l1 := Map.del s.l1 a, icache := Map.del s.icache a }) ∧
    (∀ c sl u fetch, inHbm a = true → exec (.idleMemoryPatrol (1, a, some (c, sl, u), some fetch) false pass) s =
      .next { s with flaw := some { core := c, slot := sl, struct := 1, pass := pass, fetch := fetch } }))

/-- 22 R409: at a tick GATE goes up by one above the cap in force and down by one at least 100 W below it, within 0 to 63. That the halved cap
is half of the CAP as limited to 1,000 to 4,400 is the model's choice (log 16). -/
def powerTicks : Prop :=
  ∀ (w : BitVec 16) (s : State), s.power.off = false →
    let c := if s.power.cap.toNat < 1000 then 1000 else min 4400 s.power.cap.toNat
    let lim := if s.power.hot = true then c / 2 else c
    ∃ t : State, exec (.powerManagerTick w) s = .next t ∧ t = { s with power := { s.power with power := w, gate := t.power.gate } } ∧
      (lim < w.toNat → t.power.gate.toNat = min 63 (s.power.gate.toNat + 1)) ∧
      (w.toNat ≤ lim → lim < w.toNat + 100 → t.power.gate = s.power.gate) ∧
      (w.toNat + 100 ≤ lim → t.power.gate.toNat = s.power.gate.toNat - 1)

/-- 22 R410: from 100 degrees on the cap is halved and THERM set, below 95 it is whole again and THERM stays; at 110 degrees, and when main power
is removed, only fuses and protected flash keep their contents; what is outside the module, and what is to come, stays. -/
def thermalEvents : Prop :=
  ∀ (s : State),
    (∀ temp : BitVec 16, s.power.off = false → temp.toNat < 110 → ∃ t : State, exec (.thermalLimit temp) s = .next t ∧
      t = { s with power := { s.power with temp := temp, hot := t.power.hot, therm := t.power.therm } } ∧
      t.power.hot = (if 100 ≤ temp.toNat then true else if temp.toNat < 95 then false else s.power.hot) ∧
      t.power.therm = (s.power.therm || decide (100 ≤ temp.toNat))) ∧
    (∃ t : State, exec .mainPowerLoss s = .next t ∧ t.hbm = [] ∧ t.scratch = [] ∧ t.weight = [] ∧ t.units = [] ∧ t.jobs = [] ∧
      t.cores = [] ∧ t.sec.keys = [] ∧ t.sec.log = [] ∧ t.sec.fuses = s.sec.fuses ∧ t.sec.next = s.sec.next ∧ t.sec.sram = [] ∧
      t.hroots = [] ∧ t.power.ready = false ∧ t.power.off = true ∧ t.hostMem = s.hostMem ∧ t.agenda = s.agenda ∧
      (∀ temp : BitVec 16, 110 ≤ temp.toNat → exec (.thermalShutdown temp) s = .next t) ∧
      ∀ temp : BitVec 16, 110 ≤ temp.toNat → s.power.off = false → exec (.thermalLimit temp) s = .next t)

/-- 22 R411, 21 R386, R388, R390: the steps of bring-up. One that fails, or that does not accept the firmware it verifies, stops the bring-up and
is recorded; one that completes counts. The first accepts the controller's firmware and measures it in M0; the second the device's, measured
in M1 with its FWVER, and the fuse state in M2; the sixth starts the executive; the seventh sets READY. In SCRAP no device firmware is started: the
bring-up completes without it (the model's choice, log 15). -/
def bringUps : Prop :=
  ∀ (s : State) (man img : List Byte) (bad : List (Nat × Nat × Nat)),
    let p := s.power
    let refused : Prop := (p.bstep = 0 ∧ s.sec.acceptFirmware 0 man img = none) ∨
      (p.bstep = 1 ∧ s.sec.lcs ≠ 4 ∧ s.sec.acceptFirmware 1 man img = none)
    (p.ready = true ∨ p.failed = true → ∀ ok, exec (.bringUp (ok, man, img, bad)) s = .next s) ∧
    (p.ready = false → p.failed = false → ∀ ok, ok = false ∨ refused →
      ∃ t : State, exec (.bringUp (ok, man, img, bad)) s = .next t ∧ t.power.failed = true ∧ t.power.bstep = p.bstep ∧
        t.power.ready = false ∧ t.power.faults = p.faults ++ [p.bstep + 1] ∧ t.sec = s.sec) ∧
    (p.ready = false → p.failed = false → p.bstep.toNat < 7 → ¬ refused →
      ∃ t : State, exec (.bringUp (true, man, img, bad)) s = .next t ∧ t.power.bstep = p.bstep + 1 ∧ t.power.failed = false ∧
        t.power.off = false ∧ t.power.ready = decide (p.bstep = 6) ∧
        t.power.exec = (if p.bstep = 5 then decide (s.sec.lcs ≠ 4) else p.exec) ∧
        (∀ d v, p.bstep = 0 → s.sec.acceptFirmware 0 man img = some (d, v) → t.sec.log.length = 1 ∧
          t.sec.reg 0 = sha384 (List.replicate 48 0 ++ digestBytes d) ∧ t.sec.reg 1 = 0) ∧
        (∀ d v, p.bstep = 1 → s.sec.lcs ≠ 4 → s.sec.acceptFirmware 1 man img = some (d, v) →
          t.sec.log.length = s.sec.log.length + 2 ∧ t.sec.fwver = v ∧
          t.sec.reg 1 = sha384 (digestBytes (s.sec.reg 1) ++ digestBytes d)) ∧
        (p.bstep = 1 → s.sec.lcs = 4 → t.sec.log.length = s.sec.log.length + 1 ∧ t.sec.fwver = s.sec.fwver ∧ t.sec.reg 1 = s.sec.reg 1) ∧
        (2 ≤ p.bstep.toNat → t.sec = s.sec) ∧
        (p.bstep = 4 → ∀ q ∈ bad, 4 ≤ q.2.1 → q.2.1 ≤ 7 → (t.core (partCore q.2.1 q.2.2)).fenced = true))

/-- 00 R8, 22 R404, R405, 21 R398: a register write that is no aligned dword, or that the host may not make, is ignored; the host clears THERM by
writing 1; the power cap takes its 16 bits; a forwarding entry is written as by its event. A read answers with the register: the host reads
MODSTAT, and 0 where its window shows no register. Below debug level 2 the host does not reach the external debug module. -/
def registerWrites : Prop :=
  ∀ (die : BitVec 4) (off : BitVec 24) (who : Writer) (v : Word64) (s : State), s.power.off = false →
    ((∀ ask, who ≠ .debug ask) → off.toNat % 8 ≠ 0 ∨ 9 < die.toNat → exec (.registerWrite die off who (some v)) s = .next s) ∧
    (who = .host → s.hostMay die.toNat off.toNat = false → exec (.registerWrite die off who (some v)) s = .next s) ∧
    exec (.registerWrite 8 0 .host (some v)) s = .next { s with power := { s.power with therm := s.power.therm && !v.getLsbD 1 } } ∧
    (who = .smode ∨ who = .mmode →
      exec (.registerWrite 8 0x14000 who (some v)) s = .next { s with power := { s.power with cap := v.setWidth 16 } }) ∧
    (who = .smode ∨ who = .mmode → die.toNat < 8 → off.toNat < 0x4000 → off.toNat % 8 = 0 →
      exec (.registerWrite die off who (some v)) s =
        exec (.fwdTableWrite (BitVec.ofNat 3 die.toNat) (BitVec.ofNat 10 (off.toNat / 16)) (decide (off.toNat / 8 % 2 = 1)) v) s) ∧
    (∃ r : Word64, exec (.registerWrite 8 0 .host none) s = .next { s with reply := [r] } ∧ r.getLsbD 0 = s.power.ready ∧
      r.getLsbD 1 = s.power.therm ∧ r.extractLsb' 8 8 = s.power.bstep) ∧
    (die.toNat < 8 → off.toNat < 0x4000 → exec (.registerWrite die off .host none) s = .next { s with reply := [0] }) ∧
    (s.sec.level.toNat < 2 → ∀ ask w, exec (.registerWrite die off (.debug ask) w) s = .next { s with reply := [] })

end Sys2Proof.Claims

/-! ## The obligations -/

/-- Register arithmetic of the harts. -/
def Obligations.HartAlu : Prop :=
  Sys2Proof.Claims.hartRegisterResults ∧ Sys2Proof.Claims.hartWordResults

/-- Register-immediate arithmetic of the harts. -/
def Obligations.HartImmediates : Prop :=
  Sys2Proof.Claims.hartImmediateResults

/-- Zba, Zbb and Zicond. -/
def Obligations.HartBitManipulation : Prop :=
  Sys2Proof.Claims.hartBitResults ∧ Sys2Proof.Claims.hartUnaryResults

/-- Multiplication and division of the harts. -/
def Obligations.HartMultiplyDivide : Prop :=
  Sys2Proof.Claims.hartMultiplyResults ∧ Sys2Proof.Claims.hartDivideResults

/-- Jumps and branches of the harts. -/
def Obligations.HartControl : Prop :=
  Sys2Proof.Claims.hartJumps ∧ Sys2Proof.Claims.hartBranches

/-- The values the spec gives for reset. -/
def Obligations.ResetValues : Prop :=
  Sys2Proof.Claims.resetValues

/-- The memories keep their form at every step; the invariants hold at reset. -/
def Obligations.ResetInvariants : Prop :=
  Sys2Proof.Claims.resetMemory ∧ Sys2Proof.Claims.resetHalts ∧ Sys2Proof.Claims.stepKeepsMemory

/-- Decoding reads back every encoded instruction. -/
def Obligations.DecodeEncode : Prop :=
  Sys2Proof.Claims.decodeEncode

/-- Words printed by the spec decode to their instructions. -/
def Obligations.DecodeWords : Prop :=
  Sys2Proof.Claims.decodeWords

/-- A step runs the decoded instruction or the event. -/
def Obligations.StepRuns : Prop :=
  Sys2Proof.Claims.stepRunsInstruction ∧ Sys2Proof.Claims.stepRunsEvent ∧ Sys2Proof.Claims.stepIllegalWord ∧ Sys2Proof.Claims.stepLostWord

/-- Every step answers a next state. -/
def Obligations.StepAnswers : Prop :=
  Sys2Proof.Claims.stepAnswers

/-- A step leaves the arrived participants of a debug step halted. -/
def Obligations.StepKeepsHalts : Prop :=
  Sys2Proof.Claims.stepKeepsHalts

/-- What completing an instruction changes. -/
def Obligations.FinishFrame : Prop :=
  Sys2Proof.Claims.finishFrame

/-- The uniform file and the masks. -/
def Obligations.RegisterFiles : Prop :=
  Sys2Proof.Claims.uniformFile ∧ Sys2Proof.Claims.maskWrites

/-- The checks of a device instruction at issue. -/
def Obligations.IssueChecks : Prop :=
  Sys2Proof.Claims.machineModeRunsNoDevice ∧ Sys2Proof.Claims.laneChecks ∧ Sys2Proof.Claims.clauseMalformed

/-- Taking an exception. -/
def Obligations.Traps : Prop :=
  Sys2Proof.Claims.trapEntry ∧ Sys2Proof.Claims.trapFrame

/-- Exceptions inside a gate frame. -/
def Obligations.FrameFaults : Prop :=
  Sys2Proof.Claims.frameFaults

/-- Which interrupt is taken. -/
def Obligations.InterruptOrder : Prop :=
  Sys2Proof.Claims.interruptOrder

/-- ECALL, EBREAK, SRET and MRET. -/
def Obligations.CallsAndReturns : Prop :=
  Sys2Proof.Claims.callsAndBreaks ∧ Sys2Proof.Claims.trapReturns

/-- The CSR instructions. -/
def Obligations.CsrInstructions : Prop :=
  Sys2Proof.Claims.csrInstructions ∧ Sys2Proof.Claims.csrRegisters

/-- Writes of gstat. -/
def Obligations.GstatWrites : Prop :=
  Sys2Proof.Claims.gstatWrites

/-- Waits, clause instructions and uniform moves. -/
def Obligations.WaitsAndMoves : Prop :=
  Sys2Proof.Claims.systemWaits ∧ Sys2Proof.Claims.clauseAndWaits ∧ Sys2Proof.Claims.uniformMoves

/-- The mask stack and the mask moves. -/
def Obligations.Masks : Prop :=
  Sys2Proof.Claims.maskStack ∧ Sys2Proof.Claims.maskMoves

/-- LBR. -/
def Obligations.MaskBranch : Prop :=
  Sys2Proof.Claims.maskBranch

/-- LJALR and LEXIT. -/
def Obligations.LaneControl : Prop :=
  Sys2Proof.Claims.laneJump ∧ Sys2Proof.Claims.laneExit

/-- Two-source integer lane instructions. -/
def Obligations.LaneIntegerResults : Prop :=
  Sys2Proof.Claims.laneIntegerResults ∧ Sys2Proof.Claims.finishedIntegers

/-- Immediate lane instructions. -/
def Obligations.LaneImmediateResults : Prop :=
  Sys2Proof.Claims.laneImmediateResults

/-- Integer lane compares. -/
def Obligations.LaneCompareResults : Prop :=
  Sys2Proof.Claims.laneCompareResults

/-- Bit-field lane instructions and uniform sources. -/
def Obligations.LaneBitsAndUniform : Prop :=
  Sys2Proof.Claims.laneRoutes ∧ Sys2Proof.Claims.laneBitResults ∧ Sys2Proof.Claims.laneUniformResults

/-- Lane float arithmetic. -/
def Obligations.LaneFloat : Prop :=
  Sys2Proof.Claims.laneFloatResults ∧ Sys2Proof.Claims.floatSpecials ∧ Sys2Proof.Claims.floatRounding ∧ Sys2Proof.Claims.finishedFloats

/-- Approximations, conversions and float compares. -/
def Obligations.LaneApproximations : Prop :=
  Sys2Proof.Claims.laneApproxResults ∧ Sys2Proof.Claims.laneConvertAndFloatCompare ∧ Sys2Proof.Claims.conversions

/-- Instructions across lanes. -/
def Obligations.CrossLane : Prop :=
  Sys2Proof.Claims.crossLaneMasks ∧ Sys2Proof.Claims.crossLaneSums ∧ Sys2Proof.Claims.shuffles

/-- Homes, walks and leases of pages, and writes at a home. -/
def Obligations.Homes : Prop :=
  Sys2Proof.Claims.pageHomes ∧
  Sys2Proof.Claims.pageWalks ∧
  Sys2Proof.Claims.translations ∧
  Sys2Proof.Claims.hostWalks ∧
  Sys2Proof.Claims.leaseChecks ∧
  Sys2Proof.Claims.writesAtHome

/-- Loads and stores of the harts. -/
def Obligations.HartLoadsAndStores : Prop :=
  Sys2Proof.Claims.hartPlaces ∧ Sys2Proof.Claims.hartLoads ∧ Sys2Proof.Claims.hartStores

/-- AMOs, LR and SC. -/
def Obligations.HartAtomics : Prop :=
  Sys2Proof.Claims.hartAtomics ∧ Sys2Proof.Claims.hartReservations

/-- Lane memory instructions and DISCARD. -/
def Obligations.LaneMemory : Prop :=
  Sys2Proof.Claims.laneMemoryIssues ∧ Sys2Proof.Claims.laneMemoryTraps ∧ Sys2Proof.Claims.discard

/-- Events of the memory system. -/
def Obligations.MemoryEvents : Prop :=
  Sys2Proof.Claims.memoryEvents ∧ Sys2Proof.Claims.homeEvents

/-- Updates of a barrier object. -/
def Obligations.BarrierObjectUpdates : Prop :=
  Sys2Proof.Claims.barrierObjects

/-- Copy requests and fences. -/
def Obligations.CopiesAndFences : Prop :=
  Sys2Proof.Claims.copyRequests ∧ Sys2Proof.Claims.fencesAndJoins

/-- Barrier objects and unit barriers. -/
def Obligations.Barriers : Prop :=
  Sys2Proof.Claims.barrierObjectInits ∧ Sys2Proof.Claims.barrierInstructions ∧ Sys2Proof.Claims.barrierPhases ∧ Sys2Proof.Claims.unitBarriers

/-- Events of the copy engine. -/
def Obligations.CopyEvents : Prop :=
  Sys2Proof.Claims.copyEvents ∧ Sys2Proof.Claims.copiedLines

/-- Steps and events of the matrix engine. -/
def Obligations.MatrixSteps : Prop :=
  Sys2Proof.Claims.blockSums ∧ Sys2Proof.Claims.alignedSums ∧ Sys2Proof.Claims.matrixStep ∧ Sys2Proof.Claims.matrixEvents

/-- Operand slots, fills and steps. -/
def Obligations.MatrixSlots : Prop :=
  Sys2Proof.Claims.slotsAndBellwether ∧ Sys2Proof.Claims.fillsAndSteps

/-- Accumulators, tile words and reductions. -/
def Obligations.MatrixTiles : Prop :=
  Sys2Proof.Claims.accumulators ∧ Sys2Proof.Claims.tileWords ∧ Sys2Proof.Claims.reductions

/-- GATE, GRET and GABORT. -/
def Obligations.Gates : Prop :=
  Sys2Proof.Claims.gateCalls ∧ Sys2Proof.Claims.gateAborts

/-- Messages, handlers and deques. -/
def Obligations.Tasks : Prop :=
  Sys2Proof.Claims.messages ∧ Sys2Proof.Claims.deques

/-- Range forks, joins and errands. -/
def Obligations.ForksAndErrands : Prop :=
  Sys2Proof.Claims.rangeForks ∧ Sys2Proof.Claims.errands

/-- Events of messages, tasks and results. -/
def Obligations.TaskEvents : Prop :=
  Sys2Proof.Claims.taskEvents

/-- Batches are disjoint and maximal. -/
def Obligations.DisjointBatches : Prop :=
  Sys2Proof.Claims.disjointBatches

/-- The Sheepdog. -/
def Obligations.Sheepdog : Prop :=
  Sys2Proof.Claims.sheepdogInstructions ∧ Sys2Proof.Claims.sheepdogEvents

/-- Kernel images and the code heap. -/
def Obligations.CodeHeap : Prop :=
  Sys2Proof.Claims.imageLoads ∧ Sys2Proof.Claims.kernelReplacements ∧ Sys2Proof.Claims.compactionAndReclaim

/-- Forwarding, instruction caches and events of slots. -/
def Obligations.CachesAndSlotEvents : Prop :=
  Sys2Proof.Claims.fwdWrites ∧
  Sys2Proof.Claims.icacheInvalidation ∧
  Sys2Proof.Claims.icacheFills ∧
  Sys2Proof.Claims.eligibleSplits ∧
  Sys2Proof.Claims.arbitrations ∧
  Sys2Proof.Claims.slotEvents

/-- Doorbells, queue registers and dispatch. -/
def Obligations.LaunchQueues : Prop :=
  Sys2Proof.Claims.doorbells ∧ Sys2Proof.Claims.queueRegisters ∧ Sys2Proof.Claims.dispatches

/-- Admission, leases, placement and replays. -/
def Obligations.Launches : Prop :=
  Sys2Proof.Claims.admissions ∧ Sys2Proof.Claims.leaseInstalls ∧ Sys2Proof.Claims.unitsPlacedAndRetired ∧ Sys2Proof.Claims.replaysAndPhases

/-- The completion tree, retirement and cancels. -/
def Obligations.Completion : Prop :=
  Sys2Proof.Claims.completionTree ∧ Sys2Proof.Claims.retirements ∧ Sys2Proof.Claims.cancelsAndEnds

/-- The debug port, saves and the trace. -/
def Obligations.DebugAndSaves : Prop :=
  Sys2Proof.Claims.debugHaltsAndResumes ∧
  Sys2Proof.Claims.debugSteps ∧
  Sys2Proof.Claims.preemptionAndResume ∧
  Sys2Proof.Claims.savesComplete ∧
  Sys2Proof.Claims.summaries

/-- Snapshots and migration. -/
def Obligations.Migration : Prop :=
  Sys2Proof.Claims.snapshots ∧
  Sys2Proof.Claims.migrationStarts ∧
  Sys2Proof.Claims.migrationStops ∧
  Sys2Proof.Claims.migrationRounds ∧
  Sys2Proof.Claims.migrationEnds ∧
  Sys2Proof.Claims.migrationRecords ∧
  Sys2Proof.Claims.receivedRecords

/-- The mailbox of the security controller. -/
def Obligations.SecurityMailbox : Prop :=
  Sys2Proof.Claims.mailboxCommands ∧ Sys2Proof.Claims.mailboxReads ∧ Sys2Proof.Claims.mailboxTokens ∧ Sys2Proof.Claims.measuredEvents

/-- Key slots, sessions and reports. -/
def Obligations.KeysAndSessions : Prop :=
  Sys2Proof.Claims.keySlots ∧ Sys2Proof.Claims.sessions ∧ Sys2Proof.Claims.reports

/-- The package. -/
def Obligations.Package : Prop :=
  Sys2Proof.Claims.outsideAccesses ∧
  Sys2Proof.Claims.peersAndResets ∧
  Sys2Proof.Claims.gatesAndTests ∧
  Sys2Proof.Claims.powerTicks ∧
  Sys2Proof.Claims.thermalEvents ∧
  Sys2Proof.Claims.bringUps ∧
  Sys2Proof.Claims.registerWrites
end

