-- ==== Sys2Proof/Laws/Crypto.lean ====
section
/-! SUPPORT. AES-256-GCM: the lengths of its blocks, and that opening a sealed text gives the text. -/

namespace Sys2Proof.Machine

@[simp] theorem xorBytes_length (a b : List Byte) : (xorBytes a b).length = min a.length b.length := by simp [xorBytes]

/-- The same stream, taken twice, leaves the text. -/
theorem xorBytes_twice (a b : List Byte) (h : a.length = b.length) : xorBytes (xorBytes a b) b = a := by
  induction a generalizing b with
  | nil => rfl
  | cons x a ih =>
    cases b with
    | nil => cases h
    | cons y b => simp [xorBytes] at ih ⊢; exact ih b (by simpa using h)

@[simp] theorem leBytes_length (v n : Nat) : (leBytes v n).length = n := by
  induction n generalizing v with
  | zero => rfl
  | succ n ih => simp [leBytes, ih]

@[simp] theorem beBytes_length (v n : Nat) : (beBytes v n).length = n := by simp [beBytes]

theorem expandKey_words (n i : Nat) (rc : Byte) (ws : List (List Byte)) (hl : 8 ≤ ws.length) (h : ∀ w ∈ ws, w.length = 4) :
    (expandKey n i rc ws).length = ws.length + n ∧ ∀ w ∈ expandKey n i rc ws, w.length = 4 := by
  induction n generalizing i rc ws with
  | zero => exact ⟨rfl, h⟩
  | succ n ih =>
    have at_ (k : Nat) (hk : k < 8) : (ws.getD k []).length = 4 := by
      rw [List.getD_eq_getElem _ _ (by omega)]; exact h _ (List.getElem_mem _)
    have new : ∀ w ∈ (xorBytes (ws.getD 7 []) (if i % 8 = 0 then xorBytes (((ws.getD 0 []).drop 1 ++ (ws.getD 0 []).take 1).map subByte)
        [rc, 0, 0, 0] else if i % 8 = 4 then (ws.getD 0 []).map subByte else ws.getD 0 [])) :: ws, w.length = 4 := by
      intro w hw
      rcases List.mem_cons.1 hw with rfl | hw
      · have h0 := at_ 0 (by omega)
        generalize ws.getD 0 [] = v at h0
        rw [xorBytes_length, at_ 7 (by omega)]
        split
        · simp [h0]
        · split <;> simp [h0]
      · exact h w hw
    have := ih (i + 1) (if i % 8 = 0 then xtime rc else rc) _ (by simp; omega) new
    exact ⟨by rw [expandKey]; simpa [Nat.add_comm, Nat.add_left_comm, Nat.add_assoc] using this.1, this.2⟩

theorem messageBlocks_words (d : List Byte) (h : d.length = 32) :
    (messageBlocks 4 d).length = 8 ∧ ∀ w ∈ messageBlocks 4 d, w.length = 4 := by
  refine ⟨by simp [messageBlocks, h], fun w hw => ?_⟩
  simp only [messageBlocks, h, List.mem_map, List.mem_range] at hw
  obtain ⟨i, hi, rfl⟩ := hw
  simp [h]; omega

/-- Every round key has 16 bytes. -/
theorem roundKeys_length (key : BitVec 256) (i : Nat) (hi : i < 15) : ((roundKeys key).getD i []).length = 16 := by
  obtain ⟨l8, w4⟩ := messageBlocks_words (beBytes key.toNat 32) (by simp)
  obtain ⟨hl, hw⟩ := expandKey_words 52 8 1 (messageBlocks 4 (beBytes key.toNat 32)).reverse (by simp [l8]) (by simpa using w4)
  simp only [List.length_reverse, l8] at hl
  unfold roundKeys
  rw [List.getD_eq_getElem _ _ (by simpa using hi)]
  simp only [List.getElem_map, List.getElem_range, List.length_flatten]
  generalize hq : (((expandKey 52 8 1 (messageBlocks 4 (beBytes key.toNat 32)).reverse).reverse.drop (4 * i)).take 4).map List.length = q
  have hn : q.length = 4 := by
    rw [← hq, List.length_map, List.length_take, List.length_drop, List.length_reverse, hl]; omega
  have h4 : ∀ n ∈ q, n = 4 := by
    intro n hm
    rw [← hq, List.mem_map] at hm
    obtain ⟨w, hw', rfl⟩ := hm
    exact hw w (by simpa using List.mem_of_mem_drop (List.mem_of_mem_take hw'))
  rw [List.eq_replicate_of_mem h4, hn]; rfl

theorem aesBlock_length (key : BitVec 256) (b : List Byte) : (aesBlock (roundKeys key) b).length = 16 := by
  have h := roundKeys_length key 14 (by omega)
  simp only [aesBlock, xorBytes_length, h, shiftRows, List.length_map, List.length_range]
  rfl

theorem gcmStream_length (key : BitVec 256) (nonce : BitVec 96) (n : Nat) : (gcmStream (roundKeys key) nonce n).length = n := by
  have all (l : List Nat) : (l.flatMap (fun i => aesBlock (roundKeys key) (beBytes nonce.toNat 12 ++ beBytes (i + 2) 4))).length =
      16 * l.length := by
    induction l with
    | nil => rfl
    | cons a l ih => simp [List.flatMap_cons, aesBlock_length, ih]; omega
  rw [gcmStream, List.length_take, all, List.length_range]; omega

/-- Opening what was sealed gives the text. -/
theorem aesGcmOpen_seal (key : BitVec 256) (nonce : BitVec 96) (aad text : List Byte) :
    aesGcmOpen key nonce aad (aesGcmSeal key nonce aad text).1 (aesGcmSeal key nonce aad text).2 = some text := by
  have h := gcmStream_length key nonce text.length
  simp only [aesGcmOpen, aesGcmSeal, if_true, xorBytes_length, h, Nat.min_self]
  rw [xorBytes_twice _ _ h.symm]

end Sys2Proof.Machine
end

