-- ==== Sys2Proof/Laws/Encoding.lean ====
section
/-! SUPPORT. Lemmas about the encodings: parts of appended bit vectors, a word from its bytes, decoding of one and two words. -/

set_option linter.unusedSimpArgs false

namespace Sys2Proof.Laws

theorem extract_low {a b : Nat} (x : BitVec a) (y : BitVec b) (s n : Nat) (h : s + n ≤ b) :
    (x ++ y).extractLsb' s n = y.extractLsb' s n := by
  ext i hi
  simp [BitVec.getElem_extractLsb', BitVec.getLsbD_append]; omega

theorem extract_high {a b : Nat} (x : BitVec a) (y : BitVec b) (s n : Nat) (h : b ≤ s) :
    (x ++ y).extractLsb' s n = x.extractLsb' (s - b) n := by
  ext i hi
  have : ¬ s + i < b := by omega
  simp [BitVec.getElem_extractLsb', BitVec.getLsbD_append, this, Nat.sub_add_comm h]

theorem extract_full {a : Nat} (x : BitVec a) : x.extractLsb' 0 a = x := by simp

theorem word_of_bytes (w : BitVec 32) :
    wordOfBytes (w.extractLsb' 0 8) (w.extractLsb' 8 8) (w.extractLsb' 16 8) (w.extractLsb' 24 8) = w := by
  apply BitVec.eq_of_getLsbD_eq
  intro i hi
  unfold wordOfBytes
  rw [BitVec.getLsbD_append, BitVec.getLsbD_append, BitVec.getLsbD_append]
  simp only [BitVec.getLsbD_extractLsb']
  by_cases h1 : i < 8
  · simp [h1]
  · by_cases h2 : i - 8 < 8
    · simp [h1, h2]; congr 1; omega
    · by_cases h3 : i - 8 - 8 < 8
      · simp [h1, h2, h3]; congr 1; omega
      · have h4 : i - 8 - 8 - 8 < 8 := by omega
        simp [h1, h2, h3, h4]; congr 1; omega

/-- An 8-byte instruction: a word that asks for a modifier word, and the modifier word. -/
theorem decode_two {w m : BitVec 32} {i : Instr} (h : wantsModifier w = true) (hd : decodeWord w m = some i)
    (rest : List (BitVec 8)) : decode ([w, m].flatMap bytesOfWord ++ rest) = .ok (i, rest) := by
  simp [bytesOfWord, decode, word_of_bytes, h, hd]

/-- A 4-byte instruction. -/
theorem decode_one {w : BitVec 32} {i : Instr} (h : wantsModifier w = false) (hd : decodeWord w 0 = some i)
    (rest : List (BitVec 8)) : decode ([w].flatMap bytesOfWord ++ rest) = .ok (i, rest) := by
  have hd' : decodeWord w 0#32 = some i := hd
  simp [bytesOfWord, decode, word_of_bytes, h, hd']

theorem wants_none {w : BitVec 32} (h : fM w = 0#1) : wantsModifier w = false := by simp [wantsModifier, h]

/-- The majors whose words a modifier word may follow (05 R88, R95). -/
def laneMajor (op : BitVec 7) : Bool :=
  match op.toNat with
  | 0x2B | 0x5B | 0x7B | 0x53 | 0x57 | 0x43 | 0x47 | 0x4B | 0x4F => true
  | _ => false

theorem wants_eq (w : BitVec 32) : wantsModifier w = (fM w = 1#1 && laneMajor (fOp w) && (decodeWord w 0).isSome) := rfl

theorem wants_other {w : BitVec 32} (h : laneMajor (fOp w) = false) : wantsModifier w = false := by
  simp [wants_eq, h]

/-- An instruction with an M bit round-trips with and without its modifier word. -/
theorem decode_lane {w : BitVec 1 → BitVec 32} {f : Option (BitVec 32) → Instr} (hM : ∀ b, fM (w b) = b)
    (hL : ∀ b, laneMajor (fOp (w b)) = true) (hD : ∀ b m, decodeWord (w b) m = some (f (mdOf (w b) m)))
    (md : Option (BitVec 32)) (rest : List (BitVec 8)) :
    decode ((w (mBit md) :: md.toList).flatMap bytesOfWord ++ rest) = .ok (f md, rest) := by
  cases md with
  | none =>
    have h0 : mBit none = 0#1 := rfl
    have hm : mdOf (w 0#1) 0 = none := by simp [mdOf, hM]
    simpa [h0] using decode_one (wants_none (hM 0#1)) (by rw [hD, hm]) rest
  | some m =>
    have h1 : mBit (some m) = 1#1 := rfl
    have hm : mdOf (w 1#1) m = some m := by simp [mdOf, hM]
    have hw : wantsModifier (w 1#1) = true := by simp [wants_eq, hM, hL, hD]
    simpa [h1] using decode_two hw (by rw [hD, hm]) rest

theorem branch_halves (off : BitVec 12) : bOff (bHi off) (bLo off) = off := by
  have e1 : ∀ i, (bHi off).getLsbD i = (off.extractLsb' 11 1 ++ off.extractLsb' 4 6 : BitVec (1 + 6)).getLsbD i := fun _ => rfl
  have e2 : ∀ i, (bLo off).getLsbD i = (off.extractLsb' 0 4 ++ off.extractLsb' 10 1 : BitVec (4 + 1)).getLsbD i := fun _ => rfl
  have e3 : ∀ h l i, (bOff h l).getLsbD i =
    (h.extractLsb' 6 1 ++ l.extractLsb' 0 1 ++ h.extractLsb' 0 6 ++ l.extractLsb' 1 4 : BitVec (1 + 1 + 6 + 4)).getLsbD i :=
    fun _ _ _ => rfl
  apply BitVec.eq_of_getLsbD_eq
  intro i hi
  have h : i = 0 ∨ i = 1 ∨ i = 2 ∨ i = 3 ∨ i = 4 ∨ i = 5 ∨ i = 6 ∨ i = 7 ∨ i = 8 ∨ i = 9 ∨ i = 10 ∨ i = 11 := by omega
  rcases h with rfl | rfl | rfl | rfl | rfl | rfl | rfl | rfl | rfl | rfl | rfl | rfl <;>
    simp only [e3, BitVec.getLsbD_append, BitVec.getLsbD_extractLsb', e1, e2] <;> simp
theorem jump_bits (off : BitVec 20) : jOff (jImm off) = off := by
  have e1 : ∀ i, (jImm off).getLsbD i = (off.extractLsb' 19 1 ++ off.extractLsb' 0 10 ++ off.extractLsb' 10 1 ++
    off.extractLsb' 11 8 : BitVec (1 + 10 + 1 + 8)).getLsbD i := fun _ => rfl
  have e2 : ∀ j i, (jOff j).getLsbD i = (j.extractLsb' 19 1 ++ j.extractLsb' 0 8 ++ j.extractLsb' 8 1 ++
    j.extractLsb' 9 10 : BitVec (1 + 8 + 1 + 10)).getLsbD i := fun _ _ => rfl
  apply BitVec.eq_of_getLsbD_eq
  intro i hi
  have h : i = 0 ∨ i = 1 ∨ i = 2 ∨ i = 3 ∨ i = 4 ∨ i = 5 ∨ i = 6 ∨ i = 7 ∨ i = 8 ∨ i = 9 ∨ i = 10 ∨ i = 11 ∨ i = 12 ∨
      i = 13 ∨ i = 14 ∨ i = 15 ∨ i = 16 ∨ i = 17 ∨ i = 18 ∨ i = 19 := by omega
  rcases h with rfl | rfl | rfl | rfl | rfl | rfl | rfl | rfl | rfl | rfl | rfl | rfl | rfl | rfl | rfl | rfl | rfl | rfl |
    rfl | rfl <;> simp only [e2, BitVec.getLsbD_append, BitVec.getLsbD_extractLsb', e1] <;> simp

theorem rejoin {w : Nat} (x : BitVec w) (n m : Nat) (h : n + m = w) :
    (x.extractLsb' n m ++ x.extractLsb' 0 n : BitVec (m + n)) = (x.cast (by omega)) := by
  subst h
  apply BitVec.eq_of_getLsbD_eq
  intro i hi
  rw [BitVec.getLsbD_append]
  simp only [BitVec.getLsbD_extractLsb', BitVec.getLsbD_cast]
  by_cases h1 : i < n
  · simp [h1]
  · have h2 : i - n < m := by omega
    have h3 : n + (i - n) = i := by omega
    simp [h1, h2, h3]

@[simp] theorem fOp_encR (f7 : BitVec 7) (rs2 : BitVec 5) (rs1 : BitVec 5) (f3 : BitVec 3) (rd : BitVec 5) (op : BitVec 7) :
    fOp (encR f7 rs2 rs1 f3 rd op) = op := by
  simp (disch := omega) only [fOp, encR, extract_low, extract_high, extract_full, Nat.reduceSub]

@[simp] theorem fRd_encR (f7 : BitVec 7) (rs2 : BitVec 5) (rs1 : BitVec 5) (f3 : BitVec 3) (rd : BitVec 5) (op : BitVec 7) :
    fRd (encR f7 rs2 rs1 f3 rd op) = rd := by
  simp (disch := omega) only [fRd, encR, extract_low, extract_high, extract_full, Nat.reduceSub]

@[simp] theorem fF3_encR (f7 : BitVec 7) (rs2 : BitVec 5) (rs1 : BitVec 5) (f3 : BitVec 3) (rd : BitVec 5) (op : BitVec 7) :
    fF3 (encR f7 rs2 rs1 f3 rd op) = f3 := by
  simp (disch := omega) only [fF3, encR, extract_low, extract_high, extract_full, Nat.reduceSub]

@[simp] theorem fRs1_encR (f7 : BitVec 7) (rs2 : BitVec 5) (rs1 : BitVec 5) (f3 : BitVec 3) (rd : BitVec 5) (op : BitVec 7) :
    fRs1 (encR f7 rs2 rs1 f3 rd op) = rs1 := by
  simp (disch := omega) only [fRs1, encR, extract_low, extract_high, extract_full, Nat.reduceSub]

@[simp] theorem fRs2_encR (f7 : BitVec 7) (rs2 : BitVec 5) (rs1 : BitVec 5) (f3 : BitVec 3) (rd : BitVec 5) (op : BitVec 7) :
    fRs2 (encR f7 rs2 rs1 f3 rd op) = rs2 := by
  simp (disch := omega) only [fRs2, encR, extract_low, extract_high, extract_full, Nat.reduceSub]

@[simp] theorem fF7_encR (f7 : BitVec 7) (rs2 : BitVec 5) (rs1 : BitVec 5) (f3 : BitVec 3) (rd : BitVec 5) (op : BitVec 7) :
    fF7 (encR f7 rs2 rs1 f3 rd op) = f7 := by
  simp (disch := omega) only [fF7, encR, extract_low, extract_high, extract_full, Nat.reduceSub]

@[simp] theorem fOp_encI (imm : BitVec 12) (rs1 : BitVec 5) (f3 : BitVec 3) (rd : BitVec 5) (op : BitVec 7) :
    fOp (encI imm rs1 f3 rd op) = op := by
  simp (disch := omega) only [fOp, encI, extract_low, extract_high, extract_full, Nat.reduceSub]

@[simp] theorem fRd_encI (imm : BitVec 12) (rs1 : BitVec 5) (f3 : BitVec 3) (rd : BitVec 5) (op : BitVec 7) :
    fRd (encI imm rs1 f3 rd op) = rd := by
  simp (disch := omega) only [fRd, encI, extract_low, extract_high, extract_full, Nat.reduceSub]

@[simp] theorem fF3_encI (imm : BitVec 12) (rs1 : BitVec 5) (f3 : BitVec 3) (rd : BitVec 5) (op : BitVec 7) :
    fF3 (encI imm rs1 f3 rd op) = f3 := by
  simp (disch := omega) only [fF3, encI, extract_low, extract_high, extract_full, Nat.reduceSub]

@[simp] theorem fRs1_encI (imm : BitVec 12) (rs1 : BitVec 5) (f3 : BitVec 3) (rd : BitVec 5) (op : BitVec 7) :
    fRs1 (encI imm rs1 f3 rd op) = rs1 := by
  simp (disch := omega) only [fRs1, encI, extract_low, extract_high, extract_full, Nat.reduceSub]

@[simp] theorem fImm12_encI (imm : BitVec 12) (rs1 : BitVec 5) (f3 : BitVec 3) (rd : BitVec 5) (op : BitVec 7) :
    fImm12 (encI imm rs1 f3 rd op) = imm := by
  simp (disch := omega) only [fImm12, encI, extract_low, extract_high, extract_full, Nat.reduceSub]

@[simp] theorem fOp_encU (imm : BitVec 20) (rd : BitVec 5) (op : BitVec 7) :
    fOp (encU imm rd op) = op := by
  simp (disch := omega) only [fOp, encU, extract_low, extract_high, extract_full, Nat.reduceSub]

@[simp] theorem fRd_encU (imm : BitVec 20) (rd : BitVec 5) (op : BitVec 7) :
    fRd (encU imm rd op) = rd := by
  simp (disch := omega) only [fRd, encU, extract_low, extract_high, extract_full, Nat.reduceSub]

@[simp] theorem fImm20_encU (imm : BitVec 20) (rd : BitVec 5) (op : BitVec 7) :
    fImm20 (encU imm rd op) = imm := by
  simp (disch := omega) only [fImm20, encU, extract_low, extract_high, extract_full, Nat.reduceSub]

@[simp] theorem fOp_encLR (m : BitVec 1) (f6 : BitVec 6) (vb : BitVec 6) (va : BitVec 6) (vd : BitVec 6) (op : BitVec 7) :
    fOp (encLR m f6 vb va vd op) = op := by
  simp (disch := omega) only [fOp, encLR, extract_low, extract_high, extract_full, Nat.reduceSub]

@[simp] theorem fVd_encLR (m : BitVec 1) (f6 : BitVec 6) (vb : BitVec 6) (va : BitVec 6) (vd : BitVec 6) (op : BitVec 7) :
    fVd (encLR m f6 vb va vd op) = vd := by
  simp (disch := omega) only [fVd, encLR, extract_low, extract_high, extract_full, Nat.reduceSub]

@[simp] theorem fVa_encLR (m : BitVec 1) (f6 : BitVec 6) (vb : BitVec 6) (va : BitVec 6) (vd : BitVec 6) (op : BitVec 7) :
    fVa (encLR m f6 vb va vd op) = va := by
  simp (disch := omega) only [fVa, encLR, extract_low, extract_high, extract_full, Nat.reduceSub]

@[simp] theorem fVb_encLR (m : BitVec 1) (f6 : BitVec 6) (vb : BitVec 6) (va : BitVec 6) (vd : BitVec 6) (op : BitVec 7) :
    fVb (encLR m f6 vb va vd op) = vb := by
  simp (disch := omega) only [fVb, encLR, extract_low, extract_high, extract_full, Nat.reduceSub]

@[simp] theorem fF6_encLR (m : BitVec 1) (f6 : BitVec 6) (vb : BitVec 6) (va : BitVec 6) (vd : BitVec 6) (op : BitVec 7) :
    fF6 (encLR m f6 vb va vd op) = f6 := by
  simp (disch := omega) only [fF6, encLR, extract_low, extract_high, extract_full, Nat.reduceSub]

@[simp] theorem fM_encLR (m : BitVec 1) (f6 : BitVec 6) (vb : BitVec 6) (va : BitVec 6) (vd : BitVec 6) (op : BitVec 7) :
    fM (encLR m f6 vb va vd op) = m := by
  simp (disch := omega) only [fM, encLR, extract_low, extract_high, extract_full, Nat.reduceSub]

@[simp] theorem fOp_encLI (m : BitVec 1) (f3 : BitVec 3) (imm : BitVec 9) (va : BitVec 6) (vd : BitVec 6) (op : BitVec 7) :
    fOp (encLI m f3 imm va vd op) = op := by
  simp (disch := omega) only [fOp, encLI, extract_low, extract_high, extract_full, Nat.reduceSub]

@[simp] theorem fVd_encLI (m : BitVec 1) (f3 : BitVec 3) (imm : BitVec 9) (va : BitVec 6) (vd : BitVec 6) (op : BitVec 7) :
    fVd (encLI m f3 imm va vd op) = vd := by
  simp (disch := omega) only [fVd, encLI, extract_low, extract_high, extract_full, Nat.reduceSub]

@[simp] theorem fVa_encLI (m : BitVec 1) (f3 : BitVec 3) (imm : BitVec 9) (va : BitVec 6) (vd : BitVec 6) (op : BitVec 7) :
    fVa (encLI m f3 imm va vd op) = va := by
  simp (disch := omega) only [fVa, encLI, extract_low, extract_high, extract_full, Nat.reduceSub]

@[simp] theorem fImm9_encLI (m : BitVec 1) (f3 : BitVec 3) (imm : BitVec 9) (va : BitVec 6) (vd : BitVec 6) (op : BitVec 7) :
    fImm9 (encLI m f3 imm va vd op) = imm := by
  simp (disch := omega) only [fImm9, encLI, extract_low, extract_high, extract_full, Nat.reduceSub]

@[simp] theorem fLi3_encLI (m : BitVec 1) (f3 : BitVec 3) (imm : BitVec 9) (va : BitVec 6) (vd : BitVec 6) (op : BitVec 7) :
    fLi3 (encLI m f3 imm va vd op) = f3 := by
  simp (disch := omega) only [fLi3, encLI, extract_low, extract_high, extract_full, Nat.reduceSub]

@[simp] theorem fM_encLI (m : BitVec 1) (f3 : BitVec 3) (imm : BitVec 9) (va : BitVec 6) (vd : BitVec 6) (op : BitVec 7) :
    fM (encLI m f3 imm va vd op) = m := by
  simp (disch := omega) only [fM, encLI, extract_low, extract_high, extract_full, Nat.reduceSub]

@[simp] theorem fOp_encLX (m : BitVec 1) (f7 : BitVec 7) (xs : BitVec 5) (va : BitVec 6) (vd : BitVec 6) (op : BitVec 7) :
    fOp (encLX m f7 xs va vd op) = op := by
  simp (disch := omega) only [fOp, encLX, extract_low, extract_high, extract_full, Nat.reduceSub]

@[simp] theorem fVd_encLX (m : BitVec 1) (f7 : BitVec 7) (xs : BitVec 5) (va : BitVec 6) (vd : BitVec 6) (op : BitVec 7) :
    fVd (encLX m f7 xs va vd op) = vd := by
  simp (disch := omega) only [fVd, encLX, extract_low, extract_high, extract_full, Nat.reduceSub]

@[simp] theorem fVa_encLX (m : BitVec 1) (f7 : BitVec 7) (xs : BitVec 5) (va : BitVec 6) (vd : BitVec 6) (op : BitVec 7) :
    fVa (encLX m f7 xs va vd op) = va := by
  simp (disch := omega) only [fVa, encLX, extract_low, extract_high, extract_full, Nat.reduceSub]

@[simp] theorem fXs_encLX (m : BitVec 1) (f7 : BitVec 7) (xs : BitVec 5) (va : BitVec 6) (vd : BitVec 6) (op : BitVec 7) :
    fXs (encLX m f7 xs va vd op) = xs := by
  simp (disch := omega) only [fXs, encLX, extract_low, extract_high, extract_full, Nat.reduceSub]

@[simp] theorem fLx7_encLX (m : BitVec 1) (f7 : BitVec 7) (xs : BitVec 5) (va : BitVec 6) (vd : BitVec 6) (op : BitVec 7) :
    fLx7 (encLX m f7 xs va vd op) = f7 := by
  simp (disch := omega) only [fLx7, encLX, extract_low, extract_high, extract_full, Nat.reduceSub]

@[simp] theorem fM_encLX (m : BitVec 1) (f7 : BitVec 7) (xs : BitVec 5) (va : BitVec 6) (vd : BitVec 6) (op : BitVec 7) :
    fM (encLX m f7 xs va vd op) = m := by
  simp (disch := omega) only [fM, encLX, extract_low, extract_high, extract_full, Nat.reduceSub]

@[simp] theorem fOp_encLM (imm : BitVec 6) (wid : BitVec 1) (xs : BitVec 5) (sp : BitVec 2) (vo : BitVec 5) (vd : BitVec 6) (op : BitVec 7) :
    fOp (encLM imm wid xs sp vo vd op) = op := by
  simp (disch := omega) only [fOp, encLM, extract_low, extract_high, extract_full, Nat.reduceSub]

@[simp] theorem fVd_encLM (imm : BitVec 6) (wid : BitVec 1) (xs : BitVec 5) (sp : BitVec 2) (vo : BitVec 5) (vd : BitVec 6) (op : BitVec 7) :
    fVd (encLM imm wid xs sp vo vd op) = vd := by
  simp (disch := omega) only [fVd, encLM, extract_low, extract_high, extract_full, Nat.reduceSub]

@[simp] theorem fVo_encLM (imm : BitVec 6) (wid : BitVec 1) (xs : BitVec 5) (sp : BitVec 2) (vo : BitVec 5) (vd : BitVec 6) (op : BitVec 7) :
    fVo (encLM imm wid xs sp vo vd op) = vo := by
  simp (disch := omega) only [fVo, encLM, extract_low, extract_high, extract_full, Nat.reduceSub]

@[simp] theorem fSpace_encLM (imm : BitVec 6) (wid : BitVec 1) (xs : BitVec 5) (sp : BitVec 2) (vo : BitVec 5) (vd : BitVec 6) (op : BitVec 7) :
    fSpace (encLM imm wid xs sp vo vd op) = sp := by
  simp (disch := omega) only [fSpace, encLM, extract_low, extract_high, extract_full, Nat.reduceSub]

@[simp] theorem fRs2_encLM (imm : BitVec 6) (wid : BitVec 1) (xs : BitVec 5) (sp : BitVec 2) (vo : BitVec 5) (vd : BitVec 6) (op : BitVec 7) :
    fRs2 (encLM imm wid xs sp vo vd op) = xs := by
  simp (disch := omega) only [fRs2, encLM, extract_low, extract_high, extract_full, Nat.reduceSub]

@[simp] theorem fWid_encLM (imm : BitVec 6) (wid : BitVec 1) (xs : BitVec 5) (sp : BitVec 2) (vo : BitVec 5) (vd : BitVec 6) (op : BitVec 7) :
    fWid (encLM imm wid xs sp vo vd op) = wid := by
  simp (disch := omega) only [fWid, encLM, extract_low, extract_high, extract_full, Nat.reduceSub]

@[simp] theorem fImm6_encLM (imm : BitVec 6) (wid : BitVec 1) (xs : BitVec 5) (sp : BitVec 2) (vo : BitVec 5) (vd : BitVec 6) (op : BitVec 7) :
    fImm6 (encLM imm wid xs sp vo vd op) = imm := by
  simp (disch := omega) only [fImm6, encLM, extract_low, extract_high, extract_full, Nat.reduceSub]

@[simp] theorem fOp_encUC (h2 : BitVec 2) (f5 : BitVec 5) (b : BitVec 5) (a : BitVec 5) (f3 : BitVec 3) (d : BitVec 5) (op : BitVec 7) :
    fOp (encUC h2 f5 b a f3 d op) = op := by
  simp (disch := omega) only [fOp, encUC, extract_low, extract_high, extract_full, Nat.reduceSub]

@[simp] theorem fRd_encUC (h2 : BitVec 2) (f5 : BitVec 5) (b : BitVec 5) (a : BitVec 5) (f3 : BitVec 3) (d : BitVec 5) (op : BitVec 7) :
    fRd (encUC h2 f5 b a f3 d op) = d := by
  simp (disch := omega) only [fRd, encUC, extract_low, extract_high, extract_full, Nat.reduceSub]

@[simp] theorem fF3_encUC (h2 : BitVec 2) (f5 : BitVec 5) (b : BitVec 5) (a : BitVec 5) (f3 : BitVec 3) (d : BitVec 5) (op : BitVec 7) :
    fF3 (encUC h2 f5 b a f3 d op) = f3 := by
  simp (disch := omega) only [fF3, encUC, extract_low, extract_high, extract_full, Nat.reduceSub]

@[simp] theorem fRs1_encUC (h2 : BitVec 2) (f5 : BitVec 5) (b : BitVec 5) (a : BitVec 5) (f3 : BitVec 3) (d : BitVec 5) (op : BitVec 7) :
    fRs1 (encUC h2 f5 b a f3 d op) = a := by
  simp (disch := omega) only [fRs1, encUC, extract_low, extract_high, extract_full, Nat.reduceSub]

@[simp] theorem fRs2_encUC (h2 : BitVec 2) (f5 : BitVec 5) (b : BitVec 5) (a : BitVec 5) (f3 : BitVec 3) (d : BitVec 5) (op : BitVec 7) :
    fRs2 (encUC h2 f5 b a f3 d op) = b := by
  simp (disch := omega) only [fRs2, encUC, extract_low, extract_high, extract_full, Nat.reduceSub]

@[simp] theorem fF5_encUC (h2 : BitVec 2) (f5 : BitVec 5) (b : BitVec 5) (a : BitVec 5) (f3 : BitVec 3) (d : BitVec 5) (op : BitVec 7) :
    fF5 (encUC h2 f5 b a f3 d op) = f5 := by
  simp (disch := omega) only [fF5, encUC, extract_low, extract_high, extract_full, Nat.reduceSub]

@[simp] theorem fTop2_encUC (h2 : BitVec 2) (f5 : BitVec 5) (b : BitVec 5) (a : BitVec 5) (f3 : BitVec 3) (d : BitVec 5) (op : BitVec 7) :
    fTop2 (encUC h2 f5 b a f3 d op) = h2 := by
  simp (disch := omega) only [fTop2, encUC, extract_low, extract_high, extract_full, Nat.reduceSub]

@[simp] theorem fOp_encLBR (h2 : BitVec 2) (cond : BitVec 3) (mi : BitVec 3) (oh : BitVec 9) (f3 : BitVec 3) (ol : BitVec 5) (op : BitVec 7) :
    fOp (encLBR h2 cond mi oh f3 ol op) = op := by
  simp (disch := omega) only [fOp, encLBR, extract_low, extract_high, extract_full, Nat.reduceSub]

@[simp] theorem fRd_encLBR (h2 : BitVec 2) (cond : BitVec 3) (mi : BitVec 3) (oh : BitVec 9) (f3 : BitVec 3) (ol : BitVec 5) (op : BitVec 7) :
    fRd (encLBR h2 cond mi oh f3 ol op) = ol := by
  simp (disch := omega) only [fRd, encLBR, extract_low, extract_high, extract_full, Nat.reduceSub]

@[simp] theorem fF3_encLBR (h2 : BitVec 2) (cond : BitVec 3) (mi : BitVec 3) (oh : BitVec 9) (f3 : BitVec 3) (ol : BitVec 5) (op : BitVec 7) :
    fF3 (encLBR h2 cond mi oh f3 ol op) = f3 := by
  simp (disch := omega) only [fF3, encLBR, extract_low, extract_high, extract_full, Nat.reduceSub]

@[simp] theorem fOffHi_encLBR (h2 : BitVec 2) (cond : BitVec 3) (mi : BitVec 3) (oh : BitVec 9) (f3 : BitVec 3) (ol : BitVec 5) (op : BitVec 7) :
    fOffHi (encLBR h2 cond mi oh f3 ol op) = oh := by
  simp (disch := omega) only [fOffHi, encLBR, extract_low, extract_high, extract_full, Nat.reduceSub]

@[simp] theorem fM24_encLBR (h2 : BitVec 2) (cond : BitVec 3) (mi : BitVec 3) (oh : BitVec 9) (f3 : BitVec 3) (ol : BitVec 5) (op : BitVec 7) :
    fM24 (encLBR h2 cond mi oh f3 ol op) = mi := by
  simp (disch := omega) only [fM24, encLBR, extract_low, extract_high, extract_full, Nat.reduceSub]

@[simp] theorem fCond_encLBR (h2 : BitVec 2) (cond : BitVec 3) (mi : BitVec 3) (oh : BitVec 9) (f3 : BitVec 3) (ol : BitVec 5) (op : BitVec 7) :
    fCond (encLBR h2 cond mi oh f3 ol op) = cond := by
  simp (disch := omega) only [fCond, encLBR, extract_low, extract_high, extract_full, Nat.reduceSub]

@[simp] theorem fTop2_encLBR (h2 : BitVec 2) (cond : BitVec 3) (mi : BitVec 3) (oh : BitVec 9) (f3 : BitVec 3) (ol : BitVec 5) (op : BitVec 7) :
    fTop2 (encLBR h2 cond mi oh f3 ol op) = h2 := by
  simp (disch := omega) only [fTop2, encLBR, extract_low, extract_high, extract_full, Nat.reduceSub]

@[simp] theorem fOp_encLJ (h2 : BitVec 2) (va : BitVec 6) (imm : BitVec 9) (f3 : BitVec 3) (rd : BitVec 5) (op : BitVec 7) :
    fOp (encLJ h2 va imm f3 rd op) = op := by
  simp (disch := omega) only [fOp, encLJ, extract_low, extract_high, extract_full, Nat.reduceSub]

@[simp] theorem fRd_encLJ (h2 : BitVec 2) (va : BitVec 6) (imm : BitVec 9) (f3 : BitVec 3) (rd : BitVec 5) (op : BitVec 7) :
    fRd (encLJ h2 va imm f3 rd op) = rd := by
  simp (disch := omega) only [fRd, encLJ, extract_low, extract_high, extract_full, Nat.reduceSub]

@[simp] theorem fF3_encLJ (h2 : BitVec 2) (va : BitVec 6) (imm : BitVec 9) (f3 : BitVec 3) (rd : BitVec 5) (op : BitVec 7) :
    fF3 (encLJ h2 va imm f3 rd op) = f3 := by
  simp (disch := omega) only [fF3, encLJ, extract_low, extract_high, extract_full, Nat.reduceSub]

@[simp] theorem fOffHi_encLJ (h2 : BitVec 2) (va : BitVec 6) (imm : BitVec 9) (f3 : BitVec 3) (rd : BitVec 5) (op : BitVec 7) :
    fOffHi (encLJ h2 va imm f3 rd op) = imm := by
  simp (disch := omega) only [fOffHi, encLJ, extract_low, extract_high, extract_full, Nat.reduceSub]

@[simp] theorem fLjVa_encLJ (h2 : BitVec 2) (va : BitVec 6) (imm : BitVec 9) (f3 : BitVec 3) (rd : BitVec 5) (op : BitVec 7) :
    fLjVa (encLJ h2 va imm f3 rd op) = va := by
  simp (disch := omega) only [fLjVa, encLJ, extract_low, extract_high, extract_full, Nat.reduceSub]

@[simp] theorem fTop2_encLJ (h2 : BitVec 2) (va : BitVec 6) (imm : BitVec 9) (f3 : BitVec 3) (rd : BitVec 5) (op : BitVec 7) :
    fTop2 (encLJ h2 va imm f3 rd op) = h2 := by
  simp (disch := omega) only [fTop2, encLJ, extract_low, extract_high, extract_full, Nat.reduceSub]

@[simp] theorem fOp_encUY (y : BitVec 9) (o : BitVec 3) (rs1 : BitVec 5) (f3 : BitVec 3) (rd : BitVec 5) (op : BitVec 7) :
    fOp (encUY y o rs1 f3 rd op) = op := by
  simp (disch := omega) only [fOp, encUY, extract_low, extract_high, extract_full, Nat.reduceSub]

@[simp] theorem fRd_encUY (y : BitVec 9) (o : BitVec 3) (rs1 : BitVec 5) (f3 : BitVec 3) (rd : BitVec 5) (op : BitVec 7) :
    fRd (encUY y o rs1 f3 rd op) = rd := by
  simp (disch := omega) only [fRd, encUY, extract_low, extract_high, extract_full, Nat.reduceSub]

@[simp] theorem fF3_encUY (y : BitVec 9) (o : BitVec 3) (rs1 : BitVec 5) (f3 : BitVec 3) (rd : BitVec 5) (op : BitVec 7) :
    fF3 (encUY y o rs1 f3 rd op) = f3 := by
  simp (disch := omega) only [fF3, encUY, extract_low, extract_high, extract_full, Nat.reduceSub]

@[simp] theorem fRs1_encUY (y : BitVec 9) (o : BitVec 3) (rs1 : BitVec 5) (f3 : BitVec 3) (rd : BitVec 5) (op : BitVec 7) :
    fRs1 (encUY y o rs1 f3 rd op) = rs1 := by
  simp (disch := omega) only [fRs1, encUY, extract_low, extract_high, extract_full, Nat.reduceSub]

@[simp] theorem fUyOp_encUY (y : BitVec 9) (o : BitVec 3) (rs1 : BitVec 5) (f3 : BitVec 3) (rd : BitVec 5) (op : BitVec 7) :
    fUyOp (encUY y o rs1 f3 rd op) = o := by
  simp (disch := omega) only [fUyOp, encUY, extract_low, extract_high, extract_full, Nat.reduceSub]

@[simp] theorem fY_encUY (y : BitVec 9) (o : BitVec 3) (rs1 : BitVec 5) (f3 : BitVec 3) (rd : BitVec 5) (op : BitVec 7) :
    fY (encUY y o rs1 f3 rd op) = y := by
  simp (disch := omega) only [fY, encUY, extract_low, extract_high, extract_full, Nat.reduceSub]

@[simp] theorem fOp_encUF (o : BitVec 3) (z2 : BitVec 2) (s : BitVec 3) (c : BitVec 3) (b : BitVec 3) (a : BitVec 3) (f3 : BitVec 3) (rd : BitVec 5) (op : BitVec 7) :
    fOp (encUF o z2 s c b a f3 rd op) = op := by
  simp (disch := omega) only [fOp, encUF, extract_low, extract_high, extract_full, Nat.reduceSub]

@[simp] theorem fRd_encUF (o : BitVec 3) (z2 : BitVec 2) (s : BitVec 3) (c : BitVec 3) (b : BitVec 3) (a : BitVec 3) (f3 : BitVec 3) (rd : BitVec 5) (op : BitVec 7) :
    fRd (encUF o z2 s c b a f3 rd op) = rd := by
  simp (disch := omega) only [fRd, encUF, extract_low, extract_high, extract_full, Nat.reduceSub]

@[simp] theorem fF3_encUF (o : BitVec 3) (z2 : BitVec 2) (s : BitVec 3) (c : BitVec 3) (b : BitVec 3) (a : BitVec 3) (f3 : BitVec 3) (rd : BitVec 5) (op : BitVec 7) :
    fF3 (encUF o z2 s c b a f3 rd op) = f3 := by
  simp (disch := omega) only [fF3, encUF, extract_low, extract_high, extract_full, Nat.reduceSub]

@[simp] theorem fC15_encUF (o : BitVec 3) (z2 : BitVec 2) (s : BitVec 3) (c : BitVec 3) (b : BitVec 3) (a : BitVec 3) (f3 : BitVec 3) (rd : BitVec 5) (op : BitVec 7) :
    fC15 (encUF o z2 s c b a f3 rd op) = a := by
  simp (disch := omega) only [fC15, encUF, extract_low, extract_high, extract_full, Nat.reduceSub]

@[simp] theorem fC18_encUF (o : BitVec 3) (z2 : BitVec 2) (s : BitVec 3) (c : BitVec 3) (b : BitVec 3) (a : BitVec 3) (f3 : BitVec 3) (rd : BitVec 5) (op : BitVec 7) :
    fC18 (encUF o z2 s c b a f3 rd op) = b := by
  simp (disch := omega) only [fC18, encUF, extract_low, extract_high, extract_full, Nat.reduceSub]

@[simp] theorem fC21_encUF (o : BitVec 3) (z2 : BitVec 2) (s : BitVec 3) (c : BitVec 3) (b : BitVec 3) (a : BitVec 3) (f3 : BitVec 3) (rd : BitVec 5) (op : BitVec 7) :
    fC21 (encUF o z2 s c b a f3 rd op) = c := by
  simp (disch := omega) only [fC21, encUF, extract_low, extract_high, extract_full, Nat.reduceSub]

@[simp] theorem fM24_encUF (o : BitVec 3) (z2 : BitVec 2) (s : BitVec 3) (c : BitVec 3) (b : BitVec 3) (a : BitVec 3) (f3 : BitVec 3) (rd : BitVec 5) (op : BitVec 7) :
    fM24 (encUF o z2 s c b a f3 rd op) = s := by
  simp (disch := omega) only [fM24, encUF, extract_low, extract_high, extract_full, Nat.reduceSub]

@[simp] theorem fOrd_encUF (o : BitVec 3) (z2 : BitVec 2) (s : BitVec 3) (c : BitVec 3) (b : BitVec 3) (a : BitVec 3) (f3 : BitVec 3) (rd : BitVec 5) (op : BitVec 7) :
    fOrd (encUF o z2 s c b a f3 rd op) = z2 := by
  simp (disch := omega) only [fOrd, encUF, extract_low, extract_high, extract_full, Nat.reduceSub]

@[simp] theorem fTop3_encUF (o : BitVec 3) (z2 : BitVec 2) (s : BitVec 3) (c : BitVec 3) (b : BitVec 3) (a : BitVec 3) (f3 : BitVec 3) (rd : BitVec 5) (op : BitVec 7) :
    fTop3 (encUF o z2 s c b a f3 rd op) = o := by
  simp (disch := omega) only [fTop3, encUF, extract_low, extract_high, extract_full, Nat.reduceSub]

@[simp] theorem fOp_encUQ (o : BitVec 3) (z1 : BitVec 1) (q : BitVec 7) (z6 : BitVec 6) (f3 : BitVec 3) (rd : BitVec 5) (op : BitVec 7) :
    fOp (encUQ o z1 q z6 f3 rd op) = op := by
  simp (disch := omega) only [fOp, encUQ, extract_low, extract_high, extract_full, Nat.reduceSub]

@[simp] theorem fRd_encUQ (o : BitVec 3) (z1 : BitVec 1) (q : BitVec 7) (z6 : BitVec 6) (f3 : BitVec 3) (rd : BitVec 5) (op : BitVec 7) :
    fRd (encUQ o z1 q z6 f3 rd op) = rd := by
  simp (disch := omega) only [fRd, encUQ, extract_low, extract_high, extract_full, Nat.reduceSub]

@[simp] theorem fF3_encUQ (o : BitVec 3) (z1 : BitVec 1) (q : BitVec 7) (z6 : BitVec 6) (f3 : BitVec 3) (rd : BitVec 5) (op : BitVec 7) :
    fF3 (encUQ o z1 q z6 f3 rd op) = f3 := by
  simp (disch := omega) only [fF3, encUQ, extract_low, extract_high, extract_full, Nat.reduceSub]

@[simp] theorem fZ6_encUQ (o : BitVec 3) (z1 : BitVec 1) (q : BitVec 7) (z6 : BitVec 6) (f3 : BitVec 3) (rd : BitVec 5) (op : BitVec 7) :
    fZ6 (encUQ o z1 q z6 f3 rd op) = z6 := by
  simp (disch := omega) only [fZ6, encUQ, extract_low, extract_high, extract_full, Nat.reduceSub]

@[simp] theorem fQmask_encUQ (o : BitVec 3) (z1 : BitVec 1) (q : BitVec 7) (z6 : BitVec 6) (f3 : BitVec 3) (rd : BitVec 5) (op : BitVec 7) :
    fQmask (encUQ o z1 q z6 f3 rd op) = q := by
  simp (disch := omega) only [fQmask, encUQ, extract_low, extract_high, extract_full, Nat.reduceSub]

@[simp] theorem fB28_encUQ (o : BitVec 3) (z1 : BitVec 1) (q : BitVec 7) (z6 : BitVec 6) (f3 : BitVec 3) (rd : BitVec 5) (op : BitVec 7) :
    fB28 (encUQ o z1 q z6 f3 rd op) = z1 := by
  simp (disch := omega) only [fB28, encUQ, extract_low, extract_high, extract_full, Nat.reduceSub]

@[simp] theorem fTop3_encUQ (o : BitVec 3) (z1 : BitVec 1) (q : BitVec 7) (z6 : BitVec 6) (f3 : BitVec 3) (rd : BitVec 5) (op : BitVec 7) :
    fTop3 (encUQ o z1 q z6 f3 rd op) = o := by
  simp (disch := omega) only [fTop3, encUQ, extract_low, extract_high, extract_full, Nat.reduceSub]

@[simp] theorem fOp_encCLH (stall : BitVec 2) (wtile : BitVec 3) (wcopy : BitVec 3) (wstore : BitVec 3) (wload : BitVec 3) (engc : BitVec 3) (f3 : BitVec 3) (z : BitVec 1) (count : BitVec 4) (op : BitVec 7) :
    fOp (encCLH stall wtile wcopy wstore wload engc f3 z count op) = op := by
  simp (disch := omega) only [fOp, encCLH, extract_low, extract_high, extract_full, Nat.reduceSub]

@[simp] theorem fCount_encCLH (stall : BitVec 2) (wtile : BitVec 3) (wcopy : BitVec 3) (wstore : BitVec 3) (wload : BitVec 3) (engc : BitVec 3) (f3 : BitVec 3) (z : BitVec 1) (count : BitVec 4) (op : BitVec 7) :
    fCount (encCLH stall wtile wcopy wstore wload engc f3 z count op) = count := by
  simp (disch := omega) only [fCount, encCLH, extract_low, extract_high, extract_full, Nat.reduceSub]

@[simp] theorem fB11_encCLH (stall : BitVec 2) (wtile : BitVec 3) (wcopy : BitVec 3) (wstore : BitVec 3) (wload : BitVec 3) (engc : BitVec 3) (f3 : BitVec 3) (z : BitVec 1) (count : BitVec 4) (op : BitVec 7) :
    fB11 (encCLH stall wtile wcopy wstore wload engc f3 z count op) = z := by
  simp (disch := omega) only [fB11, encCLH, extract_low, extract_high, extract_full, Nat.reduceSub]

@[simp] theorem fF3_encCLH (stall : BitVec 2) (wtile : BitVec 3) (wcopy : BitVec 3) (wstore : BitVec 3) (wload : BitVec 3) (engc : BitVec 3) (f3 : BitVec 3) (z : BitVec 1) (count : BitVec 4) (op : BitVec 7) :
    fF3 (encCLH stall wtile wcopy wstore wload engc f3 z count op) = f3 := by
  simp (disch := omega) only [fF3, encCLH, extract_low, extract_high, extract_full, Nat.reduceSub]

@[simp] theorem fC15_encCLH (stall : BitVec 2) (wtile : BitVec 3) (wcopy : BitVec 3) (wstore : BitVec 3) (wload : BitVec 3) (engc : BitVec 3) (f3 : BitVec 3) (z : BitVec 1) (count : BitVec 4) (op : BitVec 7) :
    fC15 (encCLH stall wtile wcopy wstore wload engc f3 z count op) = engc := by
  simp (disch := omega) only [fC15, encCLH, extract_low, extract_high, extract_full, Nat.reduceSub]

@[simp] theorem fC18_encCLH (stall : BitVec 2) (wtile : BitVec 3) (wcopy : BitVec 3) (wstore : BitVec 3) (wload : BitVec 3) (engc : BitVec 3) (f3 : BitVec 3) (z : BitVec 1) (count : BitVec 4) (op : BitVec 7) :
    fC18 (encCLH stall wtile wcopy wstore wload engc f3 z count op) = wload := by
  simp (disch := omega) only [fC18, encCLH, extract_low, extract_high, extract_full, Nat.reduceSub]

@[simp] theorem fC21_encCLH (stall : BitVec 2) (wtile : BitVec 3) (wcopy : BitVec 3) (wstore : BitVec 3) (wload : BitVec 3) (engc : BitVec 3) (f3 : BitVec 3) (z : BitVec 1) (count : BitVec 4) (op : BitVec 7) :
    fC21 (encCLH stall wtile wcopy wstore wload engc f3 z count op) = wstore := by
  simp (disch := omega) only [fC21, encCLH, extract_low, extract_high, extract_full, Nat.reduceSub]

@[simp] theorem fM24_encCLH (stall : BitVec 2) (wtile : BitVec 3) (wcopy : BitVec 3) (wstore : BitVec 3) (wload : BitVec 3) (engc : BitVec 3) (f3 : BitVec 3) (z : BitVec 1) (count : BitVec 4) (op : BitVec 7) :
    fM24 (encCLH stall wtile wcopy wstore wload engc f3 z count op) = wcopy := by
  simp (disch := omega) only [fM24, encCLH, extract_low, extract_high, extract_full, Nat.reduceSub]

@[simp] theorem fCond_encCLH (stall : BitVec 2) (wtile : BitVec 3) (wcopy : BitVec 3) (wstore : BitVec 3) (wload : BitVec 3) (engc : BitVec 3) (f3 : BitVec 3) (z : BitVec 1) (count : BitVec 4) (op : BitVec 7) :
    fCond (encCLH stall wtile wcopy wstore wload engc f3 z count op) = wtile := by
  simp (disch := omega) only [fCond, encCLH, extract_low, extract_high, extract_full, Nat.reduceSub]

@[simp] theorem fTop2_encCLH (stall : BitVec 2) (wtile : BitVec 3) (wcopy : BitVec 3) (wstore : BitVec 3) (wload : BitVec 3) (engc : BitVec 3) (f3 : BitVec 3) (z : BitVec 1) (count : BitVec 4) (op : BitVec 7) :
    fTop2 (encCLH stall wtile wcopy wstore wload engc f3 z count op) = stall := by
  simp (disch := omega) only [fTop2, encCLH, extract_low, extract_high, extract_full, Nat.reduceSub]

@[simp] theorem fOp_encFMT (z : BitVec 4) (rnd : BitVec 3) (fd : BitVec 5) (fb : BitVec 5) (f3 : BitVec 3) (fa : BitVec 5) (op : BitVec 7) :
    fOp (encFMT z rnd fd fb f3 fa op) = op := by
  simp (disch := omega) only [fOp, encFMT, extract_low, extract_high, extract_full, Nat.reduceSub]

@[simp] theorem fRd_encFMT (z : BitVec 4) (rnd : BitVec 3) (fd : BitVec 5) (fb : BitVec 5) (f3 : BitVec 3) (fa : BitVec 5) (op : BitVec 7) :
    fRd (encFMT z rnd fd fb f3 fa op) = fa := by
  simp (disch := omega) only [fRd, encFMT, extract_low, extract_high, extract_full, Nat.reduceSub]

@[simp] theorem fF3_encFMT (z : BitVec 4) (rnd : BitVec 3) (fd : BitVec 5) (fb : BitVec 5) (f3 : BitVec 3) (fa : BitVec 5) (op : BitVec 7) :
    fF3 (encFMT z rnd fd fb f3 fa op) = f3 := by
  simp (disch := omega) only [fF3, encFMT, extract_low, extract_high, extract_full, Nat.reduceSub]

@[simp] theorem fRs1_encFMT (z : BitVec 4) (rnd : BitVec 3) (fd : BitVec 5) (fb : BitVec 5) (f3 : BitVec 3) (fa : BitVec 5) (op : BitVec 7) :
    fRs1 (encFMT z rnd fd fb f3 fa op) = fb := by
  simp (disch := omega) only [fRs1, encFMT, extract_low, extract_high, extract_full, Nat.reduceSub]

@[simp] theorem fRs2_encFMT (z : BitVec 4) (rnd : BitVec 3) (fd : BitVec 5) (fb : BitVec 5) (f3 : BitVec 3) (fa : BitVec 5) (op : BitVec 7) :
    fRs2 (encFMT z rnd fd fb f3 fa op) = fd := by
  simp (disch := omega) only [fRs2, encFMT, extract_low, extract_high, extract_full, Nat.reduceSub]

@[simp] theorem fRnd_encFMT (z : BitVec 4) (rnd : BitVec 3) (fd : BitVec 5) (fb : BitVec 5) (f3 : BitVec 3) (fa : BitVec 5) (op : BitVec 7) :
    fRnd (encFMT z rnd fd fb f3 fa op) = rnd := by
  simp (disch := omega) only [fRnd, encFMT, extract_low, extract_high, extract_full, Nat.reduceSub]

@[simp] theorem fTop4_encFMT (z : BitVec 4) (rnd : BitVec 3) (fd : BitVec 5) (fb : BitVec 5) (f3 : BitVec 3) (fa : BitVec 5) (op : BitVec 7) :
    fTop4 (encFMT z rnd fd fb f3 fa op) = z := by
  simp (disch := omega) only [fTop4, encFMT, extract_low, extract_high, extract_full, Nat.reduceSub]

@[simp] theorem high_2_3 (x : BitVec 2) (y : BitVec 3) : BitVec.extractLsb' 3 2 (x ++ y) = x := by
  have h := extract_high x y 3 2 (by omega)
  rw [Nat.sub_self, extract_full] at h
  exact h

@[simp] theorem low_2_3 (x : BitVec 2) (y : BitVec 3) : BitVec.extractLsb' 0 3 (x ++ y) = y :=
  (extract_low x y 0 3 (by omega)).trans (extract_full y)

@[simp] theorem high_3_3 (x : BitVec 3) (y : BitVec 3) : BitVec.extractLsb' 3 3 (x ++ y) = x := by
  have h := extract_high x y 3 3 (by omega)
  rw [Nat.sub_self, extract_full] at h
  exact h

@[simp] theorem low_3_3 (x : BitVec 3) (y : BitVec 3) : BitVec.extractLsb' 0 3 (x ++ y) = y :=
  (extract_low x y 0 3 (by omega)).trans (extract_full y)

@[simp] theorem high_4_5 (x : BitVec 4) (y : BitVec 5) : BitVec.extractLsb' 5 4 (x ++ y) = x := by
  have h := extract_high x y 5 4 (by omega)
  rw [Nat.sub_self, extract_full] at h
  exact h

@[simp] theorem low_4_5 (x : BitVec 4) (y : BitVec 5) : BitVec.extractLsb' 0 5 (x ++ y) = y :=
  (extract_low x y 0 5 (by omega)).trans (extract_full y)

@[simp] theorem high_6_6 (x : BitVec 6) (y : BitVec 6) : BitVec.extractLsb' 6 6 (x ++ y) = x := by
  have h := extract_high x y 6 6 (by omega)
  rw [Nat.sub_self, extract_full] at h
  exact h

@[simp] theorem low_6_6 (x : BitVec 6) (y : BitVec 6) : BitVec.extractLsb' 0 6 (x ++ y) = y :=
  (extract_low x y 0 6 (by omega)).trans (extract_full y)

@[simp] theorem high_7_5 (x : BitVec 7) (y : BitVec 5) : BitVec.extractLsb' 5 7 (x ++ y) = x := by
  have h := extract_high x y 5 7 (by omega)
  rw [Nat.sub_self, extract_full] at h
  exact h

@[simp] theorem low_7_5 (x : BitVec 7) (y : BitVec 5) : BitVec.extractLsb' 0 5 (x ++ y) = y :=
  (extract_low x y 0 5 (by omega)).trans (extract_full y)

@[simp] theorem amo_top (x : BitVec 5) (y : BitVec 1) (z : BitVec 1) : BitVec.extractLsb' 2 5 (x ++ y ++ z) = x := by
  have h := extract_high (x ++ y) z 2 5 (by omega)
  have g := extract_high x y 1 5 (by omega)
  rw [Nat.sub_self, extract_full] at g
  exact h.trans g

@[simp] theorem amo_mid (x : BitVec 5) (y : BitVec 1) (z : BitVec 1) : BitVec.extractLsb' 1 1 (x ++ y ++ z) = y := by
  have h := extract_high (x ++ y) z 1 1 (by omega)
  have g := extract_low x y 0 1 (by omega)
  rw [extract_full] at g
  exact h.trans g

@[simp] theorem amo_low (x : BitVec 5) (y : BitVec 1) (z : BitVec 1) : BitVec.extractLsb' 0 1 (x ++ y ++ z) = z :=
  (extract_low (x ++ y) z 0 1 (by omega)).trans (extract_full z)

@[simp] theorem fence_top (x : BitVec 4) (y : BitVec 4) (z : BitVec 4) : BitVec.extractLsb' 8 4 (x ++ y ++ z) = x := by
  have h := extract_high (x ++ y) z 8 4 (by omega)
  have g := extract_high x y 4 4 (by omega)
  rw [Nat.sub_self, extract_full] at g
  exact h.trans g

@[simp] theorem fence_mid (x : BitVec 4) (y : BitVec 4) (z : BitVec 4) : BitVec.extractLsb' 4 4 (x ++ y ++ z) = y := by
  have h := extract_high (x ++ y) z 4 4 (by omega)
  have g := extract_low x y 0 4 (by omega)
  rw [extract_full] at g
  exact h.trans g

@[simp] theorem fence_low (x : BitVec 4) (y : BitVec 4) (z : BitVec 4) : BitVec.extractLsb' 0 4 (x ++ y ++ z) = z :=
  (extract_low (x ++ y) z 0 4 (by omega)).trans (extract_full z)

@[simp] theorem hint_top (x : BitVec 3) (y : BitVec 2) (z : BitVec 2) : BitVec.extractLsb' 4 3 (x ++ y ++ z) = x := by
  have h := extract_high (x ++ y) z 4 3 (by omega)
  have g := extract_high x y 2 3 (by omega)
  rw [Nat.sub_self, extract_full] at g
  exact h.trans g

@[simp] theorem hint_mid (x : BitVec 3) (y : BitVec 2) (z : BitVec 2) : BitVec.extractLsb' 2 2 (x ++ y ++ z) = y := by
  have h := extract_high (x ++ y) z 2 2 (by omega)
  have g := extract_low x y 0 2 (by omega)
  rw [extract_full] at g
  exact h.trans g

@[simp] theorem hint_low (x : BitVec 3) (y : BitVec 2) (z : BitVec 2) : BitVec.extractLsb' 0 2 (x ++ y ++ z) = z :=
  (extract_low (x ++ y) z 0 2 (by omega)).trans (extract_full z)

@[simp] theorem latom_one (x s : BitVec 1) (o : BitVec 2) (p : BitVec 3) :
    BitVec.extractLsb' 6 1 (x ++ s ++ o ++ p) = x := by revert x s o p; decide

@[simp] theorem latom_space (x s : BitVec 1) (o : BitVec 2) (p : BitVec 3) :
    BitVec.extractLsb' 5 1 (x ++ s ++ o ++ p) = s := by revert x s o p; decide

@[simp] theorem latom_order (x s : BitVec 1) (o : BitVec 2) (p : BitVec 3) :
    BitVec.extractLsb' 3 2 (x ++ s ++ o ++ p) = o := by revert x s o p; decide

@[simp] theorem latom_op (x s : BitVec 1) (o : BitVec 2) (p : BitVec 3) :
    BitVec.extractLsb' 0 3 (x ++ s ++ o ++ p) = p := by revert x s o p; decide

@[simp] theorem latom_hint (s : BitVec 1) (o : BitVec 2) (p : BitVec 3) :
    ¬BitVec.extractLsb' 4 3 (1#1 ++ s ++ o ++ p) = 2#3 ∧ ¬BitVec.extractLsb' 4 3 (1#1 ++ s ++ o ++ p) = 3#3 := by
  revert s o p; decide

@[simp] theorem rejoin_12 (x : BitVec 12) : BitVec.extractLsb' 5 7 x ++ BitVec.extractLsb' 0 5 x = x := by
  have h := rejoin x 5 7 rfl
  exact h

@[simp] theorem rejoin_14 (x : BitVec 14) : BitVec.extractLsb' 5 9 x ++ BitVec.extractLsb' 0 5 x = x := by
  have h := rejoin x 5 9 rfl
  exact h

@[simp] theorem fF7_encI (imm : BitVec 12) (rs1 : BitVec 5) (f3 : BitVec 3) (rd : BitVec 5) (op : BitVec 7) :
    fF7 (encI imm rs1 f3 rd op) = BitVec.extractLsb' 5 7 imm := by
  have h := extract_high (imm ++ rs1 ++ f3 ++ rd) op 25 7 (by omega)
  have h2 := extract_high (imm ++ rs1 ++ f3) rd 18 7 (by omega)
  have h3 := extract_high (imm ++ rs1) f3 13 7 (by omega)
  have h4 := extract_high imm rs1 10 7 (by omega)
  exact h.trans (h2.trans (h3.trans h4))

@[simp] theorem slliUw_other (sh : BitVec 6) : ¬BitVec.extractLsb' 5 7 (2#6 ++ sh) = 0#7 := by revert sh; decide

theorem sfence_other (rs2 : BitVec 5) :
    ¬9#7 ++ rs2 = 0#12 ∧ ¬9#7 ++ rs2 = 1#12 ∧ ¬9#7 ++ rs2 = 0x102#12 ∧ ¬9#7 ++ rs2 = 0x302#12 ∧ ¬9#7 ++ rs2 = 0x105#12 := by
  revert rs2; decide

/-- The words of the custom-3 major that carry fields in funct7: LLDC, LSTC and LATOM. -/
theorem decLX_high {w md : BitVec 32} (h : 0x14 ≤ (fLx7 w).toNat) : decLX w md =
    if (fLx7 w).extractLsb' 4 3 = 2#3 then
      some (.lldc (mdOf w md) ((fLx7 w).extractLsb' 2 2) ((fLx7 w).extractLsb' 0 2) (fVd w) (fXs w) (fVa w))
    else if (fLx7 w).extractLsb' 4 3 = 3#3 then
      some (.lstc (mdOf w md) ((fLx7 w).extractLsb' 2 2) ((fLx7 w).extractLsb' 0 2) (fVd w) (fXs w) (fVa w))
    else if (fLx7 w).extractLsb' 6 1 = 1#1 then
      some (.latom (mdOf w md) ((fLx7 w).extractLsb' 5 1) ((fLx7 w).extractLsb' 3 2) ((fLx7 w).extractLsb' 0 3) (fVd w)
        (fXs w) (fVa w))
    else none := by
  have n : ∀ k : BitVec 7, k.toNat < 0x14 → ¬fLx7 w = k := by
    rintro k hk rfl; omega
  simp only [decLX, n 0#7 (by decide), n 1#7 (by decide), n 2#7 (by decide), n 3#7 (by decide), n 4#7 (by decide),
    n 5#7 (by decide), n 6#7 (by decide), n 7#7 (by decide), n 8#7 (by decide), n 9#7 (by decide), n 10#7 (by decide),
    n 11#7 (by decide), n 12#7 (by decide), n 13#7 (by decide), n 14#7 (by decide), n 15#7 (by decide),
    n 16#7 (by decide), n 17#7 (by decide), n 18#7 (by decide), n 19#7 (by decide), if_false, false_and]

theorem hint_high (k : BitVec 3) (ww hh : BitVec 2) (hk : 2 ≤ k.toNat) : 0x14 ≤ (k ++ ww ++ hh).toNat := by
  revert k ww hh; decide

theorem latom_high (s : BitVec 1) (o : BitVec 2) (p : BitVec 3) : 0x14 ≤ (1#1 ++ s ++ o ++ p).toNat := by
  revert s o p; decide

theorem major_0B {w m : BitVec 32} (h : fOp w = 0x0B#7) : decodeWord w m = decCustom0 w := by
  simp [decodeWord, h]

theorem major_2B {w m : BitVec 32} (h : fOp w = 0x2B#7) : decodeWord w m = decLR w m := by
  simp [decodeWord, h]

theorem major_5B {w m : BitVec 32} (h : fOp w = 0x5B#7) : decodeWord w m = decLI w m := by
  simp [decodeWord, h]

theorem major_7B {w m : BitVec 32} (h : fOp w = 0x7B#7) : decodeWord w m = decLX w m := by
  simp [decodeWord, h]

theorem major_53 {w m : BitVec 32} (h : fOp w = 0x53#7) : decodeWord w m = decLF w m := by
  simp [decodeWord, h]

theorem major_57 {w m : BitVec 32} (h : fOp w = 0x57#7) : decodeWord w m = decLV w m := by
  simp [decodeWord, h]

theorem major_07 {w m : BitVec 32} (h : fOp w = 0x07#7) : decodeWord w m = decLLd w := by
  simp [decodeWord, h]

theorem major_27 {w m : BitVec 32} (h : fOp w = 0x27#7) : decodeWord w m = decLSt w := by
  simp [decodeWord, h]

theorem major_43 {w m : BitVec 32} (h : fOp w = 0x43#7) : decodeWord w m = decL4a w m := by
  simp [decodeWord, h]

theorem major_47 {w m : BitVec 32} (h : fOp w = 0x47#7) : decodeWord w m = decL4s w m := by
  simp [decodeWord, h]

theorem major_4B {w m : BitVec 32} (h : fOp w = 0x4B#7) : decodeWord w m = decL4ns w m := by
  simp [decodeWord, h]

theorem major_4F {w m : BitVec 32} (h : fOp w = 0x4F#7) : decodeWord w m = decL4na w m := by
  simp [decodeWord, h]

theorem major_03 {w m : BitVec 32} (h : fOp w = 0x03#7) : decodeWord w m = decLoad w := by
  simp [decodeWord, h]

theorem major_23 {w m : BitVec 32} (h : fOp w = 0x23#7) : decodeWord w m = decStore w := by
  simp [decodeWord, h]

theorem major_13 {w m : BitVec 32} (h : fOp w = 0x13#7) : decodeWord w m = decOpImm w := by
  simp [decodeWord, h]

theorem major_1B {w m : BitVec 32} (h : fOp w = 0x1B#7) : decodeWord w m = decOpImm32 w := by
  simp [decodeWord, h]

theorem major_33 {w m : BitVec 32} (h : fOp w = 0x33#7) : decodeWord w m = decOp w := by
  simp [decodeWord, h]

theorem major_3B {w m : BitVec 32} (h : fOp w = 0x3B#7) : decodeWord w m = decOp32 w := by
  simp [decodeWord, h]

theorem major_0F {w m : BitVec 32} (h : fOp w = 0x0F#7) : decodeWord w m = decMiscMem w := by
  simp [decodeWord, h]

theorem major_73 {w m : BitVec 32} (h : fOp w = 0x73#7) : decodeWord w m = decSystem w := by
  simp [decodeWord, h]

theorem major_63 {w m : BitVec 32} (h : fOp w = 0x63#7) : decodeWord w m = decBranch w := by
  simp [decodeWord, h]

theorem major_67 {w m : BitVec 32} (h : fOp w = 0x67#7) : decodeWord w m = decJalr w := by
  simp [decodeWord, h]

theorem major_6F {w m : BitVec 32} (h : fOp w = 0x6F#7) : decodeWord w m = decJal w := by
  simp [decodeWord, h]

theorem major_37 {w m : BitVec 32} (h : fOp w = 0x37#7) : decodeWord w m = decLui w := by
  simp [decodeWord, h]

theorem major_17 {w m : BitVec 32} (h : fOp w = 0x17#7) : decodeWord w m = decAuipc w := by
  simp [decodeWord, h]

theorem major_2F {w m : BitVec 32} (h : fOp w = 0x2F#7) : decodeWord w m = decAmo w := by
  simp [decodeWord, h]

end Sys2Proof.Laws
end

