-- ==== Sys2Proof/Laws/Map.lean ====
section
/-! SUPPORT. Keyed collections and memories: reading after writing, and that every operation keeps the canonical form. -/

namespace Sys2Proof.Machine

/-! ## Reading after writing -/

@[simp] theorem Map.find_put_same {α : Type} (m : Map α) (a : Nat) (v : α) : Map.find (Map.put m a v) a = some v := by
  induction m with
  | nil => simp [Map.put, Map.find]
  | cons e r ih =>
    obtain ⟨k, w⟩ := e
    simp only [Map.put]
    split
    · subst_vars; simp [Map.find]
    · split <;> simp_all [Map.find]

theorem Map.find_put_other {α : Type} (m : Map α) {a b : Nat} (v : α) (h : b ≠ a) :
    Map.find (Map.put m a v) b = Map.find m b := by
  induction m with
  | nil => simp [Map.put, Map.find, h]
  | cons e r ih =>
    obtain ⟨k, w⟩ := e
    simp only [Map.put]
    split
    · subst_vars; simp [Map.find, h]
    · split <;> simp_all [Map.find]

@[simp] theorem Map.find_del_same {α : Type} (m : Map α) (a : Nat) : Map.find (Map.del m a) a = none := by
  induction m with
  | nil => rfl
  | cons e r ih =>
    obtain ⟨k, w⟩ := e
    simp only [Map.del]
    split <;> simp_all [Map.find]

theorem Map.find_del_other {α : Type} (m : Map α) {a b : Nat} (h : b ≠ a) :
    Map.find (Map.del m a) b = Map.find m b := by
  induction m with
  | nil => rfl
  | cons e r ih =>
    obtain ⟨k, w⟩ := e
    simp only [Map.del]
    split
    · subst_vars; simp_all [Map.find]
    · simp_all [Map.find]

@[simp] theorem Map.getD_setD_same {α : Type} [DecidableEq α] (d : α) (m : Map α) (a : Nat) (v : α) :
    Map.getD d (Map.setD d m a v) a = v := by
  unfold Map.getD Map.setD
  split <;> simp_all

theorem Map.getD_setD_other {α : Type} [DecidableEq α] (d : α) (m : Map α) {a b : Nat} (v : α) (h : b ≠ a) :
    Map.getD d (Map.setD d m a v) b = Map.getD d m b := by
  unfold Map.getD Map.setD
  split <;> simp [Map.find_put_other, Map.find_del_other, h]

theorem Map.find_eq_none {α : Type} (m : Map α) (a : Nat) (h : ∀ e ∈ m, e.1 ≠ a) : Map.find m a = none := by
  induction m with
  | nil => rfl
  | cons e r ih =>
    obtain ⟨k, w⟩ := e
    simp only [List.mem_cons, forall_eq_or_imp] at h
    simp only [Map.find, if_neg (Ne.symm h.1), ih h.2]

/-! ## The canonical form -/

/-- Strictly rising keys as a relation between neighbours and later entries. -/
theorem Map.rising_cons {α : Type} (e : Nat × α) (m : Map α) :
    Map.rising (e :: m) = true ↔ (∀ f ∈ m, e.1 < f.1) ∧ Map.rising m = true := by
  induction m generalizing e with
  | nil => simp [Map.rising]
  | cons f r ih =>
    obtain ⟨a, v⟩ := e
    obtain ⟨b, w⟩ := f
    simp only [Map.rising, Bool.and_eq_true, decide_eq_true_eq, List.mem_cons, forall_eq_or_imp]
    constructor
    · rintro ⟨h, hr⟩
      exact ⟨⟨h, fun g hg => Nat.lt_trans h (((ih (b, w)).1 hr).1 g hg)⟩, hr⟩
    · rintro ⟨⟨h, _⟩, hr⟩
      exact ⟨h, hr⟩

theorem Map.mem_put {α : Type} {m : Map α} {a : Nat} {v : α} {e : Nat × α} (h : e ∈ Map.put m a v) :
    e = (a, v) ∨ e ∈ m := by
  induction m with
  | nil => simpa [Map.put] using h
  | cons f r ih =>
    obtain ⟨k, w⟩ := f
    simp only [Map.put] at h
    split at h
    · subst_vars
      rcases List.mem_cons.1 h with h | h
      · exact .inl h
      · exact .inr (List.mem_cons_of_mem _ h)
    · split at h
      · rcases List.mem_cons.1 h with h | h
        · exact .inl h
        · exact .inr h
      · rcases List.mem_cons.1 h with h | h
        · exact .inr (h ▸ List.mem_cons_self)
        · rcases ih h with h | h
          · exact .inl h
          · exact .inr (List.mem_cons_of_mem _ h)

theorem Map.mem_del {α : Type} {m : Map α} {a : Nat} {e : Nat × α} (h : e ∈ Map.del m a) : e ∈ m := by
  induction m with
  | nil => exact h
  | cons f r ih =>
    obtain ⟨k, w⟩ := f
    simp only [Map.del] at h
    split at h
    · exact List.mem_cons_of_mem _ (ih h)
    · rcases List.mem_cons.1 h with h | h
      · exact h ▸ List.mem_cons_self
      · exact List.mem_cons_of_mem _ (ih h)

theorem Map.rising_put {α : Type} (m : Map α) (a : Nat) (v : α) (h : Map.rising m = true) :
    Map.rising (Map.put m a v) = true := by
  induction m with
  | nil => rfl
  | cons f r ih =>
    obtain ⟨k, w⟩ := f
    rw [Map.rising_cons] at h
    simp only [Map.put]
    split
    · rw [Map.rising_cons]; exact h
    · split
      · rename_i h1 h2
        rw [Map.rising_cons, Map.rising_cons]
        refine ⟨?_, h⟩
        intro e he
        rcases List.mem_cons.1 he with he | he
        · exact he ▸ h2
        · exact Nat.lt_trans h2 (h.1 e he)
      · rename_i h1 h2
        rw [Map.rising_cons]
        refine ⟨?_, ih h.2⟩
        intro e he
        rcases Map.mem_put he with he | he
        · rw [he]; simp only; omega
        · exact h.1 e he

theorem Map.rising_del {α : Type} (m : Map α) (a : Nat) (h : Map.rising m = true) : Map.rising (Map.del m a) = true := by
  induction m with
  | nil => rfl
  | cons f r ih =>
    obtain ⟨k, w⟩ := f
    rw [Map.rising_cons] at h
    simp only [Map.del]
    split
    · exact ih h.2
    · rw [Map.rising_cons]
      exact ⟨fun e he => h.1 e (Map.mem_del he), ih h.2⟩

theorem Map.rising_filter {α : Type} (m : Map α) (p : Nat × α → Bool) (h : Map.rising m = true) :
    Map.rising (m.filter p) = true := by
  induction m with
  | nil => rfl
  | cons f r ih =>
    rw [Map.rising_cons] at h
    rw [List.filter_cons]
    split
    · rw [Map.rising_cons]
      exact ⟨fun e he => h.1 e (List.mem_filter.1 he).1, ih h.2⟩
    · exact ih h.2

theorem Memory.wf_iff (m : Memory) : m.wf = true ↔ Map.rising m = true ∧ ∀ e ∈ m, e.2 ≠ 0#8 := by
  simp [Memory.wf, List.all_eq_true]

/-- Writing a byte keeps the canonical form. -/
theorem Memory.wf_set (m : Memory) (a : Nat) (b : Byte) (h : m.wf = true) : (m.set a b).wf = true := by
  rw [Memory.wf_iff] at h ⊢
  unfold Memory.set Map.setD
  split
  · exact ⟨Map.rising_del m a h.1, fun e he => h.2 e (Map.mem_del he)⟩
  · refine ⟨Map.rising_put m a b h.1, fun e he => ?_⟩
    rcases Map.mem_put he with he | he
    · rw [he]; assumption
    · exact h.2 e he

/-- Writing bytes keeps the canonical form. -/
theorem Memory.wf_setBytes (m : Memory) (a : Nat) (d : List Byte) (h : m.wf = true) : (m.setBytes a d).wf = true := by
  induction d generalizing m a with
  | nil => exact h
  | cons b r ih => exact ih _ _ (Memory.wf_set m a b h)

theorem Memory.wf_filter (m : Memory) (p : Nat × Byte → Bool) (h : m.wf = true) : Memory.wf (m.filter p) = true := by
  rw [Memory.wf_iff] at h ⊢
  exact ⟨Map.rising_filter m p h.1, fun e he => h.2 e (List.mem_filter.1 he).1⟩

/-- Clearing bytes keeps the canonical form. -/
theorem Memory.wf_clear (m : Memory) (a n : Nat) (h : m.wf = true) : (m.clear a n).wf = true := Memory.wf_filter m _ h

/-- Writing a word keeps the canonical form. -/
theorem Memory.wf_setWord64 (m : Memory) (a : Nat) (v : Word64) (h : m.wf = true) : (m.setWord64 a v).wf = true :=
  Memory.wf_setBytes m a _ h

/-- A byte just written reads as written. -/
theorem Memory.get_set_same (m : Memory) (a : Nat) (b : Byte) : (m.set a b).get a = b := Map.getD_setD_same 0#8 m a b

/-- Every other byte reads as before. -/
theorem Memory.get_set_other (m : Memory) {a c : Nat} (b : Byte) (h : c ≠ a) : (m.set a b).get c = m.get c :=
  Map.getD_setD_other 0#8 m b h

end Sys2Proof.Machine
end

