-- ==== Sys2Proof/Laws/State.lean ====
section
/-! SUPPORT. What each update of the state leaves alone, field by field, and what reads what an update wrote. -/

namespace Sys2Proof.Machine

/-! ## setCore -/

@[simp] theorem State.setCore_cycle (s : State) (c : Nat) (k : Core) : (s.setCore c k).cycle = s.cycle := rfl
@[simp] theorem State.setCore_agenda (s : State) (c : Nat) (k : Core) : (s.setCore c k).agenda = s.agenda := rfl
@[simp] theorem State.setCore_late (s : State) (c : Nat) (k : Core) : (s.setCore c k).late = s.late := rfl
@[simp] theorem State.setCore_flaw (s : State) (c : Nat) (k : Core) : (s.setCore c k).flaw = s.flaw := rfl
@[simp] theorem State.setCore_focus (s : State) (c : Nat) (k : Core) : (s.setCore c k).focus = s.focus := rfl
@[simp] theorem State.setCore_freeCtr (s : State) (c : Nat) (k : Core) : (s.setCore c k).freeCtr = s.freeCtr := rfl
@[simp] theorem State.setCore_nextId (s : State) (c : Nat) (k : Core) : (s.setCore c k).nextId = s.nextId := rfl
@[simp] theorem State.setCore_hbm (s : State) (c : Nat) (k : Core) : (s.setCore c k).hbm = s.hbm := rfl
@[simp] theorem State.setCore_scratch (s : State) (c : Nat) (k : Core) : (s.setCore c k).scratch = s.scratch := rfl
@[simp] theorem State.setCore_weight (s : State) (c : Nat) (k : Core) : (s.setCore c k).weight = s.weight := rfl
@[simp] theorem State.setCore_hostMem (s : State) (c : Nat) (k : Core) : (s.setCore c k).hostMem = s.hostMem := rfl
@[simp] theorem State.setCore_peerMem (s : State) (c : Nat) (k : Core) : (s.setCore c k).peerMem = s.peerMem := rfl
@[simp] theorem State.setCore_tracked (s : State) (c : Nat) (k : Core) : (s.setCore c k).tracked = s.tracked := rfl
@[simp] theorem State.setCore_dirty (s : State) (c : Nat) (k : Core) : (s.setCore c k).dirty = s.dirty := rfl
@[simp] theorem State.setCore_discarded (s : State) (c : Nat) (k : Core) : (s.setCore c k).discarded = s.discarded := rfl
@[simp] theorem State.setCore_lineP (s : State) (c : Nat) (k : Core) : (s.setCore c k).lineP = s.lineP := rfl
@[simp] theorem State.setCore_lineH (s : State) (c : Nat) (k : Core) : (s.setCore c k).lineH = s.lineH := rfl
@[simp] theorem State.setCore_roots (s : State) (c : Nat) (k : Core) : (s.setCore c k).roots = s.roots := rfl
@[simp] theorem State.setCore_hroots (s : State) (c : Nat) (k : Core) : (s.setCore c k).hroots = s.hroots := rfl
@[simp] theorem State.setCore_ranges (s : State) (c : Nat) (k : Core) : (s.setCore c k).ranges = s.ranges := rfl
@[simp] theorem State.setCore_pins (s : State) (c : Nat) (k : Core) : (s.setCore c k).pins = s.pins := rfl
@[simp] theorem State.setCore_tlb (s : State) (c : Nat) (k : Core) : (s.setCore c k).tlb = s.tlb := rfl
@[simp] theorem State.setCore_dcache (s : State) (c : Nat) (k : Core) : (s.setCore c k).dcache = s.dcache := rfl
@[simp] theorem State.setCore_icache (s : State) (c : Nat) (k : Core) : (s.setCore c k).icache = s.icache := rfl
@[simp] theorem State.setCore_l1 (s : State) (c : Nat) (k : Core) : (s.setCore c k).l1 = s.l1 := rfl
@[simp] theorem State.setCore_resvs (s : State) (c : Nat) (k : Core) : (s.setCore c k).resvs = s.resvs := rfl
@[simp] theorem State.setCore_regions (s : State) (c : Nat) (k : Core) : (s.setCore c k).regions = s.regions := rfl
@[simp] theorem State.setCore_ilkPages (s : State) (c : Nat) (k : Core) : (s.setCore c k).ilkPages = s.ilkPages := rfl
@[simp] theorem State.setCore_jobs (s : State) (c : Nat) (k : Core) : (s.setCore c k).jobs = s.jobs := rfl
@[simp] theorem State.setCore_units (s : State) (c : Nat) (k : Core) : (s.setCore c k).units = s.units := rfl
@[simp] theorem State.setCore_sends (s : State) (c : Nat) (k : Core) : (s.setCore c k).sends = s.sends := rfl
@[simp] theorem State.setCore_peers (s : State) (c : Nat) (k : Core) : (s.setCore c k).peers = s.peers := rfl
@[simp] theorem State.setCore_dies (s : State) (c : Nat) (k : Core) : (s.setCore c k).dies = s.dies := rfl
@[simp] theorem State.setCore_flights (s : State) (c : Nat) (k : Core) : (s.setCore c k).flights = s.flights := rfl
@[simp] theorem State.setCore_mails (s : State) (c : Nat) (k : Core) : (s.setCore c k).mails = s.mails := rfl
@[simp] theorem State.setCore_joins (s : State) (c : Nat) (k : Core) : (s.setCore c k).joins = s.joins := rfl
@[simp] theorem State.setCore_kernels (s : State) (c : Nat) (k : Core) : (s.setCore c k).kernels = s.kernels := rfl
@[simp] theorem State.setCore_extents (s : State) (c : Nat) (k : Core) : (s.setCore c k).extents = s.extents := rfl
@[simp] theorem State.setCore_queues (s : State) (c : Nat) (k : Core) : (s.setCore c k).queues = s.queues := rfl
@[simp] theorem State.setCore_served (s : State) (c : Nat) (k : Core) : (s.setCore c k).served = s.served := rfl
@[simp] theorem State.setCore_lcaddr (s : State) (c : Nat) (k : Core) : (s.setCore c k).lcaddr = s.lcaddr := rfl
@[simp] theorem State.setCore_lcop (s : State) (c : Nat) (k : Core) : (s.setCore c k).lcop = s.lcop := rfl
@[simp] theorem State.setCore_lclevel (s : State) (c : Nat) (k : Core) : (s.setCore c k).lclevel = s.lclevel := rfl
@[simp] theorem State.setCore_lcres (s : State) (c : Nat) (k : Core) : (s.setCore c k).lcres = s.lcres := rfl
@[simp] theorem State.setCore_launches (s : State) (c : Nat) (k : Core) : (s.setCore c k).launches = s.launches := rfl
@[simp] theorem State.setCore_runs (s : State) (c : Nat) (k : Core) : (s.setCore c k).runs = s.runs := rfl
@[simp] theorem State.setCore_gone (s : State) (c : Nat) (k : Core) : (s.setCore c k).gone = s.gone := rfl
@[simp] theorem State.setCore_decs (s : State) (c : Nat) (k : Core) : (s.setCore c k).decs = s.decs := rfl
@[simp] theorem State.setCore_dones (s : State) (c : Nat) (k : Core) : (s.setCore c k).dones = s.dones := rfl
@[simp] theorem State.setCore_lastDie (s : State) (c : Nat) (k : Core) : (s.setCore c k).lastDie = s.lastDie := rfl
@[simp] theorem State.setCore_images (s : State) (c : Nat) (k : Core) : (s.setCore c k).images = s.images := rfl
@[simp] theorem State.setCore_mig (s : State) (c : Nat) (k : Core) : (s.setCore c k).mig = s.mig := rfl
@[simp] theorem State.setCore_rround (s : State) (c : Nat) (k : Core) : (s.setCore c k).rround = s.rround := rfl
@[simp] theorem State.setCore_sec (s : State) (c : Nat) (k : Core) : (s.setCore c k).sec = s.sec := rfl
@[simp] theorem State.setCore_power (s : State) (c : Nat) (k : Core) : (s.setCore c k).power = s.power := rfl
@[simp] theorem State.setCore_notices (s : State) (c : Nat) (k : Core) : (s.setCore c k).notices = s.notices := rfl
@[simp] theorem State.setCore_cxlFrozen (s : State) (c : Nat) (k : Core) : (s.setCore c k).cxlFrozen = s.cxlFrozen := rfl
@[simp] theorem State.setCore_reply (s : State) (c : Nat) (k : Core) : (s.setCore c k).reply = s.reply := rfl
@[simp] theorem State.setCore_data (s : State) (c : Nat) (k : Core) : (s.setCore c k).data = s.data := rfl

/-! ## setSlot -/

@[simp] theorem State.setSlot_cycle (s : State) (c n : Nat) (w : Slot) : (s.setSlot c n w).cycle = s.cycle := rfl
@[simp] theorem State.setSlot_agenda (s : State) (c n : Nat) (w : Slot) : (s.setSlot c n w).agenda = s.agenda := rfl
@[simp] theorem State.setSlot_late (s : State) (c n : Nat) (w : Slot) : (s.setSlot c n w).late = s.late := rfl
@[simp] theorem State.setSlot_flaw (s : State) (c n : Nat) (w : Slot) : (s.setSlot c n w).flaw = s.flaw := rfl
@[simp] theorem State.setSlot_focus (s : State) (c n : Nat) (w : Slot) : (s.setSlot c n w).focus = s.focus := rfl
@[simp] theorem State.setSlot_freeCtr (s : State) (c n : Nat) (w : Slot) : (s.setSlot c n w).freeCtr = s.freeCtr := rfl
@[simp] theorem State.setSlot_nextId (s : State) (c n : Nat) (w : Slot) : (s.setSlot c n w).nextId = s.nextId := rfl
@[simp] theorem State.setSlot_hbm (s : State) (c n : Nat) (w : Slot) : (s.setSlot c n w).hbm = s.hbm := rfl
@[simp] theorem State.setSlot_scratch (s : State) (c n : Nat) (w : Slot) : (s.setSlot c n w).scratch = s.scratch := rfl
@[simp] theorem State.setSlot_weight (s : State) (c n : Nat) (w : Slot) : (s.setSlot c n w).weight = s.weight := rfl
@[simp] theorem State.setSlot_hostMem (s : State) (c n : Nat) (w : Slot) : (s.setSlot c n w).hostMem = s.hostMem := rfl
@[simp] theorem State.setSlot_peerMem (s : State) (c n : Nat) (w : Slot) : (s.setSlot c n w).peerMem = s.peerMem := rfl
@[simp] theorem State.setSlot_tracked (s : State) (c n : Nat) (w : Slot) : (s.setSlot c n w).tracked = s.tracked := rfl
@[simp] theorem State.setSlot_dirty (s : State) (c n : Nat) (w : Slot) : (s.setSlot c n w).dirty = s.dirty := rfl
@[simp] theorem State.setSlot_discarded (s : State) (c n : Nat) (w : Slot) : (s.setSlot c n w).discarded = s.discarded := rfl
@[simp] theorem State.setSlot_lineP (s : State) (c n : Nat) (w : Slot) : (s.setSlot c n w).lineP = s.lineP := rfl
@[simp] theorem State.setSlot_lineH (s : State) (c n : Nat) (w : Slot) : (s.setSlot c n w).lineH = s.lineH := rfl
@[simp] theorem State.setSlot_roots (s : State) (c n : Nat) (w : Slot) : (s.setSlot c n w).roots = s.roots := rfl
@[simp] theorem State.setSlot_hroots (s : State) (c n : Nat) (w : Slot) : (s.setSlot c n w).hroots = s.hroots := rfl
@[simp] theorem State.setSlot_ranges (s : State) (c n : Nat) (w : Slot) : (s.setSlot c n w).ranges = s.ranges := rfl
@[simp] theorem State.setSlot_pins (s : State) (c n : Nat) (w : Slot) : (s.setSlot c n w).pins = s.pins := rfl
@[simp] theorem State.setSlot_tlb (s : State) (c n : Nat) (w : Slot) : (s.setSlot c n w).tlb = s.tlb := rfl
@[simp] theorem State.setSlot_dcache (s : State) (c n : Nat) (w : Slot) : (s.setSlot c n w).dcache = s.dcache := rfl
@[simp] theorem State.setSlot_icache (s : State) (c n : Nat) (w : Slot) : (s.setSlot c n w).icache = s.icache := rfl
@[simp] theorem State.setSlot_l1 (s : State) (c n : Nat) (w : Slot) : (s.setSlot c n w).l1 = s.l1 := rfl
@[simp] theorem State.setSlot_resvs (s : State) (c n : Nat) (w : Slot) : (s.setSlot c n w).resvs = s.resvs := rfl
@[simp] theorem State.setSlot_regions (s : State) (c n : Nat) (w : Slot) : (s.setSlot c n w).regions = s.regions := rfl
@[simp] theorem State.setSlot_ilkPages (s : State) (c n : Nat) (w : Slot) : (s.setSlot c n w).ilkPages = s.ilkPages := rfl
@[simp] theorem State.setSlot_jobs (s : State) (c n : Nat) (w : Slot) : (s.setSlot c n w).jobs = s.jobs := rfl
@[simp] theorem State.setSlot_units (s : State) (c n : Nat) (w : Slot) : (s.setSlot c n w).units = s.units := rfl
@[simp] theorem State.setSlot_sends (s : State) (c n : Nat) (w : Slot) : (s.setSlot c n w).sends = s.sends := rfl
@[simp] theorem State.setSlot_peers (s : State) (c n : Nat) (w : Slot) : (s.setSlot c n w).peers = s.peers := rfl
@[simp] theorem State.setSlot_dies (s : State) (c n : Nat) (w : Slot) : (s.setSlot c n w).dies = s.dies := rfl
@[simp] theorem State.setSlot_flights (s : State) (c n : Nat) (w : Slot) : (s.setSlot c n w).flights = s.flights := rfl
@[simp] theorem State.setSlot_mails (s : State) (c n : Nat) (w : Slot) : (s.setSlot c n w).mails = s.mails := rfl
@[simp] theorem State.setSlot_joins (s : State) (c n : Nat) (w : Slot) : (s.setSlot c n w).joins = s.joins := rfl
@[simp] theorem State.setSlot_kernels (s : State) (c n : Nat) (w : Slot) : (s.setSlot c n w).kernels = s.kernels := rfl
@[simp] theorem State.setSlot_extents (s : State) (c n : Nat) (w : Slot) : (s.setSlot c n w).extents = s.extents := rfl
@[simp] theorem State.setSlot_queues (s : State) (c n : Nat) (w : Slot) : (s.setSlot c n w).queues = s.queues := rfl
@[simp] theorem State.setSlot_served (s : State) (c n : Nat) (w : Slot) : (s.setSlot c n w).served = s.served := rfl
@[simp] theorem State.setSlot_lcaddr (s : State) (c n : Nat) (w : Slot) : (s.setSlot c n w).lcaddr = s.lcaddr := rfl
@[simp] theorem State.setSlot_lcop (s : State) (c n : Nat) (w : Slot) : (s.setSlot c n w).lcop = s.lcop := rfl
@[simp] theorem State.setSlot_lclevel (s : State) (c n : Nat) (w : Slot) : (s.setSlot c n w).lclevel = s.lclevel := rfl
@[simp] theorem State.setSlot_lcres (s : State) (c n : Nat) (w : Slot) : (s.setSlot c n w).lcres = s.lcres := rfl
@[simp] theorem State.setSlot_launches (s : State) (c n : Nat) (w : Slot) : (s.setSlot c n w).launches = s.launches := rfl
@[simp] theorem State.setSlot_runs (s : State) (c n : Nat) (w : Slot) : (s.setSlot c n w).runs = s.runs := rfl
@[simp] theorem State.setSlot_gone (s : State) (c n : Nat) (w : Slot) : (s.setSlot c n w).gone = s.gone := rfl
@[simp] theorem State.setSlot_decs (s : State) (c n : Nat) (w : Slot) : (s.setSlot c n w).decs = s.decs := rfl
@[simp] theorem State.setSlot_dones (s : State) (c n : Nat) (w : Slot) : (s.setSlot c n w).dones = s.dones := rfl
@[simp] theorem State.setSlot_lastDie (s : State) (c n : Nat) (w : Slot) : (s.setSlot c n w).lastDie = s.lastDie := rfl
@[simp] theorem State.setSlot_images (s : State) (c n : Nat) (w : Slot) : (s.setSlot c n w).images = s.images := rfl
@[simp] theorem State.setSlot_mig (s : State) (c n : Nat) (w : Slot) : (s.setSlot c n w).mig = s.mig := rfl
@[simp] theorem State.setSlot_rround (s : State) (c n : Nat) (w : Slot) : (s.setSlot c n w).rround = s.rround := rfl
@[simp] theorem State.setSlot_sec (s : State) (c n : Nat) (w : Slot) : (s.setSlot c n w).sec = s.sec := rfl
@[simp] theorem State.setSlot_power (s : State) (c n : Nat) (w : Slot) : (s.setSlot c n w).power = s.power := rfl
@[simp] theorem State.setSlot_notices (s : State) (c n : Nat) (w : Slot) : (s.setSlot c n w).notices = s.notices := rfl
@[simp] theorem State.setSlot_cxlFrozen (s : State) (c n : Nat) (w : Slot) : (s.setSlot c n w).cxlFrozen = s.cxlFrozen := rfl
@[simp] theorem State.setSlot_reply (s : State) (c n : Nat) (w : Slot) : (s.setSlot c n w).reply = s.reply := rfl
@[simp] theorem State.setSlot_data (s : State) (c n : Nat) (w : Slot) : (s.setSlot c n w).data = s.data := rfl

/-! ## setGroup -/

@[simp] theorem State.setGroup_cycle (s : State) (c n : Nat) (g : Group) : (s.setGroup c n g).cycle = s.cycle := rfl
@[simp] theorem State.setGroup_agenda (s : State) (c n : Nat) (g : Group) : (s.setGroup c n g).agenda = s.agenda := rfl
@[simp] theorem State.setGroup_late (s : State) (c n : Nat) (g : Group) : (s.setGroup c n g).late = s.late := rfl
@[simp] theorem State.setGroup_flaw (s : State) (c n : Nat) (g : Group) : (s.setGroup c n g).flaw = s.flaw := rfl
@[simp] theorem State.setGroup_focus (s : State) (c n : Nat) (g : Group) : (s.setGroup c n g).focus = s.focus := rfl
@[simp] theorem State.setGroup_freeCtr (s : State) (c n : Nat) (g : Group) : (s.setGroup c n g).freeCtr = s.freeCtr := rfl
@[simp] theorem State.setGroup_nextId (s : State) (c n : Nat) (g : Group) : (s.setGroup c n g).nextId = s.nextId := rfl
@[simp] theorem State.setGroup_hbm (s : State) (c n : Nat) (g : Group) : (s.setGroup c n g).hbm = s.hbm := rfl
@[simp] theorem State.setGroup_scratch (s : State) (c n : Nat) (g : Group) : (s.setGroup c n g).scratch = s.scratch := rfl
@[simp] theorem State.setGroup_weight (s : State) (c n : Nat) (g : Group) : (s.setGroup c n g).weight = s.weight := rfl
@[simp] theorem State.setGroup_hostMem (s : State) (c n : Nat) (g : Group) : (s.setGroup c n g).hostMem = s.hostMem := rfl
@[simp] theorem State.setGroup_peerMem (s : State) (c n : Nat) (g : Group) : (s.setGroup c n g).peerMem = s.peerMem := rfl
@[simp] theorem State.setGroup_tracked (s : State) (c n : Nat) (g : Group) : (s.setGroup c n g).tracked = s.tracked := rfl
@[simp] theorem State.setGroup_dirty (s : State) (c n : Nat) (g : Group) : (s.setGroup c n g).dirty = s.dirty := rfl
@[simp] theorem State.setGroup_discarded (s : State) (c n : Nat) (g : Group) : (s.setGroup c n g).discarded = s.discarded := rfl
@[simp] theorem State.setGroup_lineP (s : State) (c n : Nat) (g : Group) : (s.setGroup c n g).lineP = s.lineP := rfl
@[simp] theorem State.setGroup_lineH (s : State) (c n : Nat) (g : Group) : (s.setGroup c n g).lineH = s.lineH := rfl
@[simp] theorem State.setGroup_roots (s : State) (c n : Nat) (g : Group) : (s.setGroup c n g).roots = s.roots := rfl
@[simp] theorem State.setGroup_hroots (s : State) (c n : Nat) (g : Group) : (s.setGroup c n g).hroots = s.hroots := rfl
@[simp] theorem State.setGroup_ranges (s : State) (c n : Nat) (g : Group) : (s.setGroup c n g).ranges = s.ranges := rfl
@[simp] theorem State.setGroup_pins (s : State) (c n : Nat) (g : Group) : (s.setGroup c n g).pins = s.pins := rfl
@[simp] theorem State.setGroup_tlb (s : State) (c n : Nat) (g : Group) : (s.setGroup c n g).tlb = s.tlb := rfl
@[simp] theorem State.setGroup_dcache (s : State) (c n : Nat) (g : Group) : (s.setGroup c n g).dcache = s.dcache := rfl
@[simp] theorem State.setGroup_icache (s : State) (c n : Nat) (g : Group) : (s.setGroup c n g).icache = s.icache := rfl
@[simp] theorem State.setGroup_l1 (s : State) (c n : Nat) (g : Group) : (s.setGroup c n g).l1 = s.l1 := rfl
@[simp] theorem State.setGroup_resvs (s : State) (c n : Nat) (g : Group) : (s.setGroup c n g).resvs = s.resvs := rfl
@[simp] theorem State.setGroup_regions (s : State) (c n : Nat) (g : Group) : (s.setGroup c n g).regions = s.regions := rfl
@[simp] theorem State.setGroup_ilkPages (s : State) (c n : Nat) (g : Group) : (s.setGroup c n g).ilkPages = s.ilkPages := rfl
@[simp] theorem State.setGroup_jobs (s : State) (c n : Nat) (g : Group) : (s.setGroup c n g).jobs = s.jobs := rfl
@[simp] theorem State.setGroup_units (s : State) (c n : Nat) (g : Group) : (s.setGroup c n g).units = s.units := rfl
@[simp] theorem State.setGroup_sends (s : State) (c n : Nat) (g : Group) : (s.setGroup c n g).sends = s.sends := rfl
@[simp] theorem State.setGroup_peers (s : State) (c n : Nat) (g : Group) : (s.setGroup c n g).peers = s.peers := rfl
@[simp] theorem State.setGroup_dies (s : State) (c n : Nat) (g : Group) : (s.setGroup c n g).dies = s.dies := rfl
@[simp] theorem State.setGroup_flights (s : State) (c n : Nat) (g : Group) : (s.setGroup c n g).flights = s.flights := rfl
@[simp] theorem State.setGroup_mails (s : State) (c n : Nat) (g : Group) : (s.setGroup c n g).mails = s.mails := rfl
@[simp] theorem State.setGroup_joins (s : State) (c n : Nat) (g : Group) : (s.setGroup c n g).joins = s.joins := rfl
@[simp] theorem State.setGroup_kernels (s : State) (c n : Nat) (g : Group) : (s.setGroup c n g).kernels = s.kernels := rfl
@[simp] theorem State.setGroup_extents (s : State) (c n : Nat) (g : Group) : (s.setGroup c n g).extents = s.extents := rfl
@[simp] theorem State.setGroup_queues (s : State) (c n : Nat) (g : Group) : (s.setGroup c n g).queues = s.queues := rfl
@[simp] theorem State.setGroup_served (s : State) (c n : Nat) (g : Group) : (s.setGroup c n g).served = s.served := rfl
@[simp] theorem State.setGroup_lcaddr (s : State) (c n : Nat) (g : Group) : (s.setGroup c n g).lcaddr = s.lcaddr := rfl
@[simp] theorem State.setGroup_lcop (s : State) (c n : Nat) (g : Group) : (s.setGroup c n g).lcop = s.lcop := rfl
@[simp] theorem State.setGroup_lclevel (s : State) (c n : Nat) (g : Group) : (s.setGroup c n g).lclevel = s.lclevel := rfl
@[simp] theorem State.setGroup_lcres (s : State) (c n : Nat) (g : Group) : (s.setGroup c n g).lcres = s.lcres := rfl
@[simp] theorem State.setGroup_launches (s : State) (c n : Nat) (g : Group) : (s.setGroup c n g).launches = s.launches := rfl
@[simp] theorem State.setGroup_runs (s : State) (c n : Nat) (g : Group) : (s.setGroup c n g).runs = s.runs := rfl
@[simp] theorem State.setGroup_gone (s : State) (c n : Nat) (g : Group) : (s.setGroup c n g).gone = s.gone := rfl
@[simp] theorem State.setGroup_decs (s : State) (c n : Nat) (g : Group) : (s.setGroup c n g).decs = s.decs := rfl
@[simp] theorem State.setGroup_dones (s : State) (c n : Nat) (g : Group) : (s.setGroup c n g).dones = s.dones := rfl
@[simp] theorem State.setGroup_lastDie (s : State) (c n : Nat) (g : Group) : (s.setGroup c n g).lastDie = s.lastDie := rfl
@[simp] theorem State.setGroup_images (s : State) (c n : Nat) (g : Group) : (s.setGroup c n g).images = s.images := rfl
@[simp] theorem State.setGroup_mig (s : State) (c n : Nat) (g : Group) : (s.setGroup c n g).mig = s.mig := rfl
@[simp] theorem State.setGroup_rround (s : State) (c n : Nat) (g : Group) : (s.setGroup c n g).rround = s.rround := rfl
@[simp] theorem State.setGroup_sec (s : State) (c n : Nat) (g : Group) : (s.setGroup c n g).sec = s.sec := rfl
@[simp] theorem State.setGroup_power (s : State) (c n : Nat) (g : Group) : (s.setGroup c n g).power = s.power := rfl
@[simp] theorem State.setGroup_notices (s : State) (c n : Nat) (g : Group) : (s.setGroup c n g).notices = s.notices := rfl
@[simp] theorem State.setGroup_cxlFrozen (s : State) (c n : Nat) (g : Group) : (s.setGroup c n g).cxlFrozen = s.cxlFrozen := rfl
@[simp] theorem State.setGroup_reply (s : State) (c n : Nat) (g : Group) : (s.setGroup c n g).reply = s.reply := rfl
@[simp] theorem State.setGroup_data (s : State) (c n : Nat) (g : Group) : (s.setGroup c n g).data = s.data := rfl

/-! ## setGrp -/

@[simp] theorem State.setGrp_cycle (s : State) (x : Ctx) (g : Group) : (s.setGrp x g).cycle = s.cycle := rfl
@[simp] theorem State.setGrp_agenda (s : State) (x : Ctx) (g : Group) : (s.setGrp x g).agenda = s.agenda := rfl
@[simp] theorem State.setGrp_late (s : State) (x : Ctx) (g : Group) : (s.setGrp x g).late = s.late := rfl
@[simp] theorem State.setGrp_flaw (s : State) (x : Ctx) (g : Group) : (s.setGrp x g).flaw = s.flaw := rfl
@[simp] theorem State.setGrp_focus (s : State) (x : Ctx) (g : Group) : (s.setGrp x g).focus = s.focus := rfl
@[simp] theorem State.setGrp_freeCtr (s : State) (x : Ctx) (g : Group) : (s.setGrp x g).freeCtr = s.freeCtr := rfl
@[simp] theorem State.setGrp_nextId (s : State) (x : Ctx) (g : Group) : (s.setGrp x g).nextId = s.nextId := rfl
@[simp] theorem State.setGrp_hbm (s : State) (x : Ctx) (g : Group) : (s.setGrp x g).hbm = s.hbm := rfl
@[simp] theorem State.setGrp_scratch (s : State) (x : Ctx) (g : Group) : (s.setGrp x g).scratch = s.scratch := rfl
@[simp] theorem State.setGrp_weight (s : State) (x : Ctx) (g : Group) : (s.setGrp x g).weight = s.weight := rfl
@[simp] theorem State.setGrp_hostMem (s : State) (x : Ctx) (g : Group) : (s.setGrp x g).hostMem = s.hostMem := rfl
@[simp] theorem State.setGrp_peerMem (s : State) (x : Ctx) (g : Group) : (s.setGrp x g).peerMem = s.peerMem := rfl
@[simp] theorem State.setGrp_tracked (s : State) (x : Ctx) (g : Group) : (s.setGrp x g).tracked = s.tracked := rfl
@[simp] theorem State.setGrp_dirty (s : State) (x : Ctx) (g : Group) : (s.setGrp x g).dirty = s.dirty := rfl
@[simp] theorem State.setGrp_discarded (s : State) (x : Ctx) (g : Group) : (s.setGrp x g).discarded = s.discarded := rfl
@[simp] theorem State.setGrp_lineP (s : State) (x : Ctx) (g : Group) : (s.setGrp x g).lineP = s.lineP := rfl
@[simp] theorem State.setGrp_lineH (s : State) (x : Ctx) (g : Group) : (s.setGrp x g).lineH = s.lineH := rfl
@[simp] theorem State.setGrp_roots (s : State) (x : Ctx) (g : Group) : (s.setGrp x g).roots = s.roots := rfl
@[simp] theorem State.setGrp_hroots (s : State) (x : Ctx) (g : Group) : (s.setGrp x g).hroots = s.hroots := rfl
@[simp] theorem State.setGrp_ranges (s : State) (x : Ctx) (g : Group) : (s.setGrp x g).ranges = s.ranges := rfl
@[simp] theorem State.setGrp_pins (s : State) (x : Ctx) (g : Group) : (s.setGrp x g).pins = s.pins := rfl
@[simp] theorem State.setGrp_tlb (s : State) (x : Ctx) (g : Group) : (s.setGrp x g).tlb = s.tlb := rfl
@[simp] theorem State.setGrp_dcache (s : State) (x : Ctx) (g : Group) : (s.setGrp x g).dcache = s.dcache := rfl
@[simp] theorem State.setGrp_icache (s : State) (x : Ctx) (g : Group) : (s.setGrp x g).icache = s.icache := rfl
@[simp] theorem State.setGrp_l1 (s : State) (x : Ctx) (g : Group) : (s.setGrp x g).l1 = s.l1 := rfl
@[simp] theorem State.setGrp_resvs (s : State) (x : Ctx) (g : Group) : (s.setGrp x g).resvs = s.resvs := rfl
@[simp] theorem State.setGrp_regions (s : State) (x : Ctx) (g : Group) : (s.setGrp x g).regions = s.regions := rfl
@[simp] theorem State.setGrp_ilkPages (s : State) (x : Ctx) (g : Group) : (s.setGrp x g).ilkPages = s.ilkPages := rfl
@[simp] theorem State.setGrp_jobs (s : State) (x : Ctx) (g : Group) : (s.setGrp x g).jobs = s.jobs := rfl
@[simp] theorem State.setGrp_units (s : State) (x : Ctx) (g : Group) : (s.setGrp x g).units = s.units := rfl
@[simp] theorem State.setGrp_sends (s : State) (x : Ctx) (g : Group) : (s.setGrp x g).sends = s.sends := rfl
@[simp] theorem State.setGrp_peers (s : State) (x : Ctx) (g : Group) : (s.setGrp x g).peers = s.peers := rfl
@[simp] theorem State.setGrp_dies (s : State) (x : Ctx) (g : Group) : (s.setGrp x g).dies = s.dies := rfl
@[simp] theorem State.setGrp_flights (s : State) (x : Ctx) (g : Group) : (s.setGrp x g).flights = s.flights := rfl
@[simp] theorem State.setGrp_mails (s : State) (x : Ctx) (g : Group) : (s.setGrp x g).mails = s.mails := rfl
@[simp] theorem State.setGrp_joins (s : State) (x : Ctx) (g : Group) : (s.setGrp x g).joins = s.joins := rfl
@[simp] theorem State.setGrp_kernels (s : State) (x : Ctx) (g : Group) : (s.setGrp x g).kernels = s.kernels := rfl
@[simp] theorem State.setGrp_extents (s : State) (x : Ctx) (g : Group) : (s.setGrp x g).extents = s.extents := rfl
@[simp] theorem State.setGrp_queues (s : State) (x : Ctx) (g : Group) : (s.setGrp x g).queues = s.queues := rfl
@[simp] theorem State.setGrp_served (s : State) (x : Ctx) (g : Group) : (s.setGrp x g).served = s.served := rfl
@[simp] theorem State.setGrp_lcaddr (s : State) (x : Ctx) (g : Group) : (s.setGrp x g).lcaddr = s.lcaddr := rfl
@[simp] theorem State.setGrp_lcop (s : State) (x : Ctx) (g : Group) : (s.setGrp x g).lcop = s.lcop := rfl
@[simp] theorem State.setGrp_lclevel (s : State) (x : Ctx) (g : Group) : (s.setGrp x g).lclevel = s.lclevel := rfl
@[simp] theorem State.setGrp_lcres (s : State) (x : Ctx) (g : Group) : (s.setGrp x g).lcres = s.lcres := rfl
@[simp] theorem State.setGrp_launches (s : State) (x : Ctx) (g : Group) : (s.setGrp x g).launches = s.launches := rfl
@[simp] theorem State.setGrp_runs (s : State) (x : Ctx) (g : Group) : (s.setGrp x g).runs = s.runs := rfl
@[simp] theorem State.setGrp_gone (s : State) (x : Ctx) (g : Group) : (s.setGrp x g).gone = s.gone := rfl
@[simp] theorem State.setGrp_decs (s : State) (x : Ctx) (g : Group) : (s.setGrp x g).decs = s.decs := rfl
@[simp] theorem State.setGrp_dones (s : State) (x : Ctx) (g : Group) : (s.setGrp x g).dones = s.dones := rfl
@[simp] theorem State.setGrp_lastDie (s : State) (x : Ctx) (g : Group) : (s.setGrp x g).lastDie = s.lastDie := rfl
@[simp] theorem State.setGrp_images (s : State) (x : Ctx) (g : Group) : (s.setGrp x g).images = s.images := rfl
@[simp] theorem State.setGrp_mig (s : State) (x : Ctx) (g : Group) : (s.setGrp x g).mig = s.mig := rfl
@[simp] theorem State.setGrp_rround (s : State) (x : Ctx) (g : Group) : (s.setGrp x g).rround = s.rround := rfl
@[simp] theorem State.setGrp_sec (s : State) (x : Ctx) (g : Group) : (s.setGrp x g).sec = s.sec := rfl
@[simp] theorem State.setGrp_power (s : State) (x : Ctx) (g : Group) : (s.setGrp x g).power = s.power := rfl
@[simp] theorem State.setGrp_notices (s : State) (x : Ctx) (g : Group) : (s.setGrp x g).notices = s.notices := rfl
@[simp] theorem State.setGrp_cxlFrozen (s : State) (x : Ctx) (g : Group) : (s.setGrp x g).cxlFrozen = s.cxlFrozen := rfl
@[simp] theorem State.setGrp_reply (s : State) (x : Ctx) (g : Group) : (s.setGrp x g).reply = s.reply := rfl
@[simp] theorem State.setGrp_data (s : State) (x : Ctx) (g : Group) : (s.setGrp x g).data = s.data := rfl

/-! ## setSpl -/

@[simp] theorem State.setSpl_cycle (s : State) (x : Ctx) (p : Split) : (s.setSpl x p).cycle = s.cycle := rfl
@[simp] theorem State.setSpl_agenda (s : State) (x : Ctx) (p : Split) : (s.setSpl x p).agenda = s.agenda := rfl
@[simp] theorem State.setSpl_late (s : State) (x : Ctx) (p : Split) : (s.setSpl x p).late = s.late := rfl
@[simp] theorem State.setSpl_flaw (s : State) (x : Ctx) (p : Split) : (s.setSpl x p).flaw = s.flaw := rfl
@[simp] theorem State.setSpl_focus (s : State) (x : Ctx) (p : Split) : (s.setSpl x p).focus = s.focus := rfl
@[simp] theorem State.setSpl_freeCtr (s : State) (x : Ctx) (p : Split) : (s.setSpl x p).freeCtr = s.freeCtr := rfl
@[simp] theorem State.setSpl_nextId (s : State) (x : Ctx) (p : Split) : (s.setSpl x p).nextId = s.nextId := rfl
@[simp] theorem State.setSpl_hbm (s : State) (x : Ctx) (p : Split) : (s.setSpl x p).hbm = s.hbm := rfl
@[simp] theorem State.setSpl_scratch (s : State) (x : Ctx) (p : Split) : (s.setSpl x p).scratch = s.scratch := rfl
@[simp] theorem State.setSpl_weight (s : State) (x : Ctx) (p : Split) : (s.setSpl x p).weight = s.weight := rfl
@[simp] theorem State.setSpl_hostMem (s : State) (x : Ctx) (p : Split) : (s.setSpl x p).hostMem = s.hostMem := rfl
@[simp] theorem State.setSpl_peerMem (s : State) (x : Ctx) (p : Split) : (s.setSpl x p).peerMem = s.peerMem := rfl
@[simp] theorem State.setSpl_tracked (s : State) (x : Ctx) (p : Split) : (s.setSpl x p).tracked = s.tracked := rfl
@[simp] theorem State.setSpl_dirty (s : State) (x : Ctx) (p : Split) : (s.setSpl x p).dirty = s.dirty := rfl
@[simp] theorem State.setSpl_discarded (s : State) (x : Ctx) (p : Split) : (s.setSpl x p).discarded = s.discarded := rfl
@[simp] theorem State.setSpl_lineP (s : State) (x : Ctx) (p : Split) : (s.setSpl x p).lineP = s.lineP := rfl
@[simp] theorem State.setSpl_lineH (s : State) (x : Ctx) (p : Split) : (s.setSpl x p).lineH = s.lineH := rfl
@[simp] theorem State.setSpl_roots (s : State) (x : Ctx) (p : Split) : (s.setSpl x p).roots = s.roots := rfl
@[simp] theorem State.setSpl_hroots (s : State) (x : Ctx) (p : Split) : (s.setSpl x p).hroots = s.hroots := rfl
@[simp] theorem State.setSpl_ranges (s : State) (x : Ctx) (p : Split) : (s.setSpl x p).ranges = s.ranges := rfl
@[simp] theorem State.setSpl_pins (s : State) (x : Ctx) (p : Split) : (s.setSpl x p).pins = s.pins := rfl
@[simp] theorem State.setSpl_tlb (s : State) (x : Ctx) (p : Split) : (s.setSpl x p).tlb = s.tlb := rfl
@[simp] theorem State.setSpl_dcache (s : State) (x : Ctx) (p : Split) : (s.setSpl x p).dcache = s.dcache := rfl
@[simp] theorem State.setSpl_icache (s : State) (x : Ctx) (p : Split) : (s.setSpl x p).icache = s.icache := rfl
@[simp] theorem State.setSpl_l1 (s : State) (x : Ctx) (p : Split) : (s.setSpl x p).l1 = s.l1 := rfl
@[simp] theorem State.setSpl_resvs (s : State) (x : Ctx) (p : Split) : (s.setSpl x p).resvs = s.resvs := rfl
@[simp] theorem State.setSpl_regions (s : State) (x : Ctx) (p : Split) : (s.setSpl x p).regions = s.regions := rfl
@[simp] theorem State.setSpl_ilkPages (s : State) (x : Ctx) (p : Split) : (s.setSpl x p).ilkPages = s.ilkPages := rfl
@[simp] theorem State.setSpl_jobs (s : State) (x : Ctx) (p : Split) : (s.setSpl x p).jobs = s.jobs := rfl
@[simp] theorem State.setSpl_units (s : State) (x : Ctx) (p : Split) : (s.setSpl x p).units = s.units := rfl
@[simp] theorem State.setSpl_sends (s : State) (x : Ctx) (p : Split) : (s.setSpl x p).sends = s.sends := rfl
@[simp] theorem State.setSpl_peers (s : State) (x : Ctx) (p : Split) : (s.setSpl x p).peers = s.peers := rfl
@[simp] theorem State.setSpl_dies (s : State) (x : Ctx) (p : Split) : (s.setSpl x p).dies = s.dies := rfl
@[simp] theorem State.setSpl_flights (s : State) (x : Ctx) (p : Split) : (s.setSpl x p).flights = s.flights := rfl
@[simp] theorem State.setSpl_mails (s : State) (x : Ctx) (p : Split) : (s.setSpl x p).mails = s.mails := rfl
@[simp] theorem State.setSpl_joins (s : State) (x : Ctx) (p : Split) : (s.setSpl x p).joins = s.joins := rfl
@[simp] theorem State.setSpl_kernels (s : State) (x : Ctx) (p : Split) : (s.setSpl x p).kernels = s.kernels := rfl
@[simp] theorem State.setSpl_extents (s : State) (x : Ctx) (p : Split) : (s.setSpl x p).extents = s.extents := rfl
@[simp] theorem State.setSpl_queues (s : State) (x : Ctx) (p : Split) : (s.setSpl x p).queues = s.queues := rfl
@[simp] theorem State.setSpl_served (s : State) (x : Ctx) (p : Split) : (s.setSpl x p).served = s.served := rfl
@[simp] theorem State.setSpl_lcaddr (s : State) (x : Ctx) (p : Split) : (s.setSpl x p).lcaddr = s.lcaddr := rfl
@[simp] theorem State.setSpl_lcop (s : State) (x : Ctx) (p : Split) : (s.setSpl x p).lcop = s.lcop := rfl
@[simp] theorem State.setSpl_lclevel (s : State) (x : Ctx) (p : Split) : (s.setSpl x p).lclevel = s.lclevel := rfl
@[simp] theorem State.setSpl_lcres (s : State) (x : Ctx) (p : Split) : (s.setSpl x p).lcres = s.lcres := rfl
@[simp] theorem State.setSpl_launches (s : State) (x : Ctx) (p : Split) : (s.setSpl x p).launches = s.launches := rfl
@[simp] theorem State.setSpl_runs (s : State) (x : Ctx) (p : Split) : (s.setSpl x p).runs = s.runs := rfl
@[simp] theorem State.setSpl_gone (s : State) (x : Ctx) (p : Split) : (s.setSpl x p).gone = s.gone := rfl
@[simp] theorem State.setSpl_decs (s : State) (x : Ctx) (p : Split) : (s.setSpl x p).decs = s.decs := rfl
@[simp] theorem State.setSpl_dones (s : State) (x : Ctx) (p : Split) : (s.setSpl x p).dones = s.dones := rfl
@[simp] theorem State.setSpl_lastDie (s : State) (x : Ctx) (p : Split) : (s.setSpl x p).lastDie = s.lastDie := rfl
@[simp] theorem State.setSpl_images (s : State) (x : Ctx) (p : Split) : (s.setSpl x p).images = s.images := rfl
@[simp] theorem State.setSpl_mig (s : State) (x : Ctx) (p : Split) : (s.setSpl x p).mig = s.mig := rfl
@[simp] theorem State.setSpl_rround (s : State) (x : Ctx) (p : Split) : (s.setSpl x p).rround = s.rround := rfl
@[simp] theorem State.setSpl_sec (s : State) (x : Ctx) (p : Split) : (s.setSpl x p).sec = s.sec := rfl
@[simp] theorem State.setSpl_power (s : State) (x : Ctx) (p : Split) : (s.setSpl x p).power = s.power := rfl
@[simp] theorem State.setSpl_notices (s : State) (x : Ctx) (p : Split) : (s.setSpl x p).notices = s.notices := rfl
@[simp] theorem State.setSpl_cxlFrozen (s : State) (x : Ctx) (p : Split) : (s.setSpl x p).cxlFrozen = s.cxlFrozen := rfl
@[simp] theorem State.setSpl_reply (s : State) (x : Ctx) (p : Split) : (s.setSpl x p).reply = s.reply := rfl
@[simp] theorem State.setSpl_data (s : State) (x : Ctx) (p : Split) : (s.setSpl x p).data = s.data := rfl

/-! ## setX -/

@[simp] theorem State.setX_cycle (s : State) (x : Ctx) (r : BitVec 5) (v : Word64) : (s.setX x r v).cycle = s.cycle := rfl
@[simp] theorem State.setX_agenda (s : State) (x : Ctx) (r : BitVec 5) (v : Word64) : (s.setX x r v).agenda = s.agenda := rfl
@[simp] theorem State.setX_late (s : State) (x : Ctx) (r : BitVec 5) (v : Word64) : (s.setX x r v).late = s.late := rfl
@[simp] theorem State.setX_flaw (s : State) (x : Ctx) (r : BitVec 5) (v : Word64) : (s.setX x r v).flaw = s.flaw := rfl
@[simp] theorem State.setX_focus (s : State) (x : Ctx) (r : BitVec 5) (v : Word64) : (s.setX x r v).focus = s.focus := rfl
@[simp] theorem State.setX_freeCtr (s : State) (x : Ctx) (r : BitVec 5) (v : Word64) : (s.setX x r v).freeCtr = s.freeCtr := rfl
@[simp] theorem State.setX_nextId (s : State) (x : Ctx) (r : BitVec 5) (v : Word64) : (s.setX x r v).nextId = s.nextId := rfl
@[simp] theorem State.setX_hbm (s : State) (x : Ctx) (r : BitVec 5) (v : Word64) : (s.setX x r v).hbm = s.hbm := rfl
@[simp] theorem State.setX_scratch (s : State) (x : Ctx) (r : BitVec 5) (v : Word64) : (s.setX x r v).scratch = s.scratch := rfl
@[simp] theorem State.setX_weight (s : State) (x : Ctx) (r : BitVec 5) (v : Word64) : (s.setX x r v).weight = s.weight := rfl
@[simp] theorem State.setX_hostMem (s : State) (x : Ctx) (r : BitVec 5) (v : Word64) : (s.setX x r v).hostMem = s.hostMem := rfl
@[simp] theorem State.setX_peerMem (s : State) (x : Ctx) (r : BitVec 5) (v : Word64) : (s.setX x r v).peerMem = s.peerMem := rfl
@[simp] theorem State.setX_tracked (s : State) (x : Ctx) (r : BitVec 5) (v : Word64) : (s.setX x r v).tracked = s.tracked := rfl
@[simp] theorem State.setX_dirty (s : State) (x : Ctx) (r : BitVec 5) (v : Word64) : (s.setX x r v).dirty = s.dirty := rfl
@[simp] theorem State.setX_discarded (s : State) (x : Ctx) (r : BitVec 5) (v : Word64) : (s.setX x r v).discarded = s.discarded := rfl
@[simp] theorem State.setX_lineP (s : State) (x : Ctx) (r : BitVec 5) (v : Word64) : (s.setX x r v).lineP = s.lineP := rfl
@[simp] theorem State.setX_lineH (s : State) (x : Ctx) (r : BitVec 5) (v : Word64) : (s.setX x r v).lineH = s.lineH := rfl
@[simp] theorem State.setX_roots (s : State) (x : Ctx) (r : BitVec 5) (v : Word64) : (s.setX x r v).roots = s.roots := rfl
@[simp] theorem State.setX_hroots (s : State) (x : Ctx) (r : BitVec 5) (v : Word64) : (s.setX x r v).hroots = s.hroots := rfl
@[simp] theorem State.setX_ranges (s : State) (x : Ctx) (r : BitVec 5) (v : Word64) : (s.setX x r v).ranges = s.ranges := rfl
@[simp] theorem State.setX_pins (s : State) (x : Ctx) (r : BitVec 5) (v : Word64) : (s.setX x r v).pins = s.pins := rfl
@[simp] theorem State.setX_tlb (s : State) (x : Ctx) (r : BitVec 5) (v : Word64) : (s.setX x r v).tlb = s.tlb := rfl
@[simp] theorem State.setX_dcache (s : State) (x : Ctx) (r : BitVec 5) (v : Word64) : (s.setX x r v).dcache = s.dcache := rfl
@[simp] theorem State.setX_icache (s : State) (x : Ctx) (r : BitVec 5) (v : Word64) : (s.setX x r v).icache = s.icache := rfl
@[simp] theorem State.setX_l1 (s : State) (x : Ctx) (r : BitVec 5) (v : Word64) : (s.setX x r v).l1 = s.l1 := rfl
@[simp] theorem State.setX_resvs (s : State) (x : Ctx) (r : BitVec 5) (v : Word64) : (s.setX x r v).resvs = s.resvs := rfl
@[simp] theorem State.setX_regions (s : State) (x : Ctx) (r : BitVec 5) (v : Word64) : (s.setX x r v).regions = s.regions := rfl
@[simp] theorem State.setX_ilkPages (s : State) (x : Ctx) (r : BitVec 5) (v : Word64) : (s.setX x r v).ilkPages = s.ilkPages := rfl
@[simp] theorem State.setX_jobs (s : State) (x : Ctx) (r : BitVec 5) (v : Word64) : (s.setX x r v).jobs = s.jobs := rfl
@[simp] theorem State.setX_units (s : State) (x : Ctx) (r : BitVec 5) (v : Word64) : (s.setX x r v).units = s.units := rfl
@[simp] theorem State.setX_sends (s : State) (x : Ctx) (r : BitVec 5) (v : Word64) : (s.setX x r v).sends = s.sends := rfl
@[simp] theorem State.setX_peers (s : State) (x : Ctx) (r : BitVec 5) (v : Word64) : (s.setX x r v).peers = s.peers := rfl
@[simp] theorem State.setX_dies (s : State) (x : Ctx) (r : BitVec 5) (v : Word64) : (s.setX x r v).dies = s.dies := rfl
@[simp] theorem State.setX_flights (s : State) (x : Ctx) (r : BitVec 5) (v : Word64) : (s.setX x r v).flights = s.flights := rfl
@[simp] theorem State.setX_mails (s : State) (x : Ctx) (r : BitVec 5) (v : Word64) : (s.setX x r v).mails = s.mails := rfl
@[simp] theorem State.setX_joins (s : State) (x : Ctx) (r : BitVec 5) (v : Word64) : (s.setX x r v).joins = s.joins := rfl
@[simp] theorem State.setX_kernels (s : State) (x : Ctx) (r : BitVec 5) (v : Word64) : (s.setX x r v).kernels = s.kernels := rfl
@[simp] theorem State.setX_extents (s : State) (x : Ctx) (r : BitVec 5) (v : Word64) : (s.setX x r v).extents = s.extents := rfl
@[simp] theorem State.setX_queues (s : State) (x : Ctx) (r : BitVec 5) (v : Word64) : (s.setX x r v).queues = s.queues := rfl
@[simp] theorem State.setX_served (s : State) (x : Ctx) (r : BitVec 5) (v : Word64) : (s.setX x r v).served = s.served := rfl
@[simp] theorem State.setX_lcaddr (s : State) (x : Ctx) (r : BitVec 5) (v : Word64) : (s.setX x r v).lcaddr = s.lcaddr := rfl
@[simp] theorem State.setX_lcop (s : State) (x : Ctx) (r : BitVec 5) (v : Word64) : (s.setX x r v).lcop = s.lcop := rfl
@[simp] theorem State.setX_lclevel (s : State) (x : Ctx) (r : BitVec 5) (v : Word64) : (s.setX x r v).lclevel = s.lclevel := rfl
@[simp] theorem State.setX_lcres (s : State) (x : Ctx) (r : BitVec 5) (v : Word64) : (s.setX x r v).lcres = s.lcres := rfl
@[simp] theorem State.setX_launches (s : State) (x : Ctx) (r : BitVec 5) (v : Word64) : (s.setX x r v).launches = s.launches := rfl
@[simp] theorem State.setX_runs (s : State) (x : Ctx) (r : BitVec 5) (v : Word64) : (s.setX x r v).runs = s.runs := rfl
@[simp] theorem State.setX_gone (s : State) (x : Ctx) (r : BitVec 5) (v : Word64) : (s.setX x r v).gone = s.gone := rfl
@[simp] theorem State.setX_decs (s : State) (x : Ctx) (r : BitVec 5) (v : Word64) : (s.setX x r v).decs = s.decs := rfl
@[simp] theorem State.setX_dones (s : State) (x : Ctx) (r : BitVec 5) (v : Word64) : (s.setX x r v).dones = s.dones := rfl
@[simp] theorem State.setX_lastDie (s : State) (x : Ctx) (r : BitVec 5) (v : Word64) : (s.setX x r v).lastDie = s.lastDie := rfl
@[simp] theorem State.setX_images (s : State) (x : Ctx) (r : BitVec 5) (v : Word64) : (s.setX x r v).images = s.images := rfl
@[simp] theorem State.setX_mig (s : State) (x : Ctx) (r : BitVec 5) (v : Word64) : (s.setX x r v).mig = s.mig := rfl
@[simp] theorem State.setX_rround (s : State) (x : Ctx) (r : BitVec 5) (v : Word64) : (s.setX x r v).rround = s.rround := rfl
@[simp] theorem State.setX_sec (s : State) (x : Ctx) (r : BitVec 5) (v : Word64) : (s.setX x r v).sec = s.sec := rfl
@[simp] theorem State.setX_power (s : State) (x : Ctx) (r : BitVec 5) (v : Word64) : (s.setX x r v).power = s.power := rfl
@[simp] theorem State.setX_notices (s : State) (x : Ctx) (r : BitVec 5) (v : Word64) : (s.setX x r v).notices = s.notices := rfl
@[simp] theorem State.setX_cxlFrozen (s : State) (x : Ctx) (r : BitVec 5) (v : Word64) : (s.setX x r v).cxlFrozen = s.cxlFrozen := rfl
@[simp] theorem State.setX_reply (s : State) (x : Ctx) (r : BitVec 5) (v : Word64) : (s.setX x r v).reply = s.reply := rfl
@[simp] theorem State.setX_data (s : State) (x : Ctx) (r : BitVec 5) (v : Word64) : (s.setX x r v).data = s.data := rfl

/-! ## setUnit -/

@[simp] theorem State.setUnit_cycle (s : State) (u : Nat) (y : Unit) : (s.setUnit u y).cycle = s.cycle := rfl
@[simp] theorem State.setUnit_agenda (s : State) (u : Nat) (y : Unit) : (s.setUnit u y).agenda = s.agenda := rfl
@[simp] theorem State.setUnit_late (s : State) (u : Nat) (y : Unit) : (s.setUnit u y).late = s.late := rfl
@[simp] theorem State.setUnit_flaw (s : State) (u : Nat) (y : Unit) : (s.setUnit u y).flaw = s.flaw := rfl
@[simp] theorem State.setUnit_focus (s : State) (u : Nat) (y : Unit) : (s.setUnit u y).focus = s.focus := rfl
@[simp] theorem State.setUnit_freeCtr (s : State) (u : Nat) (y : Unit) : (s.setUnit u y).freeCtr = s.freeCtr := rfl
@[simp] theorem State.setUnit_nextId (s : State) (u : Nat) (y : Unit) : (s.setUnit u y).nextId = s.nextId := rfl
@[simp] theorem State.setUnit_hbm (s : State) (u : Nat) (y : Unit) : (s.setUnit u y).hbm = s.hbm := rfl
@[simp] theorem State.setUnit_scratch (s : State) (u : Nat) (y : Unit) : (s.setUnit u y).scratch = s.scratch := rfl
@[simp] theorem State.setUnit_weight (s : State) (u : Nat) (y : Unit) : (s.setUnit u y).weight = s.weight := rfl
@[simp] theorem State.setUnit_hostMem (s : State) (u : Nat) (y : Unit) : (s.setUnit u y).hostMem = s.hostMem := rfl
@[simp] theorem State.setUnit_peerMem (s : State) (u : Nat) (y : Unit) : (s.setUnit u y).peerMem = s.peerMem := rfl
@[simp] theorem State.setUnit_tracked (s : State) (u : Nat) (y : Unit) : (s.setUnit u y).tracked = s.tracked := rfl
@[simp] theorem State.setUnit_dirty (s : State) (u : Nat) (y : Unit) : (s.setUnit u y).dirty = s.dirty := rfl
@[simp] theorem State.setUnit_discarded (s : State) (u : Nat) (y : Unit) : (s.setUnit u y).discarded = s.discarded := rfl
@[simp] theorem State.setUnit_lineP (s : State) (u : Nat) (y : Unit) : (s.setUnit u y).lineP = s.lineP := rfl
@[simp] theorem State.setUnit_lineH (s : State) (u : Nat) (y : Unit) : (s.setUnit u y).lineH = s.lineH := rfl
@[simp] theorem State.setUnit_roots (s : State) (u : Nat) (y : Unit) : (s.setUnit u y).roots = s.roots := rfl
@[simp] theorem State.setUnit_hroots (s : State) (u : Nat) (y : Unit) : (s.setUnit u y).hroots = s.hroots := rfl
@[simp] theorem State.setUnit_ranges (s : State) (u : Nat) (y : Unit) : (s.setUnit u y).ranges = s.ranges := rfl
@[simp] theorem State.setUnit_pins (s : State) (u : Nat) (y : Unit) : (s.setUnit u y).pins = s.pins := rfl
@[simp] theorem State.setUnit_tlb (s : State) (u : Nat) (y : Unit) : (s.setUnit u y).tlb = s.tlb := rfl
@[simp] theorem State.setUnit_dcache (s : State) (u : Nat) (y : Unit) : (s.setUnit u y).dcache = s.dcache := rfl
@[simp] theorem State.setUnit_icache (s : State) (u : Nat) (y : Unit) : (s.setUnit u y).icache = s.icache := rfl
@[simp] theorem State.setUnit_l1 (s : State) (u : Nat) (y : Unit) : (s.setUnit u y).l1 = s.l1 := rfl
@[simp] theorem State.setUnit_resvs (s : State) (u : Nat) (y : Unit) : (s.setUnit u y).resvs = s.resvs := rfl
@[simp] theorem State.setUnit_regions (s : State) (u : Nat) (y : Unit) : (s.setUnit u y).regions = s.regions := rfl
@[simp] theorem State.setUnit_ilkPages (s : State) (u : Nat) (y : Unit) : (s.setUnit u y).ilkPages = s.ilkPages := rfl
@[simp] theorem State.setUnit_jobs (s : State) (u : Nat) (y : Unit) : (s.setUnit u y).jobs = s.jobs := rfl
@[simp] theorem State.setUnit_cores (s : State) (u : Nat) (y : Unit) : (s.setUnit u y).cores = s.cores := rfl
@[simp] theorem State.setUnit_sends (s : State) (u : Nat) (y : Unit) : (s.setUnit u y).sends = s.sends := rfl
@[simp] theorem State.setUnit_peers (s : State) (u : Nat) (y : Unit) : (s.setUnit u y).peers = s.peers := rfl
@[simp] theorem State.setUnit_dies (s : State) (u : Nat) (y : Unit) : (s.setUnit u y).dies = s.dies := rfl
@[simp] theorem State.setUnit_flights (s : State) (u : Nat) (y : Unit) : (s.setUnit u y).flights = s.flights := rfl
@[simp] theorem State.setUnit_mails (s : State) (u : Nat) (y : Unit) : (s.setUnit u y).mails = s.mails := rfl
@[simp] theorem State.setUnit_joins (s : State) (u : Nat) (y : Unit) : (s.setUnit u y).joins = s.joins := rfl
@[simp] theorem State.setUnit_kernels (s : State) (u : Nat) (y : Unit) : (s.setUnit u y).kernels = s.kernels := rfl
@[simp] theorem State.setUnit_extents (s : State) (u : Nat) (y : Unit) : (s.setUnit u y).extents = s.extents := rfl
@[simp] theorem State.setUnit_queues (s : State) (u : Nat) (y : Unit) : (s.setUnit u y).queues = s.queues := rfl
@[simp] theorem State.setUnit_served (s : State) (u : Nat) (y : Unit) : (s.setUnit u y).served = s.served := rfl
@[simp] theorem State.setUnit_lcaddr (s : State) (u : Nat) (y : Unit) : (s.setUnit u y).lcaddr = s.lcaddr := rfl
@[simp] theorem State.setUnit_lcop (s : State) (u : Nat) (y : Unit) : (s.setUnit u y).lcop = s.lcop := rfl
@[simp] theorem State.setUnit_lclevel (s : State) (u : Nat) (y : Unit) : (s.setUnit u y).lclevel = s.lclevel := rfl
@[simp] theorem State.setUnit_lcres (s : State) (u : Nat) (y : Unit) : (s.setUnit u y).lcres = s.lcres := rfl
@[simp] theorem State.setUnit_launches (s : State) (u : Nat) (y : Unit) : (s.setUnit u y).launches = s.launches := rfl
@[simp] theorem State.setUnit_runs (s : State) (u : Nat) (y : Unit) : (s.setUnit u y).runs = s.runs := rfl
@[simp] theorem State.setUnit_gone (s : State) (u : Nat) (y : Unit) : (s.setUnit u y).gone = s.gone := rfl
@[simp] theorem State.setUnit_decs (s : State) (u : Nat) (y : Unit) : (s.setUnit u y).decs = s.decs := rfl
@[simp] theorem State.setUnit_dones (s : State) (u : Nat) (y : Unit) : (s.setUnit u y).dones = s.dones := rfl
@[simp] theorem State.setUnit_lastDie (s : State) (u : Nat) (y : Unit) : (s.setUnit u y).lastDie = s.lastDie := rfl
@[simp] theorem State.setUnit_images (s : State) (u : Nat) (y : Unit) : (s.setUnit u y).images = s.images := rfl
@[simp] theorem State.setUnit_mig (s : State) (u : Nat) (y : Unit) : (s.setUnit u y).mig = s.mig := rfl
@[simp] theorem State.setUnit_rround (s : State) (u : Nat) (y : Unit) : (s.setUnit u y).rround = s.rround := rfl
@[simp] theorem State.setUnit_sec (s : State) (u : Nat) (y : Unit) : (s.setUnit u y).sec = s.sec := rfl
@[simp] theorem State.setUnit_power (s : State) (u : Nat) (y : Unit) : (s.setUnit u y).power = s.power := rfl
@[simp] theorem State.setUnit_notices (s : State) (u : Nat) (y : Unit) : (s.setUnit u y).notices = s.notices := rfl
@[simp] theorem State.setUnit_cxlFrozen (s : State) (u : Nat) (y : Unit) : (s.setUnit u y).cxlFrozen = s.cxlFrozen := rfl
@[simp] theorem State.setUnit_reply (s : State) (u : Nat) (y : Unit) : (s.setUnit u y).reply = s.reply := rfl
@[simp] theorem State.setUnit_data (s : State) (u : Nat) (y : Unit) : (s.setUnit u y).data = s.data := rfl

/-! ## setDie -/

@[simp] theorem State.setDie_cycle (s : State) (d : Nat) (y : Die) : (s.setDie d y).cycle = s.cycle := rfl
@[simp] theorem State.setDie_agenda (s : State) (d : Nat) (y : Die) : (s.setDie d y).agenda = s.agenda := rfl
@[simp] theorem State.setDie_late (s : State) (d : Nat) (y : Die) : (s.setDie d y).late = s.late := rfl
@[simp] theorem State.setDie_flaw (s : State) (d : Nat) (y : Die) : (s.setDie d y).flaw = s.flaw := rfl
@[simp] theorem State.setDie_focus (s : State) (d : Nat) (y : Die) : (s.setDie d y).focus = s.focus := rfl
@[simp] theorem State.setDie_freeCtr (s : State) (d : Nat) (y : Die) : (s.setDie d y).freeCtr = s.freeCtr := rfl
@[simp] theorem State.setDie_nextId (s : State) (d : Nat) (y : Die) : (s.setDie d y).nextId = s.nextId := rfl
@[simp] theorem State.setDie_hbm (s : State) (d : Nat) (y : Die) : (s.setDie d y).hbm = s.hbm := rfl
@[simp] theorem State.setDie_scratch (s : State) (d : Nat) (y : Die) : (s.setDie d y).scratch = s.scratch := rfl
@[simp] theorem State.setDie_weight (s : State) (d : Nat) (y : Die) : (s.setDie d y).weight = s.weight := rfl
@[simp] theorem State.setDie_hostMem (s : State) (d : Nat) (y : Die) : (s.setDie d y).hostMem = s.hostMem := rfl
@[simp] theorem State.setDie_peerMem (s : State) (d : Nat) (y : Die) : (s.setDie d y).peerMem = s.peerMem := rfl
@[simp] theorem State.setDie_tracked (s : State) (d : Nat) (y : Die) : (s.setDie d y).tracked = s.tracked := rfl
@[simp] theorem State.setDie_dirty (s : State) (d : Nat) (y : Die) : (s.setDie d y).dirty = s.dirty := rfl
@[simp] theorem State.setDie_discarded (s : State) (d : Nat) (y : Die) : (s.setDie d y).discarded = s.discarded := rfl
@[simp] theorem State.setDie_lineP (s : State) (d : Nat) (y : Die) : (s.setDie d y).lineP = s.lineP := rfl
@[simp] theorem State.setDie_lineH (s : State) (d : Nat) (y : Die) : (s.setDie d y).lineH = s.lineH := rfl
@[simp] theorem State.setDie_roots (s : State) (d : Nat) (y : Die) : (s.setDie d y).roots = s.roots := rfl
@[simp] theorem State.setDie_hroots (s : State) (d : Nat) (y : Die) : (s.setDie d y).hroots = s.hroots := rfl
@[simp] theorem State.setDie_ranges (s : State) (d : Nat) (y : Die) : (s.setDie d y).ranges = s.ranges := rfl
@[simp] theorem State.setDie_pins (s : State) (d : Nat) (y : Die) : (s.setDie d y).pins = s.pins := rfl
@[simp] theorem State.setDie_tlb (s : State) (d : Nat) (y : Die) : (s.setDie d y).tlb = s.tlb := rfl
@[simp] theorem State.setDie_dcache (s : State) (d : Nat) (y : Die) : (s.setDie d y).dcache = s.dcache := rfl
@[simp] theorem State.setDie_icache (s : State) (d : Nat) (y : Die) : (s.setDie d y).icache = s.icache := rfl
@[simp] theorem State.setDie_l1 (s : State) (d : Nat) (y : Die) : (s.setDie d y).l1 = s.l1 := rfl
@[simp] theorem State.setDie_resvs (s : State) (d : Nat) (y : Die) : (s.setDie d y).resvs = s.resvs := rfl
@[simp] theorem State.setDie_regions (s : State) (d : Nat) (y : Die) : (s.setDie d y).regions = s.regions := rfl
@[simp] theorem State.setDie_ilkPages (s : State) (d : Nat) (y : Die) : (s.setDie d y).ilkPages = s.ilkPages := rfl
@[simp] theorem State.setDie_jobs (s : State) (d : Nat) (y : Die) : (s.setDie d y).jobs = s.jobs := rfl
@[simp] theorem State.setDie_units (s : State) (d : Nat) (y : Die) : (s.setDie d y).units = s.units := rfl
@[simp] theorem State.setDie_cores (s : State) (d : Nat) (y : Die) : (s.setDie d y).cores = s.cores := rfl
@[simp] theorem State.setDie_sends (s : State) (d : Nat) (y : Die) : (s.setDie d y).sends = s.sends := rfl
@[simp] theorem State.setDie_peers (s : State) (d : Nat) (y : Die) : (s.setDie d y).peers = s.peers := rfl
@[simp] theorem State.setDie_flights (s : State) (d : Nat) (y : Die) : (s.setDie d y).flights = s.flights := rfl
@[simp] theorem State.setDie_mails (s : State) (d : Nat) (y : Die) : (s.setDie d y).mails = s.mails := rfl
@[simp] theorem State.setDie_joins (s : State) (d : Nat) (y : Die) : (s.setDie d y).joins = s.joins := rfl
@[simp] theorem State.setDie_kernels (s : State) (d : Nat) (y : Die) : (s.setDie d y).kernels = s.kernels := rfl
@[simp] theorem State.setDie_extents (s : State) (d : Nat) (y : Die) : (s.setDie d y).extents = s.extents := rfl
@[simp] theorem State.setDie_queues (s : State) (d : Nat) (y : Die) : (s.setDie d y).queues = s.queues := rfl
@[simp] theorem State.setDie_served (s : State) (d : Nat) (y : Die) : (s.setDie d y).served = s.served := rfl
@[simp] theorem State.setDie_lcaddr (s : State) (d : Nat) (y : Die) : (s.setDie d y).lcaddr = s.lcaddr := rfl
@[simp] theorem State.setDie_lcop (s : State) (d : Nat) (y : Die) : (s.setDie d y).lcop = s.lcop := rfl
@[simp] theorem State.setDie_lclevel (s : State) (d : Nat) (y : Die) : (s.setDie d y).lclevel = s.lclevel := rfl
@[simp] theorem State.setDie_lcres (s : State) (d : Nat) (y : Die) : (s.setDie d y).lcres = s.lcres := rfl
@[simp] theorem State.setDie_launches (s : State) (d : Nat) (y : Die) : (s.setDie d y).launches = s.launches := rfl
@[simp] theorem State.setDie_runs (s : State) (d : Nat) (y : Die) : (s.setDie d y).runs = s.runs := rfl
@[simp] theorem State.setDie_gone (s : State) (d : Nat) (y : Die) : (s.setDie d y).gone = s.gone := rfl
@[simp] theorem State.setDie_decs (s : State) (d : Nat) (y : Die) : (s.setDie d y).decs = s.decs := rfl
@[simp] theorem State.setDie_dones (s : State) (d : Nat) (y : Die) : (s.setDie d y).dones = s.dones := rfl
@[simp] theorem State.setDie_lastDie (s : State) (d : Nat) (y : Die) : (s.setDie d y).lastDie = s.lastDie := rfl
@[simp] theorem State.setDie_images (s : State) (d : Nat) (y : Die) : (s.setDie d y).images = s.images := rfl
@[simp] theorem State.setDie_mig (s : State) (d : Nat) (y : Die) : (s.setDie d y).mig = s.mig := rfl
@[simp] theorem State.setDie_rround (s : State) (d : Nat) (y : Die) : (s.setDie d y).rround = s.rround := rfl
@[simp] theorem State.setDie_sec (s : State) (d : Nat) (y : Die) : (s.setDie d y).sec = s.sec := rfl
@[simp] theorem State.setDie_power (s : State) (d : Nat) (y : Die) : (s.setDie d y).power = s.power := rfl
@[simp] theorem State.setDie_notices (s : State) (d : Nat) (y : Die) : (s.setDie d y).notices = s.notices := rfl
@[simp] theorem State.setDie_cxlFrozen (s : State) (d : Nat) (y : Die) : (s.setDie d y).cxlFrozen = s.cxlFrozen := rfl
@[simp] theorem State.setDie_reply (s : State) (d : Nat) (y : Die) : (s.setDie d y).reply = s.reply := rfl
@[simp] theorem State.setDie_data (s : State) (d : Nat) (y : Die) : (s.setDie d y).data = s.data := rfl

/-! ## Reading what was written -/

@[simp] theorem State.core_setCore (s : State) (c : Nat) (k : Core) : (s.setCore c k).core c = k := by
  simp [State.core, State.setCore]

theorem State.core_setCore_other (s : State) {c d : Nat} (k : Core) (h : d ≠ c) : (s.setCore c k).core d = s.core d := by
  simp [State.core, State.setCore, Map.find_put_other, h]

@[simp] theorem Core.slot_setSlot (k : Core) (n : Nat) (w : Slot) : (k.setSlot n w).slot n = w := by
  simp [Core.slot, Core.setSlot]

theorem Core.slot_setSlot_other (k : Core) {n m : Nat} (w : Slot) (h : m ≠ n) : (k.setSlot n w).slot m = k.slot m := by
  simp [Core.slot, Core.setSlot, Map.find_put_other, h]

@[simp] theorem State.slot_setSlot (s : State) (c n : Nat) (w : Slot) : (s.setSlot c n w).slot c n = w := by
  simp [State.slot, State.setSlot]

@[simp] theorem State.group_setGroup (s : State) (c n : Nat) (g : Group) : (s.setGroup c n g).group c n = some g := by
  simp [State.group, State.setGroup]

@[simp] theorem State.grp_setGrp (s : State) (x : Ctx) (g : Group) : (s.setGrp x g).grp x = g := by
  simp [State.grp, State.setGrp]

@[simp] theorem Group.split_setSplit (g : Group) (k : Nat) (p : Split) : (g.setSplit k p).split k = p := by
  simp [Group.split, Group.setSplit]

theorem Group.split_setSplit_other (g : Group) {k j : Nat} (p : Split) (h : j ≠ k) :
    (g.setSplit k p).split j = g.split j := by
  simp [Group.split, Group.setSplit, Map.find_put_other, h]

@[simp] theorem State.spl_setSpl (s : State) (x : Ctx) (p : Split) : (s.setSpl x p).spl x = p := by
  simp [State.spl, State.setSpl]

@[simp] theorem State.unit_setUnit (s : State) (u : Nat) (y : Unit) : (s.setUnit u y).unit u = y := by
  simp [State.unit, State.setUnit]

theorem State.unit_setUnit_other (s : State) {u v : Nat} (y : Unit) (h : v ≠ u) : (s.setUnit u y).unit v = s.unit v := by
  simp [State.unit, State.setUnit, Map.find_put_other, h]

@[simp] theorem State.die_setDie (s : State) (d : Nat) (y : Die) : (s.setDie d y).die d = y := by
  simp [State.die, State.setDie]

theorem State.die_setDie_other (s : State) {d e : Nat} (y : Die) (h : e ≠ d) : (s.setDie d y).die e = s.die e := by
  simp [State.die, State.setDie, Map.find_put_other, h]

/-! ## Lane registers and masks -/

@[simp] theorem Group.setV_v32 (g : Group) (r : BitVec 6) (l : Nat) (w : Word32) : (g.setV r l w).v32 r l = w := by
  simp [Group.v32, Group.setV]

/-- A lane of another register, or another lane below 32, is as before. -/
theorem Group.setV_v32_other (g : Group) {r q : BitVec 6} {l j : Nat} (w : Word32) (hl : l < 32) (hj : j < 32)
    (h : ¬ (q = r ∧ j = l)) : (g.setV r l w).v32 q j = g.v32 q j := by
  unfold Group.v32 Group.setV
  refine Map.getD_setD_other _ _ _ (fun e => h ?_)
  have : q.toNat = r.toNat ∧ j = l := by omega
  exact ⟨BitVec.eq_of_toNat_eq this.1, this.2⟩

end Sys2Proof.Machine
end

