-- ==== Sys2Proof/Laws/Issue.lean ====
section
/-! SUPPORT. The issue stage: what `issue` answers once the checks of 05 R102 pass, and when they pass for the instructions of
the hart, for device instructions and for lane instructions. -/

namespace Sys2Proof.Machine

/-- The split that issues a word, as the instruction sees it. -/
def State.issuer (s : State) (x : Ctx) (w : Word32) : Ctx := { x with word := w, fmt := (s.spl x).format }

/-- The checks pass and nothing blocks: the instruction's own effect decides. -/
structure Issued (w : Word32) (req : Ctx → State → Req) (x : Ctx) (s : State) : Prop where
  current : s.current = some x
  check   : (req (s.issuer x w) s).check (s.issuer x w) (s.grp x) (s.spl x) = none
  free    : (req (s.issuer x w) s).blocked s (s.issuer x w) (s.grp x) (s.spl x) = false

variable {w : Word32} {req : Ctx → State → Req} {body : Ctx → State → Res} {x : Ctx} {s t : State}

theorem issue_next (h : Issued w req x s) (hb : body (s.issuer x w) s = .next t) :
    issue w req body s =
      .next (t.finish x ((s.spl x).pc + (req (s.issuer x w) s).len) (req (s.issuer x w) s).cycles false) := by
  have hc := h.check; have hf := h.free
  simp only [State.issuer, State.spl, State.grp] at hc hf hb
  simp only [issue, h.current, State.grp, hc, hf, hb, Bool.false_eq_true, if_false]
  rfl

theorem issue_nextFmt (h : Issued w req x s) (hb : body (s.issuer x w) s = .nextFmt t) :
    issue w req body s =
      .next (t.finish x ((s.spl x).pc + (req (s.issuer x w) s).len) (req (s.issuer x w) s).cycles true) := by
  have hc := h.check; have hf := h.free
  simp only [State.issuer, State.spl, State.grp] at hc hf hb
  simp only [issue, h.current, State.grp, hc, hf, hb, Bool.false_eq_true, if_false]
  rfl

theorem issue_jump {pc : Word64} (h : Issued w req x s) (hb : body (s.issuer x w) s = .jump t pc) :
    issue w req body s = .next (t.finish x pc (req (s.issuer x w) s).cycles false) := by
  have hc := h.check; have hf := h.free
  simp only [State.issuer, State.spl, State.grp] at hc hf hb
  simp only [issue, h.current, State.grp, hc, hf, hb, Bool.false_eq_true, if_false]
  rfl

theorem issue_trap {code : Nat} {tval : Word64} (h : Issued w req x s) (hb : body (s.issuer x w) s = .trap code tval) :
    issue w req body s = .next (s.raise x.c x.sl x.sp code tval (s.spl x).pc (s.spl x).remaining) := by
  have hc := h.check; have hf := h.free
  simp only [State.issuer, State.spl, State.grp] at hc hf hb
  simp only [issue, h.current, State.grp, hc, hf, hb, Bool.false_eq_true, if_false]
  rfl

theorem issue_parkNext {wk : Wake} (h : Issued w req x s) (hb : body (s.issuer x w) s = .parkNext t wk) :
    issue w req body s =
      .next ((t.counted x).parkSplit x ((s.spl x).pc + (req (s.issuer x w) s).len) ((s.spl x).remaining - 1) wk) := by
  have hc := h.check; have hf := h.free
  simp only [State.issuer, State.spl, State.grp] at hc hf hb
  simp only [issue, h.current, State.grp, hc, hf, hb, Bool.false_eq_true, if_false]
  rfl

theorem issue_park {wk : Wake} (h : Issued w req x s) (hb : body (s.issuer x w) s = .park t wk) :
    issue w req body s = .next (t.parkSplit x (s.spl x).pc (s.spl x).remaining wk) := by
  have hc := h.check; have hf := h.free
  simp only [State.issuer, State.spl, State.grp] at hc hf hb
  simp only [issue, h.current, State.grp, hc, hf, hb, Bool.false_eq_true, if_false]
  rfl

theorem issue_after (h : Issued w req x s) (hb : body (s.issuer x w) s = .after t) : issue w req body s = .next t := by
  have hc := h.check; have hf := h.free
  simp only [State.issuer, State.spl, State.grp] at hc hf hb
  simp only [issue, h.current, State.grp, hc, hf, hb, Bool.false_eq_true, if_false]

theorem issue_frozen {cause : Option Nat} {a : Word64} (h : Issued w req x s)
    (hb : body (s.issuer x w) s = .frozen t cause a) :
    issue w req body s =
      .next ((t.finish x ((s.spl x).pc + (req (s.issuer x w) s).len) (req (s.issuer x w) s).cycles false).freezeGroup
        x.c x.sl cause a) := by
  have hc := h.check; have hf := h.free
  simp only [State.issuer, State.spl, State.grp] at hc hf hb
  simp only [issue, h.current, State.grp, hc, hf, hb, Bool.false_eq_true, if_false]
  rfl

theorem issue_gone (h : Issued w req x s) (hb : body (s.issuer x w) s = .gone t) :
    issue w req body s =
      .next { t.setCore x.c { t.core x.c with issuing := none, waiting := false } with
        cycle := t.cycle + (req (s.issuer x w) s).cycles } := by
  have hc := h.check; have hf := h.free
  simp only [State.issuer, State.spl, State.grp] at hc hf hb
  simp only [issue, h.current, State.grp, hc, hf, hb, Bool.false_eq_true, if_false]
  rfl

theorem issue_hold (h : Issued w req x s) (hb : body (s.issuer x w) s = .hold t) :
    issue w req body s =
      .next { t.setCore x.c { t.core x.c with waiting := true } with cycle := t.cycle + 1 } := by
  have hc := h.check; have hf := h.free
  simp only [State.issuer, State.spl, State.grp] at hc hf hb
  simp only [issue, h.current, State.grp, hc, hf, hb, Bool.false_eq_true, if_false]

theorem issue_stay (h : Issued w req x s) (hb : body (s.issuer x w) s = .stay t) :
    issue w req body s = .next (t.setCore x.c { t.core x.c with waiting := false }) := by
  have hc := h.check; have hf := h.free
  simp only [State.issuer, State.spl, State.grp] at hc hf hb
  simp only [issue, h.current, State.grp, hc, hf, hb, Bool.false_eq_true, if_false]

/-- An issuing split never faults and never is refused: `issue` answers a next state. -/
theorem issue_answers (w : Word32) (req : Ctx → State → Req) (body : Ctx → State → Res) (h : s.current = some x) :
    ∃ t, issue w req body s = .next t := by
  simp only [issue, h]
  repeat' split
  all_goals exact ⟨_, rfl⟩

/-! ## When the checks pass -/

/-- No armed prefix and no pending FMT: no format is in force. -/
theorem Split.format_none {p : Split} (h : p.format = none) : p.fmt = none ∧ p.armed = false := by
  unfold Split.format at h
  split at h
  · cases h
  · split at h
    · cases h
    · rename_i h1 h2
      exact ⟨h1, by simpa using h2⟩

/-- A register with an outstanding result is not among those that an instruction waits for. -/
theorem pend_free {p : Split} {n : Nat} {xs : List (BitVec 5)} (h : ∀ q ∈ p.pend, q.bank = n → q.rd ≠ 0 → q.rd ∉ xs) :
    p.pend.any (fun q => q.bank = n && xs.any (fun v => v = q.rd && v ≠ 0)) = false := by
  simp only [List.any_eq_false]
  intro q hq he
  simp only [List.any_eq_true, Bool.and_eq_true, decide_eq_true_eq] at he
  obtain ⟨hn, v, hv, rfl, h0⟩ := he
  exact h q hq hn h0 hv

/-- No load lands in no register. -/
theorem loadsInto_nil (k : Core) (sl : Nat) : k.loadsInto sl [] = false := by
  simp [Core.loadsInto]

/-- No CBTAKE of the group is on its way. -/
theorem take_free {y : Ctx} (hc : y.c = x.c) (hs : y.sl = x.sl)
    (h : ∀ f ∈ s.flights, f.core = x.c → f.slot = x.sl → f.what.taking = false) :
    (s.flights.any fun f => f.core = y.c && f.slot = y.sl && f.what.taking) = false := by
  simp only [hc, hs, List.any_eq_false, Bool.and_eq_true, decide_eq_true_eq, not_and, Bool.not_eq_true]
  intro f hf ⟨h1, h2⟩
  exact h f hf h1 h2

/-- An instruction of the hart whose own conditions hold issues: it names no lane register and is no device instruction. -/
theorem Issues.issued {xs : List (BitVec 5)} (h : Issues s x xs) (hx : (req (s.issuer x w) s).xs = xs)
    (hv : (req (s.issuer x w) s).vs = []) (hd : (req (s.issuer x w) s).dev = false)
    (hb : (req (s.issuer x w) s).bad = false) (hs : (req (s.issuer x w) s).slot = false)
    (hc : (req (s.issuer x w) s).ctl = true → LastWord s x)
    (he : (req (s.issuer x w) s).eng = 0) (hm : (req (s.issuer x w) s).mdOk = true)
    (hr : (req (s.issuer x w) s).routes = []) (hf : (req (s.issuer x w) s).fence = none)
    (hmo : (req (s.issuer x w) s).more = [])
    (hme : (req (s.issuer x w) s).mem = false ∨
      (∀ f ∈ s.flights, f.core = x.c → f.slot = x.sl → f.what.taking = false) ∧ (s.spl x).fenceHeld = false) :
    Issued w req x s := by
  obtain ⟨h1, h2⟩ := Split.format_none h.plain
  refine ⟨h.current, ?_, ?_⟩
  · have hmal : (req (s.issuer x w) s).malformed (s.spl x) = false := by
      unfold Req.malformed
      simp only [he, ne_eq, not_true_eq_false, decide_false, Bool.false_and, Bool.or_false]
      cases hcc : (req (s.issuer x w) s).ctl
      · simp
      · have hl := hc hcc
        unfold LastWord at hl
        have : (s.spl x).left = 0 ∨ (s.spl x).left = 1 := by
          have := (s.spl x).left.isLt
          rcases Nat.le_one_iff_eq_zero_or_eq_one.1 hl with h | h
          · exact .inl (BitVec.eq_of_toNat_eq h)
          · exact .inr (BitVec.eq_of_toNat_eq h)
        rcases this with h | h <;> simp [h]
    simp only [Req.check, h1, Req.checkOwn, Req.illegal, Req.barred, Req.outOfReach, hv, hmo, hd, hb, hm, h2, Req.checkRest, Req.fenced, hmal, hr, hf, hs]
    simp
  · simp only [Req.blocked, hx, pend_free (n := (s.issuer x w).sp) h.ready, hv, hmo, hd, hr, List.append_nil, loadsInto_nil]
    rcases hme with hme | hme
    · simp [hme]
    · rw [take_free (y := s.issuer x w) rfl rfl hme.1, hme.2]
      simp

/-- A hart access whose own conditions hold issues. -/
theorem IssuesMem.issued {xs : List (BitVec 5)} (h : IssuesMem s x xs) (hx : (req (s.issuer x w) s).xs = xs)
    (hv : (req (s.issuer x w) s).vs = []) (hd : (req (s.issuer x w) s).dev = false)
    (hb : (req (s.issuer x w) s).bad = false) (hs : (req (s.issuer x w) s).slot = false)
    (hc : (req (s.issuer x w) s).ctl = false) (he : (req (s.issuer x w) s).eng = 0) (hm : (req (s.issuer x w) s).mdOk = true)
    (hr : (req (s.issuer x w) s).routes = []) (hf : (req (s.issuer x w) s).fence = none)
    (hmo : (req (s.issuer x w) s).more = []) : Issued w req x s :=
  h.toIssues.issued hx hv hd hb hs (fun h => by rw [hc] at h; cases h) he hm hr hf hmo (.inr ⟨h.taken, h.fence⟩)

theorem any_ge_eq_false {n : Nat} {vs : List Nat} (h : ∀ v ∈ vs, v < n) : vs.any (fun v => decide (n ≤ v)) = false := by
  simp only [List.any_eq_false, decide_eq_true_eq]
  intro v hv
  exact Nat.not_le.2 (h v hv)

/-- The checks that follow the illegal-instruction check pass. -/
theorem checkRest_none {r : Req} {y : Ctx} (hy : y.handler = x.handler)
    (hs : r.slot = false) (hm : r.malformed (s.spl x) = false) (hv : ∀ v ∈ r.vs ++ r.routes, s.mayName x v)
    (hf : (s.spl x).mode = .u → (s.grp x).frames ≠ [] → r.fence = none) :
    r.checkRest y (s.grp x) (s.spl x) = none := by
  have hr : r.routes.any (fun v => decide ((if y.handler = true then 16 else (s.grp x).vregs) ≤ v)) = false := by
    refine any_ge_eq_false fun v h => ?_
    have := (hv v (List.mem_append_right _ h)).1
    rw [hy]
    exact this
  have hg : r.fenced (s.grp x) (s.spl x) = none := by
    unfold Req.fenced
    split
    · rename_i hg
      simp only [Bool.and_eq_true, decide_eq_true_eq, Bool.not_eq_true', List.isEmpty_eq_false_iff] at hg
      have hn : (r.vs ++ r.routes).find? (fun v => decide (16 ≤ v)) = none := by
        rw [List.find?_eq_none]
        intro v h he
        have := (hv v h).2 hg.1 hg.2
        simp at he
        omega
      rw [hn, hf hg.1 hg.2]
      rfl
    · rfl
  simp only [Req.checkRest, hm, hr, hg, hs, Bool.false_eq_true, if_false]

/-- A device instruction whose own conditions hold issues. -/
theorem IssuesDev.issued {xs : List (BitVec 5)} {vs : List (BitVec 6)} (h : IssuesDev s x xs vs)
    (hx : (req (s.issuer x w) s).xs = xs) (hv : (req (s.issuer x w) s).vs = vs.map BitVec.toNat)
    (hb : (req (s.issuer x w) s).bad = false) (hs : (req (s.issuer x w) s).slot = false)
    (hc : (req (s.issuer x w) s).malformed (s.spl x) = false)
    (hm : (req (s.issuer x w) s).mdOk = true)
    (hr : (req (s.issuer x w) s).routes = [])
    (hf : (s.spl x).mode = .u → (s.grp x).frames ≠ [] → (req (s.issuer x w) s).fence = none)
    (hmo : (req (s.issuer x w) s).more = []) :
    Issued w req x s := by
  obtain ⟨h1, h2⟩ := Split.format_none h.plain
  have hvs : ∀ v ∈ vs.map BitVec.toNat, s.mayName x v := by
    intro v hv
    obtain ⟨q, hq, rfl⟩ := List.mem_map.1 hv
    exact h.regs q hq
  have hlim : (vs.map BitVec.toNat).any
      (fun v => decide ((if (s.issuer x w).handler = true then 16 else (s.grp x).vregs) ≤ v)) = false :=
    any_ge_eq_false fun v hv => (hvs v hv).1
  refine ⟨h.current, ?_, ?_⟩
  · have hrest : (req (s.issuer x w) s).checkRest (s.issuer x w) (s.grp x) (s.spl x) = none :=
      checkRest_none (x := x) rfl hs hc (by rw [hv, hr, List.append_nil]; exact hvs) hf
    simp only [Req.check, h1, Req.checkOwn, Req.illegal, Req.barred, Req.outOfReach, hv, hmo, List.append_nil, hb, hm, h2, h.mode, hlim, hrest]
    simp
  · have hfree := h.free
    simp only [Req.blocked, hx, pend_free (n := (s.issuer x w).sp) h.ready, hv, hmo, hr, List.append_nil]
    rw [take_free (y := s.issuer x w) rfl rfl hfree.2.1, hfree.2.2]
    have hn : (!s.native (s.grp x) (s.spl x).pc && (s.core (s.issuer x w).c).loadsInto (s.issuer x w).sl (vs.map BitVec.toNat)) = false := by
      rcases hfree.1 with hn | hn
      · simp [hn]
      · exact Bool.and_eq_false_iff.2 (.inr hn)
    rw [hn]
    simp

/-- A lane instruction with the request `laneReq` makes, and perhaps more, issues. -/
theorem IssuesLane.issued {sh : Shape} {md : Option Word32} {xs : List (BitVec 5)} {vs : List (BitVec 6)}
    (h : IssuesLane s x sh md xs vs) {r : Req} (hr0 : req (s.issuer x w) s = r)
    (hx : r.xs = xs) (hv : r.vs = vs.map BitVec.toNat) (hb : r.bad = false) (hs : r.slot = false) (hc : r.ctl = false) (he : r.eng = 0)
    (ht : r.takes = decide (sh.takes ≠ .none))
    (hfo : r.fmtOk = (((s.spl x).format).map sh.takes.accepts).getD true)
    (hm : r.mdOk = sh.mdOk md) (hr : r.routes = modRoutes (md.getD 0)) (hf : r.fence = none) (hmo : r.more = []) :
    Issued w req x s := by
  subst hr0
  have hall : ∀ v ∈ (req (s.issuer x w) s).vs ++ (req (s.issuer x w) s).routes, s.mayName x v := by
    rw [hv, hr]; exact h.regs
  have hlim : (req (s.issuer x w) s).vs.any
      (fun v => decide ((if (s.issuer x w).handler = true then 16 else (s.grp x).vregs) ≤ v)) = false :=
    any_ge_eq_false fun v hv => (hall v (List.mem_append_left _ hv)).1
  have hreach : (req (s.issuer x w) s).outOfReach (s.issuer x w) (s.grp x) (s.spl x) = false := by
    simp only [Req.outOfReach, hmo, List.append_nil, hlim, h.mode]
    simp
  have hbar : (req (s.issuer x w) s).barred (s.issuer x w) (s.grp x) (s.spl x) = false := by
    simp only [Req.barred, hreach, hb, Bool.or_self]
  have hmal : (req (s.issuer x w) s).malformed (s.spl x) = false := by simp [Req.malformed, hc, he]
  have hrest : (req (s.issuer x w) s).checkRest (s.issuer x w) (s.grp x) (s.spl x) = none :=
    checkRest_none (x := x) rfl hs hmal hall (fun _ _ => hf)
  have htk : ∀ f, (s.spl x).format = some f →
      (req (s.issuer x w) s).takes = true ∧ (req (s.issuer x w) s).fmtOk = true := by
    intro f hfm
    obtain ⟨h1, h2⟩ := h.format f hfm
    rw [ht, hfo, hfm]
    exact ⟨by simpa using h1, by simpa using h2⟩
  have hmd : (req (s.issuer x w) s).mdOk = true := hm.trans h.modOk
  have hown : (req (s.issuer x w) s).checkOwn (s.issuer x w) (s.grp x) (s.spl x) = none := by
    have : (req (s.issuer x w) s).illegal (s.issuer x w) (s.grp x) (s.spl x) = none := by
      simp only [Req.illegal, hbar, hmd]
      cases hfm : (s.spl x).format with
      | none =>
        obtain ⟨h1, h2⟩ := Split.format_none hfm
        simp [h2]
      | some f => simp [htk f hfm]
    simp only [Req.checkOwn, this, hrest]
  refine ⟨h.current, ?_, ?_⟩
  · unfold Req.check
    cases hp : (s.spl x).fmt with
    | none => exact hown
    | some f =>
      have := htk f (by simp [Split.format, hp])
      simp only [hreach, this]
      simpa using hown
  · have hfree := h.free
    simp only [Req.blocked, hx, pend_free (n := (s.issuer x w).sp) h.ready, hv, hmo, hr, List.append_nil]
    rw [take_free (y := s.issuer x w) rfl rfl hfree.2.1, hfree.2.2]
    have hn : (!s.native (s.grp x) (s.spl x).pc && (s.core (s.issuer x w).c).loadsInto (s.issuer x w).sl (vs.map BitVec.toNat ++ modRoutes (md.getD 0))) = false := by
      rcases hfree.1 with hn | hn
      · simp [hn]
      · exact Bool.and_eq_false_iff.2 (.inr hn)
    rw [hn]
    simp

/-- An engine instruction of a class that the clause takes is not malformed. -/
theorem ClauseTakes.malformed {r : Req} (h : ClauseTakes s x r.eng) (hc : r.ctl = false) : r.malformed (s.spl x) = false := by
  unfold Req.malformed
  rcases h with h | h | h <;> simp [h, hc]

/-- An engine instruction without a prefix issues. -/
theorem IssuesEng.issued {cls : Nat} {xs : List (BitVec 5)} (h : IssuesEng s x cls xs)
    (hx : (req (s.issuer x w) s).xs = xs) (hv : (req (s.issuer x w) s).vs = [])
    (hb : (req (s.issuer x w) s).bad = false) (hs : (req (s.issuer x w) s).slot = false)
    (hc : (req (s.issuer x w) s).ctl = false)
    (he : (req (s.issuer x w) s).eng = cls) (hm : (req (s.issuer x w) s).mdOk = true)
    (hr : (req (s.issuer x w) s).routes = []) (hmo : (req (s.issuer x w) s).more = []) : Issued w req x s := by
  subst he
  exact IssuesDev.issued h.toIssuesDev hx hv hb hs (h.clause.malformed hc) hm hr
    (fun hu hf => absurd (h.gate hu) hf) hmo

/-- An engine instruction with any prefix in force that its entry takes issues. -/
theorem IssuesFmt.issued {takes : Takes} {cls : Nat} {xs : List (BitVec 5)} (h : IssuesFmt s x takes cls xs) {r : Req}
    (hr0 : req (s.issuer x w) s = r) (hx : r.xs = xs) (hv : r.vs = []) (hb : r.bad = false) (hs : r.slot = false) (hc : r.ctl = false)
    (he : r.eng = cls) (ht : r.takes = decide (takes ≠ .none))
    (hfo : r.fmtOk = (((s.spl x).format).map takes.accepts).getD true)
    (hm : r.mdOk = true) (hr : r.routes = []) (hmo : r.more = []) : Issued w req x s := by
  subst he
  subst hr0
  have hmal := h.clause.malformed hc
  have hreach : (req (s.issuer x w) s).outOfReach (s.issuer x w) (s.grp x) (s.spl x) = false := by
    simp only [Req.outOfReach, hv, hmo, h.mode]
    simp
  have hbar : (req (s.issuer x w) s).barred (s.issuer x w) (s.grp x) (s.spl x) = false := by
    simp only [Req.barred, hreach, hb, Bool.or_self]
  have hrest : (req (s.issuer x w) s).checkRest (s.issuer x w) (s.grp x) (s.spl x) = none :=
    checkRest_none (x := x) rfl hs hmal (by rw [hv, hr]; simp) (fun hu hf => absurd (h.gate hu) hf)
  have htk : ∀ f, (s.spl x).format = some f →
      (req (s.issuer x w) s).takes = true ∧ (req (s.issuer x w) s).fmtOk = true := by
    intro f hfm
    obtain ⟨h1, h2⟩ := h.format f hfm
    rw [ht, hfo, hfm]
    exact ⟨by simpa using h1, by simpa using h2⟩
  have hown : (req (s.issuer x w) s).checkOwn (s.issuer x w) (s.grp x) (s.spl x) = none := by
    have : (req (s.issuer x w) s).illegal (s.issuer x w) (s.grp x) (s.spl x) = none := by
      simp only [Req.illegal, hbar, hm]
      cases hfm : (s.spl x).format with
      | none =>
        obtain ⟨h1, h2⟩ := Split.format_none hfm
        simp [h2]
      | some f => simp [htk f hfm]
    simp only [Req.checkOwn, this, hrest]
  refine ⟨h.current, ?_, ?_⟩
  · unfold Req.check
    cases hp : (s.spl x).fmt with
    | none => exact hown
    | some f =>
      have := htk f (by simp [Split.format, hp])
      simp only [hreach, this]
      simpa using hown
  · simp only [Req.blocked, hx, pend_free (n := (s.issuer x w).sp) h.ready, hv, hmo, hr, List.append_nil, loadsInto_nil]
    rw [take_free (y := s.issuer x w) rfl rfl h.free.2.1, h.free.2.2]
    simp

end Sys2Proof.Machine
end

