-- ==== Sys2Proof/Laws/HartInt.lean ====
section
/-! SUPPORT. What the shapes of the hart's register instructions answer when they issue. -/

namespace Sys2Proof.Machine

variable {s : State} {x : Ctx}

/-- A two-register instruction writes f of its sources to rd and completes. -/
theorem alu_done (w : Word32) {rd rs1 rs2 : BitVec 5} (f : Word64 → Word64 → Word64) (h : Issues s x [rd, rs1, rs2]) :
    alu w rd rs1 rs2 f s = .next (s.doneX x rd (f (s.x x rs1) (s.x x rs2))) :=
  issue_next (h.issued rfl rfl rfl rfl rfl (fun h => by cases h) rfl rfl rfl rfl rfl (.inl rfl)) rfl

/-- A one-register instruction writes f of its source to rd and completes. -/
theorem alu1_done (w : Word32) {rd rs1 : BitVec 5} (f : Word64 → Word64) (h : Issues s x [rd, rs1]) :
    alu1 w rd rs1 f s = .next (s.doneX x rd (f (s.x x rs1))) :=
  issue_next (h.issued rfl rfl rfl rfl rfl (fun h => by cases h) rfl rfl rfl rfl rfl (.inl rfl)) rfl

/-- A division completes with its result outstanding for rd. -/
theorem divide_done (w : Word32) {rd rs1 rs2 : BitVec 5} (f : Word64 → Word64 → Word64) (h : Issues s x [rd, rs1, rs2]) :
    divide w rd rs1 rs2 f s = .next (s.done (s.addPend x rd (some (f (s.x x rs1) (s.x x rs2)))) x 1) :=
  issue_next (h.issued rfl rfl rfl rfl rfl (fun h => by cases h) rfl rfl rfl rfl rfl (.inl rfl)) rfl

/-- A branch goes to its target, faults on a misaligned one, or goes on. -/
theorem branch_done (w : Word32) {rs1 rs2 : BitVec 5} {off : BitVec 12} {f : Word64 → Word64 → Bool}
    (h : Issues s x [rs1, rs2]) (hl : LastWord s x) :
    branch w rs1 rs2 off f s =
      if f (s.x x rs1) (s.x x rs2) then
        if ((s.spl x).pc + branchOff off).extractLsb' 0 2 = 0#2 then
          .next (s.finish x ((s.spl x).pc + branchOff off) 1 false)
        else .next (s.raise x.c x.sl x.sp 0 ((s.spl x).pc + branchOff off) (s.spl x).pc (s.spl x).remaining)
      else .next (s.done s x 1) := by
  have hi : Issued w (fun _ _ => ({ xs := [rs1, rs2], ctl := true } : Req)) x s :=
    h.issued rfl rfl rfl rfl rfl (fun _ => hl) rfl rfl rfl rfl rfl (.inl rfl)
  unfold branch
  split
  · rename_i hf
    split
    · rename_i ha
      refine issue_jump hi ?_
      show (if f (s.x x rs1) (s.x x rs2) = true then jumpTo s _ else _) = _
      rw [if_pos hf]
      exact if_pos ha
    · rename_i ha
      refine issue_trap hi ?_
      show (if f (s.x x rs1) (s.x x rs2) = true then jumpTo s _ else _) = _
      rw [if_pos hf]
      exact if_neg ha
  · rename_i hf
    refine issue_next hi ?_
    show (if f (s.x x rs1) (s.x x rs2) = true then jumpTo s _ else _) = _
    rw [if_neg hf]

end Sys2Proof.Machine
end

