-- ==== Sys2Proof/Laws/Lane.lean ====
section
/-! SUPPORT. What the shapes of lane instructions answer when they issue: the lanes and the masks they write, and nothing else. -/

namespace Sys2Proof.Machine

variable {s : State} {x : Ctx}

/-! ## The lanes of a mask -/

theorem mem_bitsOf (m : Word32) (l : Nat) : l ∈ bitsOf m ↔ l < 32 ∧ bit m l = true := by
  simp [bitsOf, bit]

/-! ## Writing lanes -/

/-- Lanes written one after another: the listed lanes hold f, every other lane and register is as before. -/
theorem foldl_setV (ls : List Nat) (vd : BitVec 6) (f : Nat → Word32) (g : Group) (hl : ∀ l ∈ ls, l < 32) :
    let h := ls.foldl (fun h l => h.setV vd l (f l)) g
    h = { g with v := h.v } ∧ (∀ l ∈ ls, h.v32 vd l = f l) ∧
      ∀ v l, l < 32 → ¬ (v = vd ∧ l ∈ ls) → h.v32 v l = g.v32 v l := by
  induction ls generalizing g with
  | nil => exact ⟨rfl, fun l h => (by cases h), fun _ _ _ _ => rfl⟩
  | cons a r ih =>
    have ha : a < 32 := hl a List.mem_cons_self
    obtain ⟨h1, h2, h3⟩ := ih (g.setV vd a (f a)) (fun l h => hl l (List.mem_cons_of_mem _ h))
    simp only [List.foldl_cons]
    refine ⟨h1, ?_, ?_⟩
    · intro l hm
      by_cases hr : l ∈ r
      · exact h2 l hr
      · have : l = a := (List.mem_cons.1 hm).resolve_right hr
        subst this
        rw [h3 vd l ha (fun h => hr h.2), Group.setV_v32]
    · intro v l h32 hn
      rw [h3 v l h32 (fun h => hn ⟨h.1, List.mem_cons_of_mem _ h.2⟩)]
      refine Group.setV_v32_other g _ ha h32 (fun h => hn ⟨h.1, ?_⟩)
      rw [h.2]
      exact List.mem_cons_self

/-- A lane register written in the active lanes. -/
theorem writeLanes_spec (g : Group) (sp : Nat) (vd : BitVec 6) (f : Nat → Word32) :
    let h := g.writeLanes sp vd f
    h = { g with v := h.v } ∧ (∀ l, l < 32 → bit (g.split sp).m0 l = true → h.v32 vd l = f l) ∧
      ∀ v l, l < 32 → ¬ (v = vd ∧ bit (g.split sp).m0 l = true) → h.v32 v l = g.v32 v l := by
  obtain ⟨h1, h2, h3⟩ := foldl_setV (g.active sp) vd f g (fun l h => ((mem_bitsOf _ l).1 h).1)
  refine ⟨h1, fun l h hb => h2 l ((mem_bitsOf _ l).2 ⟨h, hb⟩), fun v l h hn => h3 v l h ?_⟩
  exact fun e => hn ⟨e.1, ((mem_bitsOf _ l).1 e.2).2⟩

/-- The mask of the lanes of which p holds has p as its bits. -/
theorem bit_maskOf (p : Nat → Bool) (l : Nat) (h : l < 32) : bit (maskOf p) l = p l := by
  have key : ∀ (ls : List Nat) (m : Word32), (∀ j ∈ ls, j < 32) →
      bit (ls.foldl (fun m j => if p j then m ||| laneBit j else m) m) l = (bit m l || (decide (l ∈ ls) && p l)) := by
    intro ls
    induction ls with
    | nil => intro m _; simp
    | cons a r ih =>
      intro m hm
      have ha : a < 32 := hm a List.mem_cons_self
      rw [List.foldl_cons, ih _ (fun j hj => hm j (List.mem_cons_of_mem _ hj))]
      by_cases hp : p a
      · by_cases he : l = a
        · subst he; simp [hp, bit, laneBit, ha]
        · have : (laneBit a).getLsbD l = false := by
            simp only [laneBit, BitVec.getLsbD_shiftLeft, BitVec.getLsbD_one]
            simp; omega
          simp [hp, bit, this, he]
      · by_cases he : l = a
        · subst he; simp [hp, bit]
        · simp [hp, he]
  have := key (List.range 32) 0 (fun j hj => List.mem_range.1 hj)
  unfold maskOf
  rw [this]
  simp [bit, h]

/-! ## The shapes -/

/-- The request of a lane instruction is what `IssuesLane.issued` asks for. -/
theorem laneReq_issued (w : Word32) {sh : Shape} {md : Option Word32} {vs : List (BitVec 6)} {xs : List (BitVec 5)}
    {n : Nat} (h : IssuesLane s x sh md xs vs) :
    Issued w (fun x s => { laneReq sh md vs x s with xs := xs, cycles := n }) x s :=
  h.issued rfl rfl rfl rfl rfl rfl rfl rfl rfl rfl rfl rfl rfl

theorem laneOp_writes (w : Word32) {sh : Shape} {md : Option Word32} {vs : List (BitVec 6)} {vd : BitVec 6}
    (f : Ctx → Group → Nat → Word32) (h : IssuesLane s x sh md [] (vd :: vs)) :
    WritesLanes s x md (laneCycles (s.grp x) md) vd (f (s.issuer x w) (s.grp x)) (laneOp w sh md vs vd f s) := by
  obtain ⟨h1, h2, h3⟩ := writeLanes_spec (s.grp x) x.sp vd (f (s.issuer x w) (s.grp x))
  refine ⟨_, ?_, h1, h2, h3⟩
  exact issue_next (h.issued rfl rfl rfl rfl rfl rfl rfl rfl rfl rfl rfl rfl rfl) rfl

theorem laneOpX_writes (w : Word32) {sh : Shape} {md : Option Word32} {vs : List (BitVec 6)} {vd : BitVec 6} {xs : BitVec 5}
    (f : Ctx → Group → Word32 → Nat → Word32) (h : IssuesLane s x sh md [xs] (vd :: vs)) :
    WritesLanes s x md (laneCycles (s.grp x) md) vd (f (s.issuer x w) (s.grp x) ((s.x x xs).setWidth 32))
      (laneOpX w sh md vs vd xs f s) := by
  obtain ⟨h1, h2, h3⟩ :=
    writeLanes_spec (s.grp x) x.sp vd (f (s.issuer x w) (s.grp x) ((s.x x xs).setWidth 32))
  refine ⟨_, ?_, h1, h2, h3⟩
  exact issue_next (h.issued rfl rfl rfl rfl rfl rfl rfl rfl rfl rfl rfl rfl rfl) rfl

theorem laneCmp_writes (w : Word32) {sh : Shape} {md : Option Word32} {vs : List (BitVec 6)} {xs : List (BitVec 5)}
    {k : BitVec 3} (p : Ctx → Group → Nat → Bool) (h : IssuesLane s x sh md xs vs) :
    WritesMask s x md (laneCycles (s.grp x) md) k (p (s.issuer x w) (s.grp x)) (laneCmp w sh md vs xs k p s) := by
  refine ⟨((s.grp x).rawMask x.sp k &&& ~~~(s.spl x).m0) |||
    maskOf (fun l => bit (s.spl x).m0 l && p (s.issuer x w) (s.grp x) l), ?_, ?_⟩
  · exact issue_next (h.issued rfl rfl rfl rfl rfl rfl rfl rfl rfl rfl rfl rfl rfl) rfl
  · intro l hl
    have := bit_maskOf (fun l => bit (s.spl x).m0 l && p (s.issuer x w) (s.grp x) l) l hl
    unfold bit at this ⊢
    rw [BitVec.getLsbD_or, BitVec.getLsbD_and, BitVec.getLsbD_not, this]
    cases (s.spl x).m0.getLsbD l <;> simp only [hl, decide_true, Bool.not_true, Bool.not_false, Bool.and_true,
      Bool.and_false, Bool.true_and, Bool.false_and, Bool.or_false, Bool.false_or, if_true, Bool.false_eq_true, if_false]

end Sys2Proof.Machine
end

