-- ==== Sys2Proof/Laws/Launch.lean ====
section
/-! SUPPORT. What the cancel of a unit or of a launch leaves of the launches. -/

namespace Sys2Proof.Machine

/-- A quantity that every step of a fold keeps is kept by the fold. -/
theorem foldl_keeps {α β γ : Type} (f : β → γ) (g : β → α → β) (h : ∀ b a, f (g b a) = f b) (l : List α) (b : β) :
    f (l.foldl g b) = f b := by
  induction l generalizing b with
  | nil => rfl
  | cons a l ih => rw [List.foldl_cons, ih, h]

@[simp] theorem State.addStatus_launches (s : State) (u c : Nat) (w fa : Word64) : (s.addStatus u c w fa).launches = s.launches := by
  unfold State.addStatus; split <;> rfl

@[simp] theorem State.failSteal_launches (s : State) (id r : Nat) : (s.failSteal id r).launches = s.launches := by
  unfold State.failSteal; split <;> rfl

@[simp] theorem State.dropSteals_launches (s : State) (u : Nat) : (s.dropSteals u).launches = s.launches := by
  unfold State.dropSteals
  refine foldl_keeps State.launches _ (fun t f => ?_) _ _
  split
  · split <;> simp
  · rfl

@[simp] theorem State.endUnit_launches (s : State) (u c : Nat) (w fa : Word64) (k : Bool) : (s.endUnit u c w fa k).launches = s.launches := by
  unfold State.endUnit
  dsimp only
  split
  · simp
  · simp [State.endStepOf]

/-- A unit that is cancelled leaves every launch as it is; its own done message tells its launch. -/
@[simp] theorem State.cancelUnit_launches (s : State) (u : Nat) : (s.cancelUnit u).launches = s.launches := by
  have keeps (t : State) : (t.freeSheep u).launches = t.launches := rfl
  have h : ∀ t : State, (t.cores.foldl (fun s e => (e.2.frozenOf u).foldl (fun s m =>
      s.addStatus u e.1 (firstFault 7 (coordOf e.1) m.1) m.2) s) t).launches = t.launches := fun t =>
    foldl_keeps State.launches _ (fun b a => foldl_keeps State.launches _ (fun b a => by simp) _ _) _ _
  unfold State.cancelUnit
  dsimp only
  split
  · rw [keeps, State.endUnit_launches, h]
  · rw [State.endUnit_launches, h]

@[simp] theorem State.retireImage_launches (s : State) (u : Nat) (f : Word64) : (s.retireImage u f).launches = s.launches := by
  unfold State.retireImage; split <;> rfl

end Sys2Proof.Machine
end

