-- ==== Sys2Proof/Laws/Memory.lean ====
section
/-! SUPPORT. Every operation on memories keeps their canonical form, and what a write at a place does to each byte. -/

namespace Sys2Proof.Machine

/-- A fold of byte writes keeps the canonical form. -/
theorem Memory.wf_foldl_set {α : Type} (l : List α) (k : α → Nat) (v : α → Byte) (m : Memory) (h : m.wf = true) :
    Memory.wf (l.foldl (fun m q => m.set (k q) (v q)) m) = true := by
  induction l generalizing m with
  | nil => exact h
  | cons q r ih => exact ih _ (Memory.wf_set m _ _ h)

/-- A state with the same memories has the same form. -/
theorem State.memWf_same {s t : State} (h : s.memWf) (h1 : t.hbm = s.hbm) (h2 : t.scratch = s.scratch)
    (h3 : t.weight = s.weight) (h4 : t.hostMem = s.hostMem) (h5 : t.peerMem = s.peerMem) : t.memWf := by
  unfold State.memWf at *
  rw [h1, h2, h3, h4, h5]
  exact h

@[simp] theorem State.markDirty_hbm (s : State) (a : Nat) : (s.markDirty a).hbm = s.hbm := by
  unfold State.markDirty; split <;> rfl
@[simp] theorem State.markDirty_scratch (s : State) (a : Nat) : (s.markDirty a).scratch = s.scratch := by
  unfold State.markDirty; split <;> rfl
@[simp] theorem State.markDirty_weight (s : State) (a : Nat) : (s.markDirty a).weight = s.weight := by
  unfold State.markDirty; split <;> rfl
@[simp] theorem State.markDirty_hostMem (s : State) (a : Nat) : (s.markDirty a).hostMem = s.hostMem := by
  unfold State.markDirty; split <;> rfl
@[simp] theorem State.markDirty_peerMem (s : State) (a : Nat) : (s.markDirty a).peerMem = s.peerMem := by
  unfold State.markDirty; split <;> rfl

/-- A write at an ordering point keeps the form of every memory. -/
theorem State.memWf_writePlace {s : State} (pl : Place) (d : List Byte) (h : s.memWf) : (s.writePlace pl d).memWf := by
  obtain ⟨h1, h2, h3, h4, h5⟩ := h
  cases pl <;>
    simp only [State.memWf, State.writePlace, State.markDirty_scratch, State.markDirty_weight, State.markDirty_hostMem,
      State.markDirty_peerMem, State.dropResv] <;>
    refine ⟨?_, ?_, ?_, ?_, ?_⟩ <;> first | assumption | exact Memory.wf_setBytes _ _ _ ‹_›

/-- A discard keeps the form of every memory. -/
theorem State.memWf_discardPlace {s : State} (pl : Place) (h : s.memWf) : (s.discardPlace pl).memWf := by
  obtain ⟨h1, h2, h3, h4, h5⟩ := h
  cases pl <;>
    simp only [State.memWf, State.discardPlace, State.markDirty_scratch, State.markDirty_weight, State.markDirty_hostMem,
      State.markDirty_peerMem] <;>
    refine ⟨?_, ?_, ?_, ?_, ?_⟩ <;> first | assumption | exact Memory.wf_clear _ _ _ ‹_›

/-- A write by device physical address keeps the form of every memory. -/
theorem State.memWf_physWrite {s : State} (a : Nat) (d : List Byte) (h : s.memWf) : (s.physWrite a d).memWf := by
  unfold State.physWrite
  generalize d.zip (List.range d.length) = l
  induction l generalizing s with
  | nil => exact h
  | cons q r ih =>
    refine ih ?_
    dsimp only
    split
    · exact State.memWf_writePlace _ _ h
    · exact h

/-- A write of an engine of the device keeps the form of every memory. -/
theorem State.memWf_engineWrite {s : State} (a : Nat) (d : List Byte) (h : s.memWf) : (s.engineWrite a d).memWf := by
  unfold State.engineWrite
  generalize d.zip (List.range d.length) = l
  induction l generalizing s with
  | nil => exact h
  | cons q r ih =>
    refine ih ?_
    dsimp only
    split
    · exact ⟨Memory.wf_set _ _ _ h.1, h.2⟩
    · exact h

/-- A line of a hart data cache that is filled or written leaves every memory as it is. -/
theorem State.memWf_hartHold {s : State} (c : Nat) (asid : BitVec 16) (va : Word64) (pl : Place) (dirty : Bool) (h : s.memWf) :
    (s.hartHold c asid va pl dirty).memWf := by
  unfold State.hartHold
  split
  · dsimp only
    split
    · exact h
    · split <;> exact h
    · exact h
  · exact h

/-- A performed write of an access keeps the form of every memory. -/
theorem State.memWf_writeTo {s : State} (c : Nat) (o : Op) (a : Acc) (t : Target) (d : List Byte) (update : Bool)
    (h : s.memWf) : (s.writeTo c o a t d update).memWf := by
  unfold State.writeTo
  split
  · next pl _ =>
    have hw : (s.writePlace pl d).memWf := State.memWf_writePlace pl d h
    dsimp only
    split
    · exact State.memWf_hartHold _ _ _ _ _ hw
    · split
      · exact hw
      · split <;> exact hw
  · exact ⟨h.1, Memory.wf_setBytes _ _ _ h.2.1, h.2.2⟩
  · exact h

/-- A byte that a copy writes keeps the form of every memory. -/
theorem State.memWf_putByte {s : State} (r : Reach) (d : Byte) (h : s.memWf) : (s.putByte r d).memWf := by
  cases r
  case place pl => exact State.memWf_writePlace pl [d] h
  case scratch b => exact ⟨h.1, Memory.wf_set _ _ _ h.2.1, h.2.2⟩
  case weight b => exact ⟨h.1, h.2.1, Memory.wf_set _ _ _ h.2.2.1, h.2.2.2⟩
  all_goals exact h

/-- An update of a barrier object keeps the form of every memory. -/
theorem State.memWf_updateObj {s : State} (byte b a : Nat) (err : Bool) (h : s.memWf) : (s.updateObj byte b a err).memWf :=
  ⟨h.1, Memory.wf_setBytes _ _ _ h.2.1, h.2.2⟩

/-- A record in an error log keeps the form of every memory. -/
theorem State.memWf_logRecord {s : State} (die : Nat) (r : BitVec 256) (h : s.memWf) : (s.logRecord die r).memWf := by
  unfold State.logRecord
  dsimp only
  split
  · exact h
  · have hd : ∀ (u : State) (n : Nat) (v : Die), u.memWf → (u.setDie n v).memWf := fun _ _ _ h => h
    exact hd _ _ _ (State.memWf_engineWrite _ _ h)

/-- A write of an engine, with the record of what it drops, keeps the form of every memory. -/
theorem State.memWf_engineStore {s : State} (die a : Nat) (d : List Byte) (h : s.memWf) : (s.engineStore die a d).memWf := by
  unfold State.engineStore
  dsimp only
  split
  · exact State.memWf_logRecord _ _ (State.memWf_engineWrite _ _ h)
  · exact State.memWf_engineWrite _ _ h

/-- A line that is zeroed keeps the form of every memory. -/
theorem State.memWf_zeroLine {s : State} (pa : Nat) (h : s.memWf) : (s.zeroLine pa).memWf :=
  ⟨Memory.wf_clear _ _ _ h.1, h.2⟩

/-- A heap page mapped and filled keeps the form of every memory. -/
theorem State.memWf_mapPage {s : State} (asid : BitVec 16) (va : Nat) (leaf : Nat → Word64) (d : List Byte) (h : s.memWf) :
    (s.mapPage asid va leaf d).memWf :=
  State.memWf_writePlace _ _ ⟨Memory.wf_clear _ _ _ h.1, h.2⟩

/-- A host write of the weight window keeps the form of every memory. -/
theorem State.memWf_hdm1Write {s : State} (port : BitVec 1) (a : Nat) (d : List Byte) (h : s.memWf) :
    (s.hdm1Write port a d).memWf := by
  unfold State.hdm1Write
  split
  · have hl : ∀ (u : State) (v : BitVec 2), u.memWf → State.memWf { u with cxlFrozen := v } := fun _ _ h => h
    exact hl _ _ (State.memWf_logRecord _ _ h)
  · exact ⟨h.1, h.2.1, Memory.wf_foldl_set _ _ _ _ h.2.2.1, h.2.2.2⟩

/-- A write of HDM0 keeps the form of every memory. -/
theorem State.memWf_hdm0Write {s : State} (iod a : Nat) (d : List Byte) (h : s.memWf) : (s.hdm0Write iod a d).memWf := by
  unfold State.hdm0Write
  dsimp only
  split
  · exact State.memWf_logRecord _ _ (State.memWf_physWrite _ _ h)
  · exact State.memWf_physWrite _ _ h

/-- The reset state's memories are in form. -/
theorem State.memWf_reset : State.reset.memWf := ⟨rfl, rfl, rfl, rfl, rfl⟩

end Sys2Proof.Machine
end

