-- ==== Sys2Proof/Laws/PerInstr.lean ====
section
/-! SUPPORT. One lemma per constructor of Instr for the family RoundTrip: the decoder reads an instruction's encoding back
with every operand, whatever follows it. -/

set_option linter.unusedSimpArgs false

namespace Sys2Proof.Laws

/-- The bytes of the instruction's words decode to it and leave the rest; an event has no words. -/
def RoundTrip.Statement (i : Instr) : Prop :=
  encode i ≠ [] → ∀ rest, decode ((encode i).flatMap bytesOfWord ++ rest) = .ok (i, rest)

theorem RoundTrip.imageLoad (job : BitVec 16) (img : List (BitVec 8)) : RoundTrip.Statement (.imageLoad job img) :=
  fun h => absurd rfl h

theorem RoundTrip.kernelReplace (handle : BitVec 64) (img : List (BitVec 8)) (points : List (Nat × Nat)) : RoundTrip.Statement (.kernelReplace handle img points) :=
  fun h => absurd rfl h

theorem RoundTrip.heapCompaction (job : BitVec 16) (old new len : List Nat) :
    RoundTrip.Statement (.heapCompaction job old new len) :=
  fun h => absurd rfl h

theorem RoundTrip.textReclaim (job : BitVec 16) (old : BitVec 28) : RoundTrip.Statement (.textReclaim job old) :=
  fun h => absurd rfl h

theorem RoundTrip.queueDoorbell (q : BitVec 6) (p : BitVec 32) : RoundTrip.Statement (.queueDoorbell q p) :=
  fun h => absurd rfl h

theorem RoundTrip.qcfgWrite (q : BitVec 6) (who : Writer) (v : BitVec 64) : RoundTrip.Statement (.qcfgWrite q who v) :=
  fun h => absurd rfl h

theorem RoundTrip.qsizeWrite (q : BitVec 6) (v : BitVec 64) : RoundTrip.Statement (.qsizeWrite q v) :=
  fun h => absurd rfl h

theorem RoundTrip.qstatClear (q : BitVec 6) (v : BitVec 64) : RoundTrip.Statement (.qstatClear q v) :=
  fun h => absurd rfl h

theorem RoundTrip.queueEntryDispatch (iod : BitVec 1) : RoundTrip.Statement (.queueEntryDispatch iod) :=
  fun h => absurd rfl h

theorem RoundTrip.launchAdmit (l : Nat) : RoundTrip.Statement (.launchAdmit l) :=
  fun h => absurd rfl h

theorem RoundTrip.leaseInstall (l : Nat) : RoundTrip.Statement (.leaseInstall l) :=
  fun h => absurd rfl h

theorem RoundTrip.replayStart (r : Nat) : RoundTrip.Statement (.replayStart r) :=
  fun h => absurd rfl h

theorem RoundTrip.phaseStart (job : BitVec 16) : RoundTrip.Statement (.phaseStart job) :=
  fun h => absurd rfl h

theorem RoundTrip.unitPlace (iod : BitVec 1) : RoundTrip.Statement (.unitPlace iod) :=
  fun h => absurd rfl h

theorem RoundTrip.unitRetire (u : Nat) : RoundTrip.Statement (.unitRetire u) :=
  fun h => absurd rfl h

theorem RoundTrip.doneMessage (n : Nat) : RoundTrip.Statement (.doneMessage n) :=
  fun h => absurd rfl h

theorem RoundTrip.sealed (l : Nat) : RoundTrip.Statement (.sealed l) :=
  fun h => absurd rfl h

theorem RoundTrip.collectorForward (l : Nat) (die : BitVec 3) : RoundTrip.Statement (.collectorForward l die) :=
  fun h => absurd rfl h

theorem RoundTrip.launchRetire (l : Nat) : RoundTrip.Statement (.launchRetire l) :=
  fun h => absurd rfl h

theorem RoundTrip.counterDecrement (n : Nat) : RoundTrip.Statement (.counterDecrement n) :=
  fun h => absurd rfl h

theorem RoundTrip.lcCancel (level : BitVec 3) : RoundTrip.Statement (.lcCancel level) :=
  fun h => absurd rfl h

theorem RoundTrip.lcEnd (level : BitVec 3) : RoundTrip.Statement (.lcEnd level) :=
  fun h => absurd rfl h

theorem RoundTrip.fwdTableWrite (die : BitVec 3) (idx : BitVec 10) (high : Bool) (v : BitVec 64) : RoundTrip.Statement (.fwdTableWrite die idx high v) :=
  fun h => absurd rfl h

theorem RoundTrip.icinvWrite (die : BitVec 3) (v : BitVec 64) : RoundTrip.Statement (.icinvWrite die v) :=
  fun h => absurd rfl h

theorem RoundTrip.icinvComplete (die : BitVec 3) : RoundTrip.Statement (.icinvComplete die) :=
  fun h => absurd rfl h

theorem RoundTrip.icacheMissFill (c : Nat) (sl : Nat) (sp : Nat) : RoundTrip.Statement (.icacheMissFill c sl sp) :=
  fun h => absurd rfl h

theorem RoundTrip.issueArbitration (c : Nat) : RoundTrip.Statement (.issueArbitration c) :=
  fun h => absurd rfl h

theorem RoundTrip.stallWindowExpire (c : Nat) (sl : Nat) (sp : Nat) : RoundTrip.Statement (.stallWindowExpire c sl sp) :=
  fun h => absurd rfl h

theorem RoundTrip.summaryPeriod (c : Nat) (sl : Nat) : RoundTrip.Statement (.summaryPeriod c sl) :=
  fun h => absurd rfl h

theorem RoundTrip.loadReturn (c : Nat) (op : Nat) (lane : Nat) (err : BitVec 3) : RoundTrip.Statement (.loadReturn c op lane err) :=
  fun h => absurd rfl h

theorem RoundTrip.storePerformed (c : Nat) (op : Nat × Bool) : RoundTrip.Statement (.storePerformed c op) :=
  fun h => absurd rfl h

theorem RoundTrip.homeRequest (c : Nat) (op : Nat) (idx : Nat) (fill : Bool) (err : BitVec 3) : RoundTrip.Statement (.homeRequest c op idx fill err) :=
  fun h => absurd rfl h

theorem RoundTrip.peerAccess (peer : BitVec 4) (addr : BitVec 64) (write : Bool) (n : Nat × Option Bool) (data : List (BitVec 8)) : RoundTrip.Statement (.peerAccess peer addr write n data) :=
  fun h => absurd rfl h

theorem RoundTrip.hostMemWrite (port : BitVec 1) (hdm1 : Bool) (off : BitVec 64) (data : List (BitVec 8)) : RoundTrip.Statement (.hostMemWrite port hdm1 off data) :=
  fun h => absurd rfl h

theorem RoundTrip.hostMemRead (port : BitVec 1) (hdm1 : Bool) (off : BitVec 64) (n : Nat) : RoundTrip.Statement (.hostMemRead port hdm1 off n) :=
  fun h => absurd rfl h

theorem RoundTrip.deferredSelfTest (die : BitVec 3) (kind : BitVec 8) (part : Nat) (pass : Bool) : RoundTrip.Statement (.deferredSelfTest die kind part pass) :=
  fun h => absurd rfl h

theorem RoundTrip.sfenceVmaComplete (c : Nat) (sl : Nat) (sp : Nat) : RoundTrip.Statement (.sfenceVmaComplete c sl sp) :=
  fun h => absurd rfl h

theorem RoundTrip.snapshot (die : BitVec 3) : RoundTrip.Statement (.snapshot die) :=
  fun h => absurd rfl h

theorem RoundTrip.snapshotComplete (die : BitVec 3) : RoundTrip.Statement (.snapshotComplete die) :=
  fun h => absurd rfl h

theorem RoundTrip.wsgateWrite (die : BitVec 3) (v : BitVec 64 ⊕ (BitVec 16 × Nat × Nat)) : RoundTrip.Statement (.wsgateWrite die v) :=
  fun h => absurd rfl h

theorem RoundTrip.refreshWindowStart (g : BitVec 6) : RoundTrip.Statement (.refreshWindowStart g) :=
  fun h => absurd rfl h

theorem RoundTrip.refreshWindowEnd (g : BitVec 6) : RoundTrip.Statement (.refreshWindowEnd g) :=
  fun h => absurd rfl h

theorem RoundTrip.copyFetch (c : Nat) (q : BitVec 3) : RoundTrip.Statement (.copyFetch c q) :=
  fun h => absurd rfl h

theorem RoundTrip.copyLand (c : Nat) (q : BitVec 3) (err : BitVec 3) (line : Nat) : RoundTrip.Statement (.copyLand c q err line) :=
  fun h => absurd rfl h

theorem RoundTrip.copyComplete (c : Nat) (q : BitVec 3) : RoundTrip.Statement (.copyComplete c q) :=
  fun h => absurd rfl h

theorem RoundTrip.qfenceJoinComplete (c : Nat) : RoundTrip.Statement (.qfenceJoinComplete c) :=
  fun h => absurd rfl h

theorem RoundTrip.tloadFillStart (c : Nat) : RoundTrip.Statement (.tloadFillStart c) :=
  fun h => absurd rfl h

theorem RoundTrip.tloadFillComplete (c : Nat) : RoundTrip.Statement (.tloadFillComplete c) :=
  fun h => absurd rfl h

theorem RoundTrip.matrixStepComplete (c : Nat) : RoundTrip.Statement (.matrixStepComplete c) :=
  fun h => absurd rfl h

theorem RoundTrip.mloopStepStart (c : Nat) : RoundTrip.Statement (.mloopStepStart c) :=
  fun h => absurd rfl h

theorem RoundTrip.acccvtComplete (c : Nat) (bank : BitVec 5) : RoundTrip.Statement (.acccvtComplete c bank) :=
  fun h => absurd rfl h

theorem RoundTrip.redsendTokenReturn (c : Nat) (n : Nat) : RoundTrip.Statement (.redsendTokenReturn c n) :=
  fun h => absurd rfl h

theorem RoundTrip.redsendPartialArrival (n : Nat) : RoundTrip.Statement (.redsendPartialArrival n) :=
  fun h => absurd rfl h

theorem RoundTrip.barrierWatchdogExpire (u : Nat) (bar : BitVec 4) : RoundTrip.Statement (.barrierWatchdogExpire u bar) :=
  fun h => absurd rfl h

theorem RoundTrip.messageArrival (n : Nat) : RoundTrip.Statement (.messageArrival n) :=
  fun h => absurd rfl h

theorem RoundTrip.refusalArrival (n : Nat) : RoundTrip.Statement (.refusalArrival n) :=
  fun h => absurd rfl h

theorem RoundTrip.activationStart (c : Nat) : RoundTrip.Statement (.activationStart c) :=
  fun h => absurd rfl h

theorem RoundTrip.stealRequestArrival (n : Nat) : RoundTrip.Statement (.stealRequestArrival n) :=
  fun h => absurd rfl h

theorem RoundTrip.stealTimeout (c : Nat) : RoundTrip.Statement (.stealTimeout c) :=
  fun h => absurd rfl h

theorem RoundTrip.stealAnswer (n : Nat) : RoundTrip.Statement (.stealAnswer n) :=
  fun h => absurd rfl h

theorem RoundTrip.sheepdogArrival (n : Nat) : RoundTrip.Statement (.sheepdogArrival n) :=
  fun h => absurd rfl h

theorem RoundTrip.sheepdogAnswer (n : Nat) : RoundTrip.Statement (.sheepdogAnswer n) :=
  fun h => absurd rfl h

theorem RoundTrip.sireqWrite (die : BitVec 3) (v : BitVec 64) : RoundTrip.Statement (.sireqWrite die v) :=
  fun h => absurd rfl h

theorem RoundTrip.timerCompare (c : Nat) (sl : Nat) : RoundTrip.Statement (.timerCompare c sl) :=
  fun h => absurd rfl h

theorem RoundTrip.preempt (die : BitVec 3) : RoundTrip.Statement (.preempt die) :=
  fun h => absurd rfl h

theorem RoundTrip.preemptSaveComplete (die : BitVec 3) : RoundTrip.Statement (.preemptSaveComplete die) :=
  fun h => absurd rfl h

theorem RoundTrip.unitResume (die : BitVec 3) : RoundTrip.Statement (.unitResume die) :=
  fun h => absurd rfl h

theorem RoundTrip.pctlReservedOp (die : BitVec 3) (op : BitVec 2) : RoundTrip.Statement (.pctlReservedOp die op) :=
  fun h => absurd rfl h

theorem RoundTrip.debugHalt (die : BitVec 3) (force : Bool) : RoundTrip.Statement (.debugHalt die force) :=
  fun h => absurd rfl h

theorem RoundTrip.debugResume (die : BitVec 3) : RoundTrip.Statement (.debugResume die) :=
  fun h => absurd rfl h

theorem RoundTrip.debugStep (die : BitVec 3) (bar : BitVec 5) : RoundTrip.Statement (.debugStep die bar) :=
  fun h => absurd rfl h

theorem RoundTrip.stepEnd (die : BitVec 3) : RoundTrip.Statement (.stepEnd die) :=
  fun h => absurd rfl h

theorem RoundTrip.debugBadRequest (die : BitVec 3) (op : BitVec 3) (bar : BitVec 5) : RoundTrip.Statement (.debugBadRequest die op bar) :=
  fun h => absurd rfl h

theorem RoundTrip.migrationStart : RoundTrip.Statement (.migrationStart) :=
  fun h => absurd rfl h

theorem RoundTrip.migrationStop (force : Bool × List (BitVec 8)) : RoundTrip.Statement (.migrationStop force) :=
  fun h => absurd rfl h

theorem RoundTrip.migrationAbort : RoundTrip.Statement (.migrationAbort) :=
  fun h => absurd rfl h

theorem RoundTrip.migrationReceive : RoundTrip.Statement (.migrationReceive) :=
  fun h => absurd rfl h

theorem RoundTrip.mgctlReservedOp (op : BitVec 3) : RoundTrip.Statement (.mgctlReservedOp op) :=
  fun h => absurd rfl h

theorem RoundTrip.precopyRound : RoundTrip.Statement (.precopyRound) :=
  fun h => absurd rfl h

theorem RoundTrip.stopDrainComplete : RoundTrip.Statement (.stopDrainComplete) :=
  fun h => absurd rfl h

theorem RoundTrip.migrationRecordReceive (hdr : BitVec 4 × List (BitVec 8)) (body tag : List (BitVec 8)) :
    RoundTrip.Statement (.migrationRecordReceive hdr body tag) :=
  fun h => absurd rfl h

theorem RoundTrip.migrationAck (ack : BitVec 4 × List (BitVec 8) × List (BitVec 8) × List (BitVec 8)) :
    RoundTrip.Statement (.migrationAck ack) :=
  fun h => absurd rfl h

theorem RoundTrip.migrationLinkFail : RoundTrip.Statement (.migrationLinkFail) :=
  fun h => absurd rfl h

theorem RoundTrip.nonce (host : Bool) (req : List (BitVec 8)) : RoundTrip.Statement (.nonce host req) :=
  fun h => absurd rfl h

theorem RoundTrip.fuseread (host : Bool) (req : List (BitVec 8)) : RoundTrip.Statement (.fuseread host req) :=
  fun h => absurd rfl h

theorem RoundTrip.unlock (host : Bool) (req : List (BitVec 8)) : RoundTrip.Statement (.unlock host req) :=
  fun h => absurd rfl h

theorem RoundTrip.logread (host : Bool) (req : List (BitVec 8)) : RoundTrip.Statement (.logread host req) :=
  fun h => absurd rfl h

theorem RoundTrip.measread (host : Bool) (req : List (BitVec 8)) : RoundTrip.Statement (.measread host req) :=
  fun h => absurd rfl h

theorem RoundTrip.extend (host : Bool) (req : List (BitVec 8)) : RoundTrip.Statement (.extend host req) :=
  fun h => absurd rfl h

theorem RoundTrip.lcadv (host : Bool) (req : List (BitVec 8)) : RoundTrip.Statement (.lcadv host req) :=
  fun h => absurd rfl h

theorem RoundTrip.svnraise (host : Bool) (req : List (BitVec 8)) : RoundTrip.Statement (.svnraise host req) :=
  fun h => absurd rfl h

theorem RoundTrip.mailboxBadCommand (host : Bool) (cmd : BitVec 8) : RoundTrip.Statement (.mailboxBadCommand host cmd) :=
  fun h => absurd rfl h

theorem RoundTrip.nonceExpire : RoundTrip.Statement (.nonceExpire) :=
  fun h => absurd rfl h

theorem RoundTrip.spdmMessage (code : BitVec 8) (arg : List (BitVec 8)) : RoundTrip.Statement (.spdmMessage code arg) :=
  fun h => absurd rfl h

theorem RoundTrip.report (req : List (BitVec 8)) : RoundTrip.Statement (.report req) :=
  fun h => absurd rfl h

theorem RoundTrip.keyset (slot : BitVec 8) (hbm : BitVec 256) (mig : BitVec 256) : RoundTrip.Statement (.keyset slot hbm mig) :=
  fun h => absurd rfl h

theorem RoundTrip.keyclr (slot : BitVec 8) : RoundTrip.Statement (.keyclr slot) :=
  fun h => absurd rfl h

theorem RoundTrip.powerManagerTick (power : BitVec 16) : RoundTrip.Statement (.powerManagerTick power) :=
  fun h => absurd rfl h

theorem RoundTrip.thermalLimit (temp : BitVec 16) : RoundTrip.Statement (.thermalLimit temp) :=
  fun h => absurd rfl h

theorem RoundTrip.thermalShutdown (temp : BitVec 16) : RoundTrip.Statement (.thermalShutdown temp) :=
  fun h => absurd rfl h

theorem RoundTrip.bringUp (ok : Bool × List (BitVec 8) × List (BitVec 8) × List (Nat × Nat × Nat)) : RoundTrip.Statement (.bringUp ok) :=
  fun h => absurd rfl h

theorem RoundTrip.functionLevelReset (port : BitVec 1) : RoundTrip.Statement (.functionLevelReset port) :=
  fun h => absurd rfl h

theorem RoundTrip.peerTableWrite (idx : BitVec 4) (part : BitVec 2) (v : BitVec 64) : RoundTrip.Statement (.peerTableWrite idx part v) :=
  fun h => absurd rfl h

theorem RoundTrip.registerWrite (die : BitVec 4) (off : BitVec 24) (who : Writer) (v : Option (BitVec 64)) : RoundTrip.Statement (.registerWrite die off who v) :=
  fun h => absurd rfl h

theorem RoundTrip.clh (stall : BitVec 2) (wtile : BitVec 3) (wcopy : BitVec 3) (wstore : BitVec 3) (wload : BitVec 3) (engc : BitVec 3) (count : BitVec 4) : RoundTrip.Statement (.clh stall wtile wcopy wstore wload engc count) :=
  fun _ rest => decode_one (wants_other (by simp [laneMajor])) (by rw [major_0B (by simp)]; simp [decCustom0, decCustom0_7]) rest

theorem RoundTrip.fmt (rnd : BitVec 3) (fd : BitVec 5) (fb : BitVec 5) (fa : BitVec 5) : RoundTrip.Statement (.fmt rnd fd fb fa) :=
  fun _ rest => decode_one (wants_other (by simp [laneMajor])) (by rw [major_0B (by simp)]; simp [decCustom0, decCustom0_6]) rest

theorem RoundTrip.waitc (tile : BitVec 3) (copy : BitVec 3) (store : BitVec 3) (load : BitVec 3) : RoundTrip.Statement (.waitc tile copy store load) :=
  fun _ rest => decode_one (wants_other (by simp [laneMajor])) (by rw [major_0B (by simp)]; simp [decCustom0, decCustom0_3]) rest

theorem RoundTrip.fenceS (ord : BitVec 2) (scope : BitVec 3) : RoundTrip.Statement (.fenceS ord scope) :=
  fun _ rest => decode_one (wants_other (by simp [laneMajor])) (by rw [major_0B (by simp)]; simp [decCustom0, decCustom0_3]) rest

theorem RoundTrip.qfence (qmask : BitVec 7) : RoundTrip.Statement (.qfence qmask) :=
  fun _ rest => decode_one (wants_other (by simp [laneMajor])) (by rw [major_0B (by simp)]; simp [decCustom0, decCustom0_3]) rest

theorem RoundTrip.movyRd (rd : BitVec 5) (y : BitVec 9) : RoundTrip.Statement (.movyRd rd y) :=
  fun _ rest => decode_one (wants_other (by simp [laneMajor])) (by rw [major_0B (by simp)]; simp [decCustom0, decCustom0_2]) rest

theorem RoundTrip.movyYn (y : BitVec 9) (rs1 : BitVec 5) : RoundTrip.Statement (.movyYn y rs1) :=
  fun _ rest => decode_one (wants_other (by simp [laneMajor])) (by rw [major_0B (by simp)]; simp [decCustom0, decCustom0_2]) rest

theorem RoundTrip.lq (rd : BitVec 5) (rs1 : BitVec 5) : RoundTrip.Statement (.lq rd rs1) :=
  fun _ rest => decode_one (wants_other (by simp [laneMajor])) (by rw [major_0B (by simp)]; simp [decCustom0, decCustom0_1, decUC]) rest

theorem RoundTrip.mpush (ma : BitVec 3) : RoundTrip.Statement (.mpush ma) :=
  fun _ rest => decode_one (wants_other (by simp [laneMajor])) (by rw [major_0B (by simp)]; simp [decCustom0, decCustom0_1, decUC]) rest

theorem RoundTrip.melse : RoundTrip.Statement (.melse) :=
  fun _ rest => decode_one (wants_other (by simp [laneMajor])) (by rw [major_0B (by simp)]; simp [decCustom0, decCustom0_1, decUC]) rest

theorem RoundTrip.mpop : RoundTrip.Statement (.mpop) :=
  fun _ rest => decode_one (wants_other (by simp [laneMajor])) (by rw [major_0B (by simp)]; simp [decCustom0, decCustom0_1, decUC]) rest

theorem RoundTrip.mrd (rd : BitVec 5) (ma : BitVec 3) : RoundTrip.Statement (.mrd rd ma) :=
  fun _ rest => decode_one (wants_other (by simp [laneMajor])) (by rw [major_0B (by simp)]; simp [decCustom0, decCustom0_1, decUC]) rest

theorem RoundTrip.mwr (md : BitVec 3) (rs1 : BitVec 5) : RoundTrip.Statement (.mwr md rs1) :=
  fun _ rest => decode_one (wants_other (by simp [laneMajor])) (by rw [major_0B (by simp)]; simp [decCustom0, decCustom0_1, decUC]) rest

theorem RoundTrip.mmv (md : BitVec 3) (ma : BitVec 3) : RoundTrip.Statement (.mmv md ma) :=
  fun _ rest => decode_one (wants_other (by simp [laneMajor])) (by rw [major_0B (by simp)]; simp [decCustom0, decCustom0_1, decUC]) rest

theorem RoundTrip.lexit : RoundTrip.Statement (.lexit) :=
  fun _ rest => decode_one (wants_other (by simp [laneMajor])) (by rw [major_0B (by simp)]; simp [decCustom0, decCustom0_1, decUC]) rest

theorem RoundTrip.lbr (cond : BitVec 3) (mi : BitVec 3) (off : BitVec 14) : RoundTrip.Statement (.lbr cond mi off) :=
  fun _ rest => decode_one (wants_other (by simp [laneMajor])) (by rw [major_0B (by simp)]; simp [decCustom0, decCustom0_1]) rest

theorem RoundTrip.ljalr (rd : BitVec 5) (va : BitVec 6) (imm : BitVec 9) : RoundTrip.Statement (.ljalr rd va imm) :=
  fun _ rest => decode_one (wants_other (by simp [laneMajor])) (by rw [major_0B (by simp)]; simp [decCustom0, decCustom0_1]) rest

theorem RoundTrip.tclaim (rd : BitVec 5) (rs1 : BitVec 5) : RoundTrip.Statement (.tclaim rd rs1) :=
  fun _ rest => decode_one (wants_other (by simp [laneMajor])) (by rw [major_0B (by simp)]; simp [decCustom0, decCustom0_0]) rest

theorem RoundTrip.trel (rd : BitVec 5) (rs1 : BitVec 5) : RoundTrip.Statement (.trel rd rs1) :=
  fun _ rest => decode_one (wants_other (by simp [laneMajor])) (by rw [major_0B (by simp)]; simp [decCustom0, decCustom0_0]) rest

theorem RoundTrip.tload (rs1 : BitVec 5) (rs2 : BitVec 5) : RoundTrip.Statement (.tload rs1 rs2) :=
  fun _ rest => decode_one (wants_other (by simp [laneMajor])) (by rw [major_0B (by simp)]; simp [decCustom0, decCustom0_0]) rest

theorem RoundTrip.mma (rs1 : BitVec 5) : RoundTrip.Statement (.mma rs1) :=
  fun _ rest => decode_one (wants_other (by simp [laneMajor])) (by rw [major_0B (by simp)]; simp [decCustom0, decCustom0_0]) rest

theorem RoundTrip.mloop (rs1 : BitVec 5) : RoundTrip.Statement (.mloop rs1) :=
  fun _ rest => decode_one (wants_other (by simp [laneMajor])) (by rw [major_0B (by simp)]; simp [decCustom0, decCustom0_0]) rest

theorem RoundTrip.accalloc (rd : BitVec 5) (rs1 : BitVec 5) : RoundTrip.Statement (.accalloc rd rs1) :=
  fun _ rest => decode_one (wants_other (by simp [laneMajor])) (by rw [major_0B (by simp)]; simp [decCustom0, decCustom0_0]) rest

theorem RoundTrip.accfree (rd : BitVec 5) (rs1 : BitVec 5) (rs2 : BitVec 5) : RoundTrip.Statement (.accfree rd rs1 rs2) :=
  fun _ rest => decode_one (wants_other (by simp [laneMajor])) (by rw [major_0B (by simp)]; simp [decCustom0, decCustom0_0]) rest

theorem RoundTrip.acccvt (rd : BitVec 5) (rs1 : BitVec 5) : RoundTrip.Statement (.acccvt rd rs1) :=
  fun _ rest => decode_one (wants_other (by simp [laneMajor])) (by rw [major_0B (by simp)]; simp [decCustom0, decCustom0_0]) rest

theorem RoundTrip.tgive (rd : BitVec 5) (rs1 : BitVec 5) (rs2 : BitVec 5) : RoundTrip.Statement (.tgive rd rs1 rs2) :=
  fun _ rest => decode_one (wants_other (by simp [laneMajor])) (by rw [major_0B (by simp)]; simp [decCustom0, decCustom0_0]) rest

theorem RoundTrip.ttake (rd : BitVec 5) (rs1 : BitVec 5) : RoundTrip.Statement (.ttake rd rs1) :=
  fun _ rest => decode_one (wants_other (by simp [laneMajor])) (by rw [major_0B (by simp)]; simp [decCustom0, decCustom0_0]) rest

theorem RoundTrip.btake : RoundTrip.Statement (.btake) :=
  fun _ rest => decode_one (wants_other (by simp [laneMajor])) (by rw [major_0B (by simp)]; simp [decCustom0, decCustom0_0]) rest

theorem RoundTrip.bpass (rd : BitVec 5) (rs1 : BitVec 5) : RoundTrip.Statement (.bpass rd rs1) :=
  fun _ rest => decode_one (wants_other (by simp [laneMajor])) (by rw [major_0B (by simp)]; simp [decCustom0, decCustom0_0]) rest

theorem RoundTrip.cpyk (rs1 : BitVec 5) (rs2 : BitVec 5) : RoundTrip.Statement (.cpyk rs1 rs2) :=
  fun _ rest => decode_one (wants_other (by simp [laneMajor])) (by rw [major_0B (by simp)]; simp [decCustom0, decCustom0_0]) rest

theorem RoundTrip.barinit (rs1 : BitVec 5) (rs2 : BitVec 5) : RoundTrip.Statement (.barinit rs1 rs2) :=
  fun _ rest => decode_one (wants_other (by simp [laneMajor])) (by rw [major_0B (by simp)]; simp [decCustom0, decCustom0_0]) rest

theorem RoundTrip.bararr (rd : BitVec 5) (rs1 : BitVec 5) (rs2 : BitVec 5) : RoundTrip.Statement (.bararr rd rs1 rs2) :=
  fun _ rest => decode_one (wants_other (by simp [laneMajor])) (by rw [major_0B (by simp)]; simp [decCustom0, decCustom0_0]) rest

theorem RoundTrip.barwait (rd : BitVec 5) (rs1 : BitVec 5) (rs2 : BitVec 5) : RoundTrip.Statement (.barwait rd rs1 rs2) :=
  fun _ rest => decode_one (wants_other (by simp [laneMajor])) (by rw [major_0B (by simp)]; simp [decCustom0, decCustom0_0]) rest

theorem RoundTrip.prset (rd : BitVec 5) (rs1 : BitVec 5) (rs2 : BitVec 5) : RoundTrip.Statement (.prset rd rs1 rs2) :=
  fun _ rest => decode_one (wants_other (by simp [laneMajor])) (by rw [major_0B (by simp)]; simp [decCustom0, decCustom0_0]) rest

theorem RoundTrip.prclr (rd : BitVec 5) (rs1 : BitVec 5) (rs2 : BitVec 5) : RoundTrip.Statement (.prclr rd rs1 rs2) :=
  fun _ rest => decode_one (wants_other (by simp [laneMajor])) (by rw [major_0B (by simp)]; simp [decCustom0, decCustom0_0]) rest

theorem RoundTrip.bar (rd : BitVec 5) (rs1 : BitVec 5) : RoundTrip.Statement (.bar rd rs1) :=
  fun _ rest => decode_one (wants_other (by simp [laneMajor])) (by rw [major_0B (by simp)]; simp [decCustom0, decCustom0_0]) rest

theorem RoundTrip.discard (rd : BitVec 5) (rs1 : BitVec 5) (rs2 : BitVec 5) : RoundTrip.Statement (.discard rd rs1 rs2) :=
  fun _ rest => decode_one (wants_other (by simp [laneMajor])) (by rw [major_0B (by simp)]; simp [decCustom0, decCustom0_0]) rest

theorem RoundTrip.barA (rd : BitVec 5) (rs1 : BitVec 5) : RoundTrip.Statement (.barA rd rs1) :=
  fun _ rest => decode_one (wants_other (by simp [laneMajor])) (by rw [major_0B (by simp)]; simp [decCustom0, decCustom0_0]) rest

theorem RoundTrip.barW (rd : BitVec 5) (rs1 : BitVec 5) (rs2 : BitVec 5) : RoundTrip.Statement (.barW rd rs1 rs2) :=
  fun _ rest => decode_one (wants_other (by simp [laneMajor])) (by rw [major_0B (by simp)]; simp [decCustom0, decCustom0_0]) rest

theorem RoundTrip.msend (rd : BitVec 5) (rs1 : BitVec 5) (rs2 : BitVec 5) : RoundTrip.Statement (.msend rd rs1 rs2) :=
  fun _ rest => decode_one (wants_other (by simp [laneMajor])) (by rw [major_0B (by simp)]; simp [decCustom0, decCustom0_0]) rest

theorem RoundTrip.mchan (rd : BitVec 5) (rs1 : BitVec 5) (rs2 : BitVec 5) : RoundTrip.Statement (.mchan rd rs1 rs2) :=
  fun _ rest => decode_one (wants_other (by simp [laneMajor])) (by rw [major_0B (by simp)]; simp [decCustom0, decCustom0_0]) rest

theorem RoundTrip.hend : RoundTrip.Statement (.hend) :=
  fun _ rest => decode_one (wants_other (by simp [laneMajor])) (by rw [major_0B (by simp)]; simp [decCustom0, decCustom0_0]) rest

theorem RoundTrip.spawn (rd : BitVec 5) (rs1 : BitVec 5) (rs2 : BitVec 5) : RoundTrip.Statement (.spawn rd rs1 rs2) :=
  fun _ rest => decode_one (wants_other (by simp [laneMajor])) (by rw [major_0B (by simp)]; simp [decCustom0, decCustom0_0]) rest

theorem RoundTrip.steal (rd : BitVec 5) (rs1 : BitVec 5) (rs2 : BitVec 5) : RoundTrip.Statement (.steal rd rs1 rs2) :=
  fun _ rest => decode_one (wants_other (by simp [laneMajor])) (by rw [major_0B (by simp)]; simp [decCustom0, decCustom0_0]) rest

theorem RoundTrip.tdone (rd : BitVec 5) : RoundTrip.Statement (.tdone rd) :=
  fun _ rest => decode_one (wants_other (by simp [laneMajor])) (by rw [major_0B (by simp)]; simp [decCustom0, decCustom0_0]) rest

theorem RoundTrip.rfork (rd : BitVec 5) (rs1 : BitVec 5) : RoundTrip.Statement (.rfork rd rs1) :=
  fun _ rest => decode_one (wants_other (by simp [laneMajor])) (by rw [major_0B (by simp)]; simp [decCustom0, decCustom0_0]) rest

theorem RoundTrip.join (rs1 : BitVec 5) : RoundTrip.Statement (.join rs1) :=
  fun _ rest => decode_one (wants_other (by simp [laneMajor])) (by rw [major_0B (by simp)]; simp [decCustom0, decCustom0_0]) rest

theorem RoundTrip.redsend (rs1 : BitVec 5) (rs2 : BitVec 5) : RoundTrip.Statement (.redsend rs1 rs2) :=
  fun _ rest => decode_one (wants_other (by simp [laneMajor])) (by rw [major_0B (by simp)]; simp [decCustom0, decCustom0_0]) rest

theorem RoundTrip.redacc (rd : BitVec 5) (rs1 : BitVec 5) (rs2 : BitVec 5) : RoundTrip.Statement (.redacc rd rs1 rs2) :=
  fun _ rest => decode_one (wants_other (by simp [laneMajor])) (by rw [major_0B (by simp)]; simp [decCustom0, decCustom0_0]) rest

theorem RoundTrip.depdec (rd : BitVec 5) (rs1 : BitVec 5) : RoundTrip.Statement (.depdec rd rs1) :=
  fun _ rest => decode_one (wants_other (by simp [laneMajor])) (by rw [major_0B (by simp)]; simp [decCustom0, decCustom0_0]) rest

theorem RoundTrip.launch (rd : BitVec 5) (rs1 : BitVec 5) (rs2 : BitVec 5) : RoundTrip.Statement (.launch rd rs1 rs2) :=
  fun _ rest => decode_one (wants_other (by simp [laneMajor])) (by rw [major_0B (by simp)]; simp [decCustom0, decCustom0_0]) rest

theorem RoundTrip.cancel (rd : BitVec 5) (rs1 : BitVec 5) (rs2 : BitVec 5) : RoundTrip.Statement (.cancel rd rs1 rs2) :=
  fun _ rest => decode_one (wants_other (by simp [laneMajor])) (by rw [major_0B (by simp)]; simp [decCustom0, decCustom0_0]) rest

theorem RoundTrip.cbpush (rd : BitVec 5) (rs1 : BitVec 5) (rs2 : BitVec 5) : RoundTrip.Statement (.cbpush rd rs1 rs2) :=
  fun _ rest => decode_one (wants_other (by simp [laneMajor])) (by rw [major_0B (by simp)]; simp [decCustom0, decCustom0_0]) rest

theorem RoundTrip.cbdone (rd : BitVec 5) : RoundTrip.Statement (.cbdone rd) :=
  fun _ rest => decode_one (wants_other (by simp [laneMajor])) (by rw [major_0B (by simp)]; simp [decCustom0, decCustom0_0]) rest

theorem RoundTrip.cbflush (rd : BitVec 5) (rs1 : BitVec 5) : RoundTrip.Statement (.cbflush rd rs1) :=
  fun _ rest => decode_one (wants_other (by simp [laneMajor])) (by rw [major_0B (by simp)]; simp [decCustom0, decCustom0_0]) rest

theorem RoundTrip.gate (rs1 : BitVec 5) : RoundTrip.Statement (.gate rs1) :=
  fun _ rest => decode_one (wants_other (by simp [laneMajor])) (by rw [major_0B (by simp)]; simp [decCustom0, decCustom0_0]) rest

theorem RoundTrip.gret : RoundTrip.Statement (.gret) :=
  fun _ rest => decode_one (wants_other (by simp [laneMajor])) (by rw [major_0B (by simp)]; simp [decCustom0, decCustom0_0]) rest

theorem RoundTrip.gabort (rd : BitVec 5) (rs1 : BitVec 5) (rs2 : BitVec 5) : RoundTrip.Statement (.gabort rd rs1 rs2) :=
  fun _ rest => decode_one (wants_other (by simp [laneMajor])) (by rw [major_0B (by simp)]; simp [decCustom0, decCustom0_0]) rest

theorem RoundTrip.ladd (md : Option (BitVec 32)) (vd : BitVec 6) (va : BitVec 6) (vb : BitVec 6) : RoundTrip.Statement (.ladd md vd va vb) :=
  fun _ rest => decode_lane (w := fun b_ => encLR b_ 0#6 vb va vd 0x2B#7) (f := fun md_ => .ladd md_ vd va vb) (fun _ => by simp)
    (fun _ => by simp [laneMajor]) (fun b_ m_ => by rw [major_2B (by simp)]; simp [decLR]) md rest

theorem RoundTrip.lsub (md : Option (BitVec 32)) (vd : BitVec 6) (va : BitVec 6) (vb : BitVec 6) : RoundTrip.Statement (.lsub md vd va vb) :=
  fun _ rest => decode_lane (w := fun b_ => encLR b_ 1#6 vb va vd 0x2B#7) (f := fun md_ => .lsub md_ vd va vb) (fun _ => by simp)
    (fun _ => by simp [laneMajor]) (fun b_ m_ => by rw [major_2B (by simp)]; simp [decLR]) md rest

theorem RoundTrip.lmul (md : Option (BitVec 32)) (vd : BitVec 6) (va : BitVec 6) (vb : BitVec 6) : RoundTrip.Statement (.lmul md vd va vb) :=
  fun _ rest => decode_lane (w := fun b_ => encLR b_ 2#6 vb va vd 0x2B#7) (f := fun md_ => .lmul md_ vd va vb) (fun _ => by simp)
    (fun _ => by simp [laneMajor]) (fun b_ m_ => by rw [major_2B (by simp)]; simp [decLR]) md rest

theorem RoundTrip.lmulh (md : Option (BitVec 32)) (vd : BitVec 6) (va : BitVec 6) (vb : BitVec 6) : RoundTrip.Statement (.lmulh md vd va vb) :=
  fun _ rest => decode_lane (w := fun b_ => encLR b_ 3#6 vb va vd 0x2B#7) (f := fun md_ => .lmulh md_ vd va vb) (fun _ => by simp)
    (fun _ => by simp [laneMajor]) (fun b_ m_ => by rw [major_2B (by simp)]; simp [decLR]) md rest

theorem RoundTrip.lmulhu (md : Option (BitVec 32)) (vd : BitVec 6) (va : BitVec 6) (vb : BitVec 6) : RoundTrip.Statement (.lmulhu md vd va vb) :=
  fun _ rest => decode_lane (w := fun b_ => encLR b_ 4#6 vb va vd 0x2B#7) (f := fun md_ => .lmulhu md_ vd va vb) (fun _ => by simp)
    (fun _ => by simp [laneMajor]) (fun b_ m_ => by rw [major_2B (by simp)]; simp [decLR]) md rest

theorem RoundTrip.lmin (md : Option (BitVec 32)) (vd : BitVec 6) (va : BitVec 6) (vb : BitVec 6) : RoundTrip.Statement (.lmin md vd va vb) :=
  fun _ rest => decode_lane (w := fun b_ => encLR b_ 5#6 vb va vd 0x2B#7) (f := fun md_ => .lmin md_ vd va vb) (fun _ => by simp)
    (fun _ => by simp [laneMajor]) (fun b_ m_ => by rw [major_2B (by simp)]; simp [decLR]) md rest

theorem RoundTrip.lmax (md : Option (BitVec 32)) (vd : BitVec 6) (va : BitVec 6) (vb : BitVec 6) : RoundTrip.Statement (.lmax md vd va vb) :=
  fun _ rest => decode_lane (w := fun b_ => encLR b_ 6#6 vb va vd 0x2B#7) (f := fun md_ => .lmax md_ vd va vb) (fun _ => by simp)
    (fun _ => by simp [laneMajor]) (fun b_ m_ => by rw [major_2B (by simp)]; simp [decLR]) md rest

theorem RoundTrip.lminu (md : Option (BitVec 32)) (vd : BitVec 6) (va : BitVec 6) (vb : BitVec 6) : RoundTrip.Statement (.lminu md vd va vb) :=
  fun _ rest => decode_lane (w := fun b_ => encLR b_ 7#6 vb va vd 0x2B#7) (f := fun md_ => .lminu md_ vd va vb) (fun _ => by simp)
    (fun _ => by simp [laneMajor]) (fun b_ m_ => by rw [major_2B (by simp)]; simp [decLR]) md rest

theorem RoundTrip.lmaxu (md : Option (BitVec 32)) (vd : BitVec 6) (va : BitVec 6) (vb : BitVec 6) : RoundTrip.Statement (.lmaxu md vd va vb) :=
  fun _ rest => decode_lane (w := fun b_ => encLR b_ 8#6 vb va vd 0x2B#7) (f := fun md_ => .lmaxu md_ vd va vb) (fun _ => by simp)
    (fun _ => by simp [laneMajor]) (fun b_ m_ => by rw [major_2B (by simp)]; simp [decLR]) md rest

theorem RoundTrip.land (md : Option (BitVec 32)) (vd : BitVec 6) (va : BitVec 6) (vb : BitVec 6) : RoundTrip.Statement (.land md vd va vb) :=
  fun _ rest => decode_lane (w := fun b_ => encLR b_ 9#6 vb va vd 0x2B#7) (f := fun md_ => .land md_ vd va vb) (fun _ => by simp)
    (fun _ => by simp [laneMajor]) (fun b_ m_ => by rw [major_2B (by simp)]; simp [decLR]) md rest

theorem RoundTrip.lor (md : Option (BitVec 32)) (vd : BitVec 6) (va : BitVec 6) (vb : BitVec 6) : RoundTrip.Statement (.lor md vd va vb) :=
  fun _ rest => decode_lane (w := fun b_ => encLR b_ 0xA#6 vb va vd 0x2B#7) (f := fun md_ => .lor md_ vd va vb) (fun _ => by simp)
    (fun _ => by simp [laneMajor]) (fun b_ m_ => by rw [major_2B (by simp)]; simp [decLR]) md rest

theorem RoundTrip.lxor (md : Option (BitVec 32)) (vd : BitVec 6) (va : BitVec 6) (vb : BitVec 6) : RoundTrip.Statement (.lxor md vd va vb) :=
  fun _ rest => decode_lane (w := fun b_ => encLR b_ 0xB#6 vb va vd 0x2B#7) (f := fun md_ => .lxor md_ vd va vb) (fun _ => by simp)
    (fun _ => by simp [laneMajor]) (fun b_ m_ => by rw [major_2B (by simp)]; simp [decLR]) md rest

theorem RoundTrip.landn (md : Option (BitVec 32)) (vd : BitVec 6) (va : BitVec 6) (vb : BitVec 6) : RoundTrip.Statement (.landn md vd va vb) :=
  fun _ rest => decode_lane (w := fun b_ => encLR b_ 0xC#6 vb va vd 0x2B#7) (f := fun md_ => .landn md_ vd va vb) (fun _ => by simp)
    (fun _ => by simp [laneMajor]) (fun b_ m_ => by rw [major_2B (by simp)]; simp [decLR]) md rest

theorem RoundTrip.lsll (md : Option (BitVec 32)) (vd : BitVec 6) (va : BitVec 6) (vb : BitVec 6) : RoundTrip.Statement (.lsll md vd va vb) :=
  fun _ rest => decode_lane (w := fun b_ => encLR b_ 0xD#6 vb va vd 0x2B#7) (f := fun md_ => .lsll md_ vd va vb) (fun _ => by simp)
    (fun _ => by simp [laneMajor]) (fun b_ m_ => by rw [major_2B (by simp)]; simp [decLR]) md rest

theorem RoundTrip.lsrl (md : Option (BitVec 32)) (vd : BitVec 6) (va : BitVec 6) (vb : BitVec 6) : RoundTrip.Statement (.lsrl md vd va vb) :=
  fun _ rest => decode_lane (w := fun b_ => encLR b_ 0xE#6 vb va vd 0x2B#7) (f := fun md_ => .lsrl md_ vd va vb) (fun _ => by simp)
    (fun _ => by simp [laneMajor]) (fun b_ m_ => by rw [major_2B (by simp)]; simp [decLR]) md rest

theorem RoundTrip.lsra (md : Option (BitVec 32)) (vd : BitVec 6) (va : BitVec 6) (vb : BitVec 6) : RoundTrip.Statement (.lsra md vd va vb) :=
  fun _ rest => decode_lane (w := fun b_ => encLR b_ 0xF#6 vb va vd 0x2B#7) (f := fun md_ => .lsra md_ vd va vb) (fun _ => by simp)
    (fun _ => by simp [laneMajor]) (fun b_ m_ => by rw [major_2B (by simp)]; simp [decLR]) md rest

theorem RoundTrip.lbext (md : Option (BitVec 32)) (vd : BitVec 6) (va : BitVec 6) (vb : BitVec 6) : RoundTrip.Statement (.lbext md vd va vb) :=
  fun _ rest => decode_lane (w := fun b_ => encLR b_ 0x10#6 vb va vd 0x2B#7) (f := fun md_ => .lbext md_ vd va vb) (fun _ => by simp)
    (fun _ => by simp [laneMajor]) (fun b_ m_ => by rw [major_2B (by simp)]; simp [decLR]) md rest

theorem RoundTrip.lbextu (md : Option (BitVec 32)) (vd : BitVec 6) (va : BitVec 6) (vb : BitVec 6) : RoundTrip.Statement (.lbextu md vd va vb) :=
  fun _ rest => decode_lane (w := fun b_ => encLR b_ 0x11#6 vb va vd 0x2B#7) (f := fun md_ => .lbextu md_ vd va vb) (fun _ => by simp)
    (fun _ => by simp [laneMajor]) (fun b_ m_ => by rw [major_2B (by simp)]; simp [decLR]) md rest

theorem RoundTrip.lbins (md : Option (BitVec 32)) (vd : BitVec 6) (va : BitVec 6) (vb : BitVec 6) : RoundTrip.Statement (.lbins md vd va vb) :=
  fun _ rest => decode_lane (w := fun b_ => encLR b_ 0x12#6 vb va vd 0x2B#7) (f := fun md_ => .lbins md_ vd va vb) (fun _ => by simp)
    (fun _ => by simp [laneMajor]) (fun b_ m_ => by rw [major_2B (by simp)]; simp [decLR]) md rest

theorem RoundTrip.lpopc (md : Option (BitVec 32)) (vd : BitVec 6) (va : BitVec 6) : RoundTrip.Statement (.lpopc md vd va) :=
  fun _ rest => decode_lane (w := fun b_ => encLR b_ 0x13#6 0#6 va vd 0x2B#7) (f := fun md_ => .lpopc md_ vd va) (fun _ => by simp)
    (fun _ => by simp [laneMajor]) (fun b_ m_ => by rw [major_2B (by simp)]; simp [decLR]) md rest

theorem RoundTrip.lclz (md : Option (BitVec 32)) (vd : BitVec 6) (va : BitVec 6) : RoundTrip.Statement (.lclz md vd va) :=
  fun _ rest => decode_lane (w := fun b_ => encLR b_ 0x14#6 0#6 va vd 0x2B#7) (f := fun md_ => .lclz md_ vd va) (fun _ => by simp)
    (fun _ => by simp [laneMajor]) (fun b_ m_ => by rw [major_2B (by simp)]; simp [decLR]) md rest

theorem RoundTrip.lctz (md : Option (BitVec 32)) (vd : BitVec 6) (va : BitVec 6) : RoundTrip.Statement (.lctz md vd va) :=
  fun _ rest => decode_lane (w := fun b_ => encLR b_ 0x15#6 0#6 va vd 0x2B#7) (f := fun md_ => .lctz md_ vd va) (fun _ => by simp)
    (fun _ => by simp [laneMajor]) (fun b_ m_ => by rw [major_2B (by simp)]; simp [decLR]) md rest

theorem RoundTrip.lsel (md : Option (BitVec 32)) (vd : BitVec 6) (va : BitVec 6) (vb : BitVec 6) : RoundTrip.Statement (.lsel md vd va vb) :=
  fun _ rest => decode_lane (w := fun b_ => encLR b_ 0x16#6 vb va vd 0x2B#7) (f := fun md_ => .lsel md_ vd va vb) (fun _ => by simp)
    (fun _ => by simp [laneMajor]) (fun b_ m_ => by rw [major_2B (by simp)]; simp [decLR]) md rest

theorem RoundTrip.lmov (md : Option (BitVec 32)) (vd : BitVec 6) (va : BitVec 6) : RoundTrip.Statement (.lmov md vd va) :=
  fun _ rest => decode_lane (w := fun b_ => encLR b_ 0x17#6 0#6 va vd 0x2B#7) (f := fun md_ => .lmov md_ vd va) (fun _ => by simp)
    (fun _ => by simp [laneMajor]) (fun b_ m_ => by rw [major_2B (by simp)]; simp [decLR]) md rest

theorem RoundTrip.lidx (md : Option (BitVec 32)) (vd : BitVec 6) : RoundTrip.Statement (.lidx md vd) :=
  fun _ rest => decode_lane (w := fun b_ => encLR b_ 0x18#6 0#6 0#6 vd 0x2B#7) (f := fun md_ => .lidx md_ vd) (fun _ => by simp)
    (fun _ => by simp [laneMajor]) (fun b_ m_ => by rw [major_2B (by simp)]; simp [decLR]) md rest

theorem RoundTrip.lcmpEq (md : Option (BitVec 32)) (k : BitVec 3) (va : BitVec 6) (vb : BitVec 6) : RoundTrip.Statement (.lcmpEq md k va vb) :=
  fun _ rest => decode_lane (w := fun b_ => encLR b_ 0x20#6 vb va (0#3 ++ k) 0x2B#7) (f := fun md_ => .lcmpEq md_ k va vb) (fun _ => by simp)
    (fun _ => by simp [laneMajor]) (fun b_ m_ => by rw [major_2B (by simp)]; simp [decLR]) md rest

theorem RoundTrip.lcmpNe (md : Option (BitVec 32)) (k : BitVec 3) (va : BitVec 6) (vb : BitVec 6) : RoundTrip.Statement (.lcmpNe md k va vb) :=
  fun _ rest => decode_lane (w := fun b_ => encLR b_ 0x21#6 vb va (0#3 ++ k) 0x2B#7) (f := fun md_ => .lcmpNe md_ k va vb) (fun _ => by simp)
    (fun _ => by simp [laneMajor]) (fun b_ m_ => by rw [major_2B (by simp)]; simp [decLR]) md rest

theorem RoundTrip.lcmpLt (md : Option (BitVec 32)) (k : BitVec 3) (va : BitVec 6) (vb : BitVec 6) : RoundTrip.Statement (.lcmpLt md k va vb) :=
  fun _ rest => decode_lane (w := fun b_ => encLR b_ 0x22#6 vb va (0#3 ++ k) 0x2B#7) (f := fun md_ => .lcmpLt md_ k va vb) (fun _ => by simp)
    (fun _ => by simp [laneMajor]) (fun b_ m_ => by rw [major_2B (by simp)]; simp [decLR]) md rest

theorem RoundTrip.lcmpGe (md : Option (BitVec 32)) (k : BitVec 3) (va : BitVec 6) (vb : BitVec 6) : RoundTrip.Statement (.lcmpGe md k va vb) :=
  fun _ rest => decode_lane (w := fun b_ => encLR b_ 0x23#6 vb va (0#3 ++ k) 0x2B#7) (f := fun md_ => .lcmpGe md_ k va vb) (fun _ => by simp)
    (fun _ => by simp [laneMajor]) (fun b_ m_ => by rw [major_2B (by simp)]; simp [decLR]) md rest

theorem RoundTrip.lcmpLtu (md : Option (BitVec 32)) (k : BitVec 3) (va : BitVec 6) (vb : BitVec 6) : RoundTrip.Statement (.lcmpLtu md k va vb) :=
  fun _ rest => decode_lane (w := fun b_ => encLR b_ 0x24#6 vb va (0#3 ++ k) 0x2B#7) (f := fun md_ => .lcmpLtu md_ k va vb) (fun _ => by simp)
    (fun _ => by simp [laneMajor]) (fun b_ m_ => by rw [major_2B (by simp)]; simp [decLR]) md rest

theorem RoundTrip.lcmpGeu (md : Option (BitVec 32)) (k : BitVec 3) (va : BitVec 6) (vb : BitVec 6) : RoundTrip.Statement (.lcmpGeu md k va vb) :=
  fun _ rest => decode_lane (w := fun b_ => encLR b_ 0x25#6 vb va (0#3 ++ k) 0x2B#7) (f := fun md_ => .lcmpGeu md_ k va vb) (fun _ => by simp)
    (fun _ => by simp [laneMajor]) (fun b_ m_ => by rw [major_2B (by simp)]; simp [decLR]) md rest

theorem RoundTrip.laddi (md : Option (BitVec 32)) (vd : BitVec 6) (va : BitVec 6) (imm : BitVec 9) : RoundTrip.Statement (.laddi md vd va imm) :=
  fun _ rest => decode_lane (w := fun b_ => encLI b_ 0#3 imm va vd 0x5B#7) (f := fun md_ => .laddi md_ vd va imm) (fun _ => by simp)
    (fun _ => by simp [laneMajor]) (fun b_ m_ => by rw [major_5B (by simp)]; simp [decLI]) md rest

theorem RoundTrip.landi (md : Option (BitVec 32)) (vd : BitVec 6) (va : BitVec 6) (imm : BitVec 9) : RoundTrip.Statement (.landi md vd va imm) :=
  fun _ rest => decode_lane (w := fun b_ => encLI b_ 1#3 imm va vd 0x5B#7) (f := fun md_ => .landi md_ vd va imm) (fun _ => by simp)
    (fun _ => by simp [laneMajor]) (fun b_ m_ => by rw [major_5B (by simp)]; simp [decLI]) md rest

theorem RoundTrip.lori (md : Option (BitVec 32)) (vd : BitVec 6) (va : BitVec 6) (imm : BitVec 9) : RoundTrip.Statement (.lori md vd va imm) :=
  fun _ rest => decode_lane (w := fun b_ => encLI b_ 2#3 imm va vd 0x5B#7) (f := fun md_ => .lori md_ vd va imm) (fun _ => by simp)
    (fun _ => by simp [laneMajor]) (fun b_ m_ => by rw [major_5B (by simp)]; simp [decLI]) md rest

theorem RoundTrip.lxori (md : Option (BitVec 32)) (vd : BitVec 6) (va : BitVec 6) (imm : BitVec 9) : RoundTrip.Statement (.lxori md vd va imm) :=
  fun _ rest => decode_lane (w := fun b_ => encLI b_ 3#3 imm va vd 0x5B#7) (f := fun md_ => .lxori md_ vd va imm) (fun _ => by simp)
    (fun _ => by simp [laneMajor]) (fun b_ m_ => by rw [major_5B (by simp)]; simp [decLI]) md rest

theorem RoundTrip.lslli (md : Option (BitVec 32)) (vd : BitVec 6) (va : BitVec 6) (sh : BitVec 5) : RoundTrip.Statement (.lslli md vd va sh) :=
  fun _ rest => decode_lane (w := fun b_ => encLI b_ 4#3 (0#4 ++ sh) va vd 0x5B#7) (f := fun md_ => .lslli md_ vd va sh) (fun _ => by simp)
    (fun _ => by simp [laneMajor]) (fun b_ m_ => by rw [major_5B (by simp)]; simp [decLI]) md rest

theorem RoundTrip.lsrli (md : Option (BitVec 32)) (vd : BitVec 6) (va : BitVec 6) (sh : BitVec 5) : RoundTrip.Statement (.lsrli md vd va sh) :=
  fun _ rest => decode_lane (w := fun b_ => encLI b_ 5#3 (0#4 ++ sh) va vd 0x5B#7) (f := fun md_ => .lsrli md_ vd va sh) (fun _ => by simp)
    (fun _ => by simp [laneMajor]) (fun b_ m_ => by rw [major_5B (by simp)]; simp [decLI]) md rest

theorem RoundTrip.lsrai (md : Option (BitVec 32)) (vd : BitVec 6) (va : BitVec 6) (sh : BitVec 5) : RoundTrip.Statement (.lsrai md vd va sh) :=
  fun _ rest => decode_lane (w := fun b_ => encLI b_ 6#3 (0#4 ++ sh) va vd 0x5B#7) (f := fun md_ => .lsrai md_ vd va sh) (fun _ => by simp)
    (fun _ => by simp [laneMajor]) (fun b_ m_ => by rw [major_5B (by simp)]; simp [decLI]) md rest

theorem RoundTrip.lmovi (md : Option (BitVec 32)) (vd : BitVec 6) (imm : BitVec 9) : RoundTrip.Statement (.lmovi md vd imm) :=
  fun _ rest => decode_lane (w := fun b_ => encLI b_ 7#3 imm 0#6 vd 0x5B#7) (f := fun md_ => .lmovi md_ vd imm) (fun _ => by simp)
    (fun _ => by simp [laneMajor]) (fun b_ m_ => by rw [major_5B (by simp)]; simp [decLI]) md rest

theorem RoundTrip.laddx (md : Option (BitVec 32)) (vd : BitVec 6) (va : BitVec 6) (xs : BitVec 5) : RoundTrip.Statement (.laddx md vd va xs) :=
  fun _ rest => decode_lane (w := fun b_ => encLX b_ 0#7 xs va vd 0x7B#7) (f := fun md_ => .laddx md_ vd va xs) (fun _ => by simp)
    (fun _ => by simp [laneMajor]) (fun b_ m_ => by rw [major_7B (by simp)]; simp [decLX]) md rest

theorem RoundTrip.lsubx (md : Option (BitVec 32)) (vd : BitVec 6) (va : BitVec 6) (xs : BitVec 5) : RoundTrip.Statement (.lsubx md vd va xs) :=
  fun _ rest => decode_lane (w := fun b_ => encLX b_ 1#7 xs va vd 0x7B#7) (f := fun md_ => .lsubx md_ vd va xs) (fun _ => by simp)
    (fun _ => by simp [laneMajor]) (fun b_ m_ => by rw [major_7B (by simp)]; simp [decLX]) md rest

theorem RoundTrip.lmulx (md : Option (BitVec 32)) (vd : BitVec 6) (va : BitVec 6) (xs : BitVec 5) : RoundTrip.Statement (.lmulx md vd va xs) :=
  fun _ rest => decode_lane (w := fun b_ => encLX b_ 2#7 xs va vd 0x7B#7) (f := fun md_ => .lmulx md_ vd va xs) (fun _ => by simp)
    (fun _ => by simp [laneMajor]) (fun b_ m_ => by rw [major_7B (by simp)]; simp [decLX]) md rest

theorem RoundTrip.lminx (md : Option (BitVec 32)) (vd : BitVec 6) (va : BitVec 6) (xs : BitVec 5) : RoundTrip.Statement (.lminx md vd va xs) :=
  fun _ rest => decode_lane (w := fun b_ => encLX b_ 3#7 xs va vd 0x7B#7) (f := fun md_ => .lminx md_ vd va xs) (fun _ => by simp)
    (fun _ => by simp [laneMajor]) (fun b_ m_ => by rw [major_7B (by simp)]; simp [decLX]) md rest

theorem RoundTrip.lmaxx (md : Option (BitVec 32)) (vd : BitVec 6) (va : BitVec 6) (xs : BitVec 5) : RoundTrip.Statement (.lmaxx md vd va xs) :=
  fun _ rest => decode_lane (w := fun b_ => encLX b_ 4#7 xs va vd 0x7B#7) (f := fun md_ => .lmaxx md_ vd va xs) (fun _ => by simp)
    (fun _ => by simp [laneMajor]) (fun b_ m_ => by rw [major_7B (by simp)]; simp [decLX]) md rest

theorem RoundTrip.landx (md : Option (BitVec 32)) (vd : BitVec 6) (va : BitVec 6) (xs : BitVec 5) : RoundTrip.Statement (.landx md vd va xs) :=
  fun _ rest => decode_lane (w := fun b_ => encLX b_ 5#7 xs va vd 0x7B#7) (f := fun md_ => .landx md_ vd va xs) (fun _ => by simp)
    (fun _ => by simp [laneMajor]) (fun b_ m_ => by rw [major_7B (by simp)]; simp [decLX]) md rest

theorem RoundTrip.lorx (md : Option (BitVec 32)) (vd : BitVec 6) (va : BitVec 6) (xs : BitVec 5) : RoundTrip.Statement (.lorx md vd va xs) :=
  fun _ rest => decode_lane (w := fun b_ => encLX b_ 6#7 xs va vd 0x7B#7) (f := fun md_ => .lorx md_ vd va xs) (fun _ => by simp)
    (fun _ => by simp [laneMajor]) (fun b_ m_ => by rw [major_7B (by simp)]; simp [decLX]) md rest

theorem RoundTrip.lxorx (md : Option (BitVec 32)) (vd : BitVec 6) (va : BitVec 6) (xs : BitVec 5) : RoundTrip.Statement (.lxorx md vd va xs) :=
  fun _ rest => decode_lane (w := fun b_ => encLX b_ 7#7 xs va vd 0x7B#7) (f := fun md_ => .lxorx md_ vd va xs) (fun _ => by simp)
    (fun _ => by simp [laneMajor]) (fun b_ m_ => by rw [major_7B (by simp)]; simp [decLX]) md rest

theorem RoundTrip.lsllx (md : Option (BitVec 32)) (vd : BitVec 6) (va : BitVec 6) (xs : BitVec 5) : RoundTrip.Statement (.lsllx md vd va xs) :=
  fun _ rest => decode_lane (w := fun b_ => encLX b_ 8#7 xs va vd 0x7B#7) (f := fun md_ => .lsllx md_ vd va xs) (fun _ => by simp)
    (fun _ => by simp [laneMajor]) (fun b_ m_ => by rw [major_7B (by simp)]; simp [decLX]) md rest

theorem RoundTrip.lsrlx (md : Option (BitVec 32)) (vd : BitVec 6) (va : BitVec 6) (xs : BitVec 5) : RoundTrip.Statement (.lsrlx md vd va xs) :=
  fun _ rest => decode_lane (w := fun b_ => encLX b_ 9#7 xs va vd 0x7B#7) (f := fun md_ => .lsrlx md_ vd va xs) (fun _ => by simp)
    (fun _ => by simp [laneMajor]) (fun b_ m_ => by rw [major_7B (by simp)]; simp [decLX]) md rest

theorem RoundTrip.lsrax (md : Option (BitVec 32)) (vd : BitVec 6) (va : BitVec 6) (xs : BitVec 5) : RoundTrip.Statement (.lsrax md vd va xs) :=
  fun _ rest => decode_lane (w := fun b_ => encLX b_ 0xA#7 xs va vd 0x7B#7) (f := fun md_ => .lsrax md_ vd va xs) (fun _ => by simp)
    (fun _ => by simp [laneMajor]) (fun b_ m_ => by rw [major_7B (by simp)]; simp [decLX]) md rest

theorem RoundTrip.lmovx (md : Option (BitVec 32)) (vd : BitVec 6) (xs : BitVec 5) : RoundTrip.Statement (.lmovx md vd xs) :=
  fun _ rest => decode_lane (w := fun b_ => encLX b_ 0xB#7 xs 0#6 vd 0x7B#7) (f := fun md_ => .lmovx md_ vd xs) (fun _ => by simp)
    (fun _ => by simp [laneMajor]) (fun b_ m_ => by rw [major_7B (by simp)]; simp [decLX]) md rest

theorem RoundTrip.lcmpxEq (md : Option (BitVec 32)) (k : BitVec 3) (va : BitVec 6) (xs : BitVec 5) : RoundTrip.Statement (.lcmpxEq md k va xs) :=
  fun _ rest => decode_lane (w := fun b_ => encLX b_ 0xC#7 xs va (0#3 ++ k) 0x7B#7) (f := fun md_ => .lcmpxEq md_ k va xs) (fun _ => by simp)
    (fun _ => by simp [laneMajor]) (fun b_ m_ => by rw [major_7B (by simp)]; simp [decLX]) md rest

theorem RoundTrip.lcmpxLt (md : Option (BitVec 32)) (k : BitVec 3) (va : BitVec 6) (xs : BitVec 5) : RoundTrip.Statement (.lcmpxLt md k va xs) :=
  fun _ rest => decode_lane (w := fun b_ => encLX b_ 0xD#7 xs va (0#3 ++ k) 0x7B#7) (f := fun md_ => .lcmpxLt md_ k va xs) (fun _ => by simp)
    (fun _ => by simp [laneMajor]) (fun b_ m_ => by rw [major_7B (by simp)]; simp [decLX]) md rest

theorem RoundTrip.lcmpxLtu (md : Option (BitVec 32)) (k : BitVec 3) (va : BitVec 6) (xs : BitVec 5) : RoundTrip.Statement (.lcmpxLtu md k va xs) :=
  fun _ rest => decode_lane (w := fun b_ => encLX b_ 0xE#7 xs va (0#3 ++ k) 0x7B#7) (f := fun md_ => .lcmpxLtu md_ k va xs) (fun _ => by simp)
    (fun _ => by simp [laneMajor]) (fun b_ m_ => by rw [major_7B (by simp)]; simp [decLX]) md rest

theorem RoundTrip.lfaddx (md : Option (BitVec 32)) (vd : BitVec 6) (va : BitVec 6) (xs : BitVec 5) : RoundTrip.Statement (.lfaddx md vd va xs) :=
  fun _ rest => decode_lane (w := fun b_ => encLX b_ 0xF#7 xs va vd 0x7B#7) (f := fun md_ => .lfaddx md_ vd va xs) (fun _ => by simp)
    (fun _ => by simp [laneMajor]) (fun b_ m_ => by rw [major_7B (by simp)]; simp [decLX]) md rest

theorem RoundTrip.lfmulx (md : Option (BitVec 32)) (vd : BitVec 6) (va : BitVec 6) (xs : BitVec 5) : RoundTrip.Statement (.lfmulx md vd va xs) :=
  fun _ rest => decode_lane (w := fun b_ => encLX b_ 0x10#7 xs va vd 0x7B#7) (f := fun md_ => .lfmulx md_ vd va xs) (fun _ => by simp)
    (fun _ => by simp [laneMajor]) (fun b_ m_ => by rw [major_7B (by simp)]; simp [decLX]) md rest

theorem RoundTrip.accrd (md : Option (BitVec 32)) (vd : BitVec 6) (xs : BitVec 5) : RoundTrip.Statement (.accrd md vd xs) :=
  fun _ rest => decode_lane (w := fun b_ => encLX b_ 0x11#7 xs 0#6 vd 0x7B#7) (f := fun md_ => .accrd md_ vd xs) (fun _ => by simp)
    (fun _ => by simp [laneMajor]) (fun b_ m_ => by rw [major_7B (by simp)]; simp [decLX]) md rest

theorem RoundTrip.accwr (md : Option (BitVec 32)) (vd : BitVec 6) (xs : BitVec 5) : RoundTrip.Statement (.accwr md vd xs) :=
  fun _ rest => decode_lane (w := fun b_ => encLX b_ 0x12#7 xs 0#6 vd 0x7B#7) (f := fun md_ => .accwr md_ vd xs) (fun _ => by simp)
    (fun _ => by simp [laneMajor]) (fun b_ m_ => by rw [major_7B (by simp)]; simp [decLX]) md rest

theorem RoundTrip.cbtake (md : Option (BitVec 32)) (vd : BitVec 6) (k : BitVec 3) (xs : BitVec 5) : RoundTrip.Statement (.cbtake md vd k xs) :=
  fun _ rest => decode_lane (w := fun b_ => encLX b_ 0x13#7 xs (0#3 ++ k) vd 0x7B#7) (f := fun md_ => .cbtake md_ vd k xs) (fun _ => by simp)
    (fun _ => by simp [laneMajor]) (fun b_ m_ => by rw [major_7B (by simp)]; simp [decLX]) md rest

theorem RoundTrip.lldc (md : Option (BitVec 32)) (ww : BitVec 2) (hh : BitVec 2) (vd : BitVec 6) (xs : BitVec 5) (va : BitVec 6) : RoundTrip.Statement (.lldc md ww hh vd xs va) :=
  fun _ rest => decode_lane (w := fun b_ => encLX b_ (2#3 ++ ww ++ hh) xs va vd 0x7B#7) (f := fun md_ => .lldc md_ ww hh vd xs va) (fun _ => by simp)
    (fun _ => by simp [laneMajor]) (fun b_ m_ => by rw [major_7B (by simp), decLX_high (by simpa using hint_high _ ww hh (by decide))]; simp) md rest

theorem RoundTrip.lstc (md : Option (BitVec 32)) (ww : BitVec 2) (hh : BitVec 2) (vd : BitVec 6) (xs : BitVec 5) (va : BitVec 6) : RoundTrip.Statement (.lstc md ww hh vd xs va) :=
  fun _ rest => decode_lane (w := fun b_ => encLX b_ (3#3 ++ ww ++ hh) xs va vd 0x7B#7) (f := fun md_ => .lstc md_ ww hh vd xs va) (fun _ => by simp)
    (fun _ => by simp [laneMajor]) (fun b_ m_ => by rw [major_7B (by simp), decLX_high (by simpa using hint_high _ ww hh (by decide))]; simp) md rest

theorem RoundTrip.latom (md : Option (BitVec 32)) (loc : BitVec 1) (oo : BitVec 2) (op : BitVec 3) (vd : BitVec 6) (xs : BitVec 5) (va : BitVec 6) : RoundTrip.Statement (.latom md loc oo op vd xs va) :=
  fun _ rest => decode_lane (w := fun b_ => encLX b_ (1#1 ++ loc ++ oo ++ op) xs va vd 0x7B#7) (f := fun md_ => .latom md_ loc oo op vd xs va) (fun _ => by simp)
    (fun _ => by simp [laneMajor]) (fun b_ m_ => by rw [major_7B (by simp), decLX_high (by simpa using latom_high loc oo op)]; simp) md rest

theorem RoundTrip.lld (imm : BitVec 6) (wid : BitVec 1) (space : BitVec 2) (vd : BitVec 6) (xs : BitVec 5) (vo : BitVec 5) : RoundTrip.Statement (.lld imm wid space vd xs vo) :=
  fun _ rest => decode_one (wants_other (by simp [laneMajor])) (by rw [major_07 (by simp)]; simp [decLLd]) rest

theorem RoundTrip.lst (imm : BitVec 6) (wid : BitVec 1) (space : BitVec 2) (vd : BitVec 6) (xs : BitVec 5) (vo : BitVec 5) : RoundTrip.Statement (.lst imm wid space vd xs vo) :=
  fun _ rest => decode_one (wants_other (by simp [laneMajor])) (by rw [major_27 (by simp)]; simp [decLSt]) rest

theorem RoundTrip.lfadd (md : Option (BitVec 32)) (vd : BitVec 6) (va : BitVec 6) (vb : BitVec 6) : RoundTrip.Statement (.lfadd md vd va vb) :=
  fun _ rest => decode_lane (w := fun b_ => encLR b_ 0#6 vb va vd 0x53#7) (f := fun md_ => .lfadd md_ vd va vb) (fun _ => by simp)
    (fun _ => by simp [laneMajor]) (fun b_ m_ => by rw [major_53 (by simp)]; simp [decLF]) md rest

theorem RoundTrip.lfsub (md : Option (BitVec 32)) (vd : BitVec 6) (va : BitVec 6) (vb : BitVec 6) : RoundTrip.Statement (.lfsub md vd va vb) :=
  fun _ rest => decode_lane (w := fun b_ => encLR b_ 1#6 vb va vd 0x53#7) (f := fun md_ => .lfsub md_ vd va vb) (fun _ => by simp)
    (fun _ => by simp [laneMajor]) (fun b_ m_ => by rw [major_53 (by simp)]; simp [decLF]) md rest

theorem RoundTrip.lfmul (md : Option (BitVec 32)) (vd : BitVec 6) (va : BitVec 6) (vb : BitVec 6) : RoundTrip.Statement (.lfmul md vd va vb) :=
  fun _ rest => decode_lane (w := fun b_ => encLR b_ 2#6 vb va vd 0x53#7) (f := fun md_ => .lfmul md_ vd va vb) (fun _ => by simp)
    (fun _ => by simp [laneMajor]) (fun b_ m_ => by rw [major_53 (by simp)]; simp [decLF]) md rest

theorem RoundTrip.lfmin (md : Option (BitVec 32)) (vd : BitVec 6) (va : BitVec 6) (vb : BitVec 6) : RoundTrip.Statement (.lfmin md vd va vb) :=
  fun _ rest => decode_lane (w := fun b_ => encLR b_ 3#6 vb va vd 0x53#7) (f := fun md_ => .lfmin md_ vd va vb) (fun _ => by simp)
    (fun _ => by simp [laneMajor]) (fun b_ m_ => by rw [major_53 (by simp)]; simp [decLF]) md rest

theorem RoundTrip.lfmax (md : Option (BitVec 32)) (vd : BitVec 6) (va : BitVec 6) (vb : BitVec 6) : RoundTrip.Statement (.lfmax md vd va vb) :=
  fun _ rest => decode_lane (w := fun b_ => encLR b_ 4#6 vb va vd 0x53#7) (f := fun md_ => .lfmax md_ vd va vb) (fun _ => by simp)
    (fun _ => by simp [laneMajor]) (fun b_ m_ => by rw [major_53 (by simp)]; simp [decLF]) md rest

theorem RoundTrip.lfrcp (md : Option (BitVec 32)) (vd : BitVec 6) (va : BitVec 6) : RoundTrip.Statement (.lfrcp md vd va) :=
  fun _ rest => decode_lane (w := fun b_ => encLR b_ 5#6 0#6 va vd 0x53#7) (f := fun md_ => .lfrcp md_ vd va) (fun _ => by simp)
    (fun _ => by simp [laneMajor]) (fun b_ m_ => by rw [major_53 (by simp)]; simp [decLF]) md rest

theorem RoundTrip.lfrsq (md : Option (BitVec 32)) (vd : BitVec 6) (va : BitVec 6) : RoundTrip.Statement (.lfrsq md vd va) :=
  fun _ rest => decode_lane (w := fun b_ => encLR b_ 6#6 0#6 va vd 0x53#7) (f := fun md_ => .lfrsq md_ vd va) (fun _ => by simp)
    (fun _ => by simp [laneMajor]) (fun b_ m_ => by rw [major_53 (by simp)]; simp [decLF]) md rest

theorem RoundTrip.lfexp2 (md : Option (BitVec 32)) (vd : BitVec 6) (va : BitVec 6) : RoundTrip.Statement (.lfexp2 md vd va) :=
  fun _ rest => decode_lane (w := fun b_ => encLR b_ 7#6 0#6 va vd 0x53#7) (f := fun md_ => .lfexp2 md_ vd va) (fun _ => by simp)
    (fun _ => by simp [laneMajor]) (fun b_ m_ => by rw [major_53 (by simp)]; simp [decLF]) md rest

theorem RoundTrip.lflog2 (md : Option (BitVec 32)) (vd : BitVec 6) (va : BitVec 6) : RoundTrip.Statement (.lflog2 md vd va) :=
  fun _ rest => decode_lane (w := fun b_ => encLR b_ 8#6 0#6 va vd 0x53#7) (f := fun md_ => .lflog2 md_ vd va) (fun _ => by simp)
    (fun _ => by simp [laneMajor]) (fun b_ m_ => by rw [major_53 (by simp)]; simp [decLF]) md rest

theorem RoundTrip.lfsin (md : Option (BitVec 32)) (vd : BitVec 6) (va : BitVec 6) : RoundTrip.Statement (.lfsin md vd va) :=
  fun _ rest => decode_lane (w := fun b_ => encLR b_ 9#6 0#6 va vd 0x53#7) (f := fun md_ => .lfsin md_ vd va) (fun _ => by simp)
    (fun _ => by simp [laneMajor]) (fun b_ m_ => by rw [major_53 (by simp)]; simp [decLF]) md rest

theorem RoundTrip.lfcos (md : Option (BitVec 32)) (vd : BitVec 6) (va : BitVec 6) : RoundTrip.Statement (.lfcos md vd va) :=
  fun _ rest => decode_lane (w := fun b_ => encLR b_ 0xA#6 0#6 va vd 0x53#7) (f := fun md_ => .lfcos md_ vd va) (fun _ => by simp)
    (fun _ => by simp [laneMajor]) (fun b_ m_ => by rw [major_53 (by simp)]; simp [decLF]) md rest

theorem RoundTrip.lfcvt (md : Option (BitVec 32)) (vd : BitVec 6) (va : BitVec 6) (esel : BitVec 3) : RoundTrip.Statement (.lfcvt md vd va esel) :=
  fun _ rest => decode_lane (w := fun b_ => encLR b_ 0xB#6 (0#3 ++ esel) va vd 0x53#7) (f := fun md_ => .lfcvt md_ vd va esel) (fun _ => by simp)
    (fun _ => by simp [laneMajor]) (fun b_ m_ => by rw [major_53 (by simp)]; simp [decLF]) md rest

theorem RoundTrip.lfcmpEq (md : Option (BitVec 32)) (k : BitVec 3) (va : BitVec 6) (vb : BitVec 6) : RoundTrip.Statement (.lfcmpEq md k va vb) :=
  fun _ rest => decode_lane (w := fun b_ => encLR b_ 0xC#6 vb va (0#3 ++ k) 0x53#7) (f := fun md_ => .lfcmpEq md_ k va vb) (fun _ => by simp)
    (fun _ => by simp [laneMajor]) (fun b_ m_ => by rw [major_53 (by simp)]; simp [decLF]) md rest

theorem RoundTrip.lfcmpLt (md : Option (BitVec 32)) (k : BitVec 3) (va : BitVec 6) (vb : BitVec 6) : RoundTrip.Statement (.lfcmpLt md k va vb) :=
  fun _ rest => decode_lane (w := fun b_ => encLR b_ 0xD#6 vb va (0#3 ++ k) 0x53#7) (f := fun md_ => .lfcmpLt md_ k va vb) (fun _ => by simp)
    (fun _ => by simp [laneMajor]) (fun b_ m_ => by rw [major_53 (by simp)]; simp [decLF]) md rest

theorem RoundTrip.lfcmpLe (md : Option (BitVec 32)) (k : BitVec 3) (va : BitVec 6) (vb : BitVec 6) : RoundTrip.Statement (.lfcmpLe md k va vb) :=
  fun _ rest => decode_lane (w := fun b_ => encLR b_ 0xE#6 vb va (0#3 ++ k) 0x53#7) (f := fun md_ => .lfcmpLe md_ k va vb) (fun _ => by simp)
    (fun _ => by simp [laneMajor]) (fun b_ m_ => by rw [major_53 (by simp)]; simp [decLF]) md rest

theorem RoundTrip.lfcmpUn (md : Option (BitVec 32)) (k : BitVec 3) (va : BitVec 6) (vb : BitVec 6) : RoundTrip.Statement (.lfcmpUn md k va vb) :=
  fun _ rest => decode_lane (w := fun b_ => encLR b_ 0xF#6 vb va (0#3 ++ k) 0x53#7) (f := fun md_ => .lfcmpUn md_ k va vb) (fun _ => by simp)
    (fun _ => by simp [laneMajor]) (fun b_ m_ => by rw [major_53 (by simp)]; simp [decLF]) md rest

theorem RoundTrip.lfma (md : Option (BitVec 32)) (vd : BitVec 6) (va : BitVec 6) (vb : BitVec 6) (vc : BitVec 6) : RoundTrip.Statement (.lfma md vd va vb vc) :=
  fun _ rest => decode_lane (w := fun b_ => encLR b_ vc vb va vd 0x43#7) (f := fun md_ => .lfma md_ vd va vb vc) (fun _ => by simp)
    (fun _ => by simp [laneMajor]) (fun b_ m_ => by rw [major_43 (by simp)]; simp [decL4a]) md rest

theorem RoundTrip.lfms (md : Option (BitVec 32)) (vd : BitVec 6) (va : BitVec 6) (vb : BitVec 6) (vc : BitVec 6) : RoundTrip.Statement (.lfms md vd va vb vc) :=
  fun _ rest => decode_lane (w := fun b_ => encLR b_ vc vb va vd 0x47#7) (f := fun md_ => .lfms md_ vd va vb vc) (fun _ => by simp)
    (fun _ => by simp [laneMajor]) (fun b_ m_ => by rw [major_47 (by simp)]; simp [decL4s]) md rest

theorem RoundTrip.lfnms (md : Option (BitVec 32)) (vd : BitVec 6) (va : BitVec 6) (vb : BitVec 6) (vc : BitVec 6) : RoundTrip.Statement (.lfnms md vd va vb vc) :=
  fun _ rest => decode_lane (w := fun b_ => encLR b_ vc vb va vd 0x4B#7) (f := fun md_ => .lfnms md_ vd va vb vc) (fun _ => by simp)
    (fun _ => by simp [laneMajor]) (fun b_ m_ => by rw [major_4B (by simp)]; simp [decL4ns]) md rest

theorem RoundTrip.lfnma (md : Option (BitVec 32)) (vd : BitVec 6) (va : BitVec 6) (vb : BitVec 6) (vc : BitVec 6) : RoundTrip.Statement (.lfnma md vd va vb vc) :=
  fun _ rest => decode_lane (w := fun b_ => encLR b_ vc vb va vd 0x4F#7) (f := fun md_ => .lfnma md_ vd va vb vc) (fun _ => by simp)
    (fun _ => by simp [laneMajor]) (fun b_ m_ => by rw [major_4F (by simp)]; simp [decL4na]) md rest

theorem RoundTrip.lmatch (md : Option (BitVec 32)) (vd : BitVec 6) (va : BitVec 6) : RoundTrip.Statement (.lmatch md vd va) :=
  fun _ rest => decode_lane (w := fun b_ => encLR b_ 0#6 0#6 va vd 0x57#7) (f := fun md_ => .lmatch md_ vd va) (fun _ => by simp)
    (fun _ => by simp [laneMajor]) (fun b_ m_ => by rw [major_57 (by simp)]; simp [decLV]) md rest

theorem RoundTrip.lmatchF (md : Option (BitVec 32)) (vd : BitVec 6) (va : BitVec 6) : RoundTrip.Statement (.lmatchF md vd va) :=
  fun _ rest => decode_lane (w := fun b_ => encLR b_ 1#6 0#6 va vd 0x57#7) (f := fun md_ => .lmatchF md_ vd va) (fun _ => by simp)
    (fun _ => by simp [laneMajor]) (fun b_ m_ => by rw [major_57 (by simp)]; simp [decLV]) md rest

theorem RoundTrip.lreduceAdd (md : Option (BitVec 32)) (vd : BitVec 6) (va : BitVec 6) : RoundTrip.Statement (.lreduceAdd md vd va) :=
  fun _ rest => decode_lane (w := fun b_ => encLR b_ 2#6 0#6 va vd 0x57#7) (f := fun md_ => .lreduceAdd md_ vd va) (fun _ => by simp)
    (fun _ => by simp [laneMajor]) (fun b_ m_ => by rw [major_57 (by simp)]; simp [decLV]) md rest

theorem RoundTrip.lreduceMin (md : Option (BitVec 32)) (vd : BitVec 6) (va : BitVec 6) : RoundTrip.Statement (.lreduceMin md vd va) :=
  fun _ rest => decode_lane (w := fun b_ => encLR b_ 3#6 0#6 va vd 0x57#7) (f := fun md_ => .lreduceMin md_ vd va) (fun _ => by simp)
    (fun _ => by simp [laneMajor]) (fun b_ m_ => by rw [major_57 (by simp)]; simp [decLV]) md rest

theorem RoundTrip.lreduceMax (md : Option (BitVec 32)) (vd : BitVec 6) (va : BitVec 6) : RoundTrip.Statement (.lreduceMax md vd va) :=
  fun _ rest => decode_lane (w := fun b_ => encLR b_ 4#6 0#6 va vd 0x57#7) (f := fun md_ => .lreduceMax md_ vd va) (fun _ => by simp)
    (fun _ => by simp [laneMajor]) (fun b_ m_ => by rw [major_57 (by simp)]; simp [decLV]) md rest

theorem RoundTrip.lreduceFadd (md : Option (BitVec 32)) (vd : BitVec 6) (va : BitVec 6) : RoundTrip.Statement (.lreduceFadd md vd va) :=
  fun _ rest => decode_lane (w := fun b_ => encLR b_ 5#6 0#6 va vd 0x57#7) (f := fun md_ => .lreduceFadd md_ vd va) (fun _ => by simp)
    (fun _ => by simp [laneMajor]) (fun b_ m_ => by rw [major_57 (by simp)]; simp [decLV]) md rest

theorem RoundTrip.lscanAdd (md : Option (BitVec 32)) (vd : BitVec 6) (va : BitVec 6) : RoundTrip.Statement (.lscanAdd md vd va) :=
  fun _ rest => decode_lane (w := fun b_ => encLR b_ 6#6 0#6 va vd 0x57#7) (f := fun md_ => .lscanAdd md_ vd va) (fun _ => by simp)
    (fun _ => by simp [laneMajor]) (fun b_ m_ => by rw [major_57 (by simp)]; simp [decLV]) md rest

theorem RoundTrip.lscanFadd (md : Option (BitVec 32)) (vd : BitVec 6) (va : BitVec 6) : RoundTrip.Statement (.lscanFadd md vd va) :=
  fun _ rest => decode_lane (w := fun b_ => encLR b_ 7#6 0#6 va vd 0x57#7) (f := fun md_ => .lscanFadd md_ vd va) (fun _ => by simp)
    (fun _ => by simp [laneMajor]) (fun b_ m_ => by rw [major_57 (by simp)]; simp [decLV]) md rest

theorem RoundTrip.lballot (md : Option (BitVec 32)) (vd : BitVec 6) (va : BitVec 6) : RoundTrip.Statement (.lballot md vd va) :=
  fun _ rest => decode_lane (w := fun b_ => encLR b_ 8#6 0#6 va vd 0x57#7) (f := fun md_ => .lballot md_ vd va) (fun _ => by simp)
    (fun _ => by simp [laneMajor]) (fun b_ m_ => by rw [major_57 (by simp)]; simp [decLV]) md rest

theorem RoundTrip.lwhileLt (md : Option (BitVec 32)) (k : BitVec 3) (va : BitVec 6) (vb : BitVec 6) : RoundTrip.Statement (.lwhileLt md k va vb) :=
  fun _ rest => decode_lane (w := fun b_ => encLR b_ 9#6 vb va (0#3 ++ k) 0x57#7) (f := fun md_ => .lwhileLt md_ k va vb) (fun _ => by simp)
    (fun _ => by simp [laneMajor]) (fun b_ m_ => by rw [major_57 (by simp)]; simp [decLV]) md rest

theorem RoundTrip.lwhileLtu (md : Option (BitVec 32)) (k : BitVec 3) (va : BitVec 6) (vb : BitVec 6) : RoundTrip.Statement (.lwhileLtu md k va vb) :=
  fun _ rest => decode_lane (w := fun b_ => encLR b_ 0xA#6 vb va (0#3 ++ k) 0x57#7) (f := fun md_ => .lwhileLtu md_ k va vb) (fun _ => by simp)
    (fun _ => by simp [laneMajor]) (fun b_ m_ => by rw [major_57 (by simp)]; simp [decLV]) md rest

theorem RoundTrip.mand (kd : BitVec 3) (ka : BitVec 3) (kb : BitVec 3) : RoundTrip.Statement (.mand kd ka kb) :=
  fun _ rest => decode_one (wants_none (by simp)) (by rw [major_57 (by simp)]; simp [decLV]) rest

theorem RoundTrip.mor (kd : BitVec 3) (ka : BitVec 3) (kb : BitVec 3) : RoundTrip.Statement (.mor kd ka kb) :=
  fun _ rest => decode_one (wants_none (by simp)) (by rw [major_57 (by simp)]; simp [decLV]) rest

theorem RoundTrip.mxor (kd : BitVec 3) (ka : BitVec 3) (kb : BitVec 3) : RoundTrip.Statement (.mxor kd ka kb) :=
  fun _ rest => decode_one (wants_none (by simp)) (by rw [major_57 (by simp)]; simp [decLV]) rest

theorem RoundTrip.mandn (kd : BitVec 3) (ka : BitVec 3) (kb : BitVec 3) : RoundTrip.Statement (.mandn kd ka kb) :=
  fun _ rest => decode_one (wants_none (by simp)) (by rw [major_57 (by simp)]; simp [decLV]) rest

theorem RoundTrip.mnot (kd : BitVec 3) (ka : BitVec 3) : RoundTrip.Statement (.mnot kd ka) :=
  fun _ rest => decode_one (wants_none (by simp)) (by rw [major_57 (by simp)]; simp [decLV]) rest

theorem RoundTrip.lshflUp (md : Option (BitVec 32)) (vd : BitVec 6) (va : BitVec 6) (kk : BitVec 6) : RoundTrip.Statement (.lshflUp md vd va kk) :=
  fun _ rest => decode_lane (w := fun b_ => encLR b_ 0x18#6 kk va vd 0x57#7) (f := fun md_ => .lshflUp md_ vd va kk) (fun _ => by simp)
    (fun _ => by simp [laneMajor]) (fun b_ m_ => by rw [major_57 (by simp)]; simp [decLV]) md rest

theorem RoundTrip.lshflDn (md : Option (BitVec 32)) (vd : BitVec 6) (va : BitVec 6) (kk : BitVec 6) : RoundTrip.Statement (.lshflDn md vd va kk) :=
  fun _ rest => decode_lane (w := fun b_ => encLR b_ 0x19#6 kk va vd 0x57#7) (f := fun md_ => .lshflDn md_ vd va kk) (fun _ => by simp)
    (fun _ => by simp [laneMajor]) (fun b_ m_ => by rw [major_57 (by simp)]; simp [decLV]) md rest

theorem RoundTrip.lshflIdx (md : Option (BitVec 32)) (vd : BitVec 6) (va : BitVec 6) (vi : BitVec 6) : RoundTrip.Statement (.lshflIdx md vd va vi) :=
  fun _ rest => decode_lane (w := fun b_ => encLR b_ 0x1A#6 vi va vd 0x57#7) (f := fun md_ => .lshflIdx md_ vd va vi) (fun _ => by simp)
    (fun _ => by simp [laneMajor]) (fun b_ m_ => by rw [major_57 (by simp)]; simp [decLV]) md rest

theorem RoundTrip.lshflXor (md : Option (BitVec 32)) (vd : BitVec 6) (va : BitVec 6) (kk : BitVec 6) : RoundTrip.Statement (.lshflXor md vd va kk) :=
  fun _ rest => decode_lane (w := fun b_ => encLR b_ 0x1B#6 kk va vd 0x57#7) (f := fun md_ => .lshflXor md_ vd va kk) (fun _ => by simp)
    (fun _ => by simp [laneMajor]) (fun b_ m_ => by rw [major_57 (by simp)]; simp [decLV]) md rest

theorem RoundTrip.lui (rd : BitVec 5) (imm : BitVec 20) : RoundTrip.Statement (.lui rd imm) :=
  fun _ rest => decode_one (wants_other (by simp [laneMajor])) (by rw [major_37 (by simp)]; simp [decLui]) rest

theorem RoundTrip.auipc (rd : BitVec 5) (imm : BitVec 20) : RoundTrip.Statement (.auipc rd imm) :=
  fun _ rest => decode_one (wants_other (by simp [laneMajor])) (by rw [major_17 (by simp)]; simp [decAuipc]) rest

theorem RoundTrip.jal (rd : BitVec 5) (off : BitVec 20) : RoundTrip.Statement (.jal rd off) :=
  fun _ rest => decode_one (wants_other (by simp [laneMajor])) (by rw [major_6F (by simp)]; simp [decJal, jump_bits]) rest

theorem RoundTrip.jalr (rd : BitVec 5) (rs1 : BitVec 5) (imm : BitVec 12) : RoundTrip.Statement (.jalr rd rs1 imm) :=
  fun _ rest => decode_one (wants_other (by simp [laneMajor])) (by rw [major_67 (by simp)]; simp [decJalr]) rest

theorem RoundTrip.beq (rs1 : BitVec 5) (rs2 : BitVec 5) (off : BitVec 12) : RoundTrip.Statement (.beq rs1 rs2 off) :=
  fun _ rest => decode_one (wants_other (by simp [laneMajor])) (by rw [major_63 (by simp)]; simp [decBranch, branch_halves]) rest

theorem RoundTrip.bne (rs1 : BitVec 5) (rs2 : BitVec 5) (off : BitVec 12) : RoundTrip.Statement (.bne rs1 rs2 off) :=
  fun _ rest => decode_one (wants_other (by simp [laneMajor])) (by rw [major_63 (by simp)]; simp [decBranch, branch_halves]) rest

theorem RoundTrip.blt (rs1 : BitVec 5) (rs2 : BitVec 5) (off : BitVec 12) : RoundTrip.Statement (.blt rs1 rs2 off) :=
  fun _ rest => decode_one (wants_other (by simp [laneMajor])) (by rw [major_63 (by simp)]; simp [decBranch, branch_halves]) rest

theorem RoundTrip.bge (rs1 : BitVec 5) (rs2 : BitVec 5) (off : BitVec 12) : RoundTrip.Statement (.bge rs1 rs2 off) :=
  fun _ rest => decode_one (wants_other (by simp [laneMajor])) (by rw [major_63 (by simp)]; simp [decBranch, branch_halves]) rest

theorem RoundTrip.bltu (rs1 : BitVec 5) (rs2 : BitVec 5) (off : BitVec 12) : RoundTrip.Statement (.bltu rs1 rs2 off) :=
  fun _ rest => decode_one (wants_other (by simp [laneMajor])) (by rw [major_63 (by simp)]; simp [decBranch, branch_halves]) rest

theorem RoundTrip.bgeu (rs1 : BitVec 5) (rs2 : BitVec 5) (off : BitVec 12) : RoundTrip.Statement (.bgeu rs1 rs2 off) :=
  fun _ rest => decode_one (wants_other (by simp [laneMajor])) (by rw [major_63 (by simp)]; simp [decBranch, branch_halves]) rest

theorem RoundTrip.lb (rd : BitVec 5) (rs1 : BitVec 5) (imm : BitVec 12) : RoundTrip.Statement (.lb rd rs1 imm) :=
  fun _ rest => decode_one (wants_other (by simp [laneMajor])) (by rw [major_03 (by simp)]; simp [decLoad]) rest

theorem RoundTrip.lh (rd : BitVec 5) (rs1 : BitVec 5) (imm : BitVec 12) : RoundTrip.Statement (.lh rd rs1 imm) :=
  fun _ rest => decode_one (wants_other (by simp [laneMajor])) (by rw [major_03 (by simp)]; simp [decLoad]) rest

theorem RoundTrip.lw (rd : BitVec 5) (rs1 : BitVec 5) (imm : BitVec 12) : RoundTrip.Statement (.lw rd rs1 imm) :=
  fun _ rest => decode_one (wants_other (by simp [laneMajor])) (by rw [major_03 (by simp)]; simp [decLoad]) rest

theorem RoundTrip.ld (rd : BitVec 5) (rs1 : BitVec 5) (imm : BitVec 12) : RoundTrip.Statement (.ld rd rs1 imm) :=
  fun _ rest => decode_one (wants_other (by simp [laneMajor])) (by rw [major_03 (by simp)]; simp [decLoad]) rest

theorem RoundTrip.lbu (rd : BitVec 5) (rs1 : BitVec 5) (imm : BitVec 12) : RoundTrip.Statement (.lbu rd rs1 imm) :=
  fun _ rest => decode_one (wants_other (by simp [laneMajor])) (by rw [major_03 (by simp)]; simp [decLoad]) rest

theorem RoundTrip.lhu (rd : BitVec 5) (rs1 : BitVec 5) (imm : BitVec 12) : RoundTrip.Statement (.lhu rd rs1 imm) :=
  fun _ rest => decode_one (wants_other (by simp [laneMajor])) (by rw [major_03 (by simp)]; simp [decLoad]) rest

theorem RoundTrip.lwu (rd : BitVec 5) (rs1 : BitVec 5) (imm : BitVec 12) : RoundTrip.Statement (.lwu rd rs1 imm) :=
  fun _ rest => decode_one (wants_other (by simp [laneMajor])) (by rw [major_03 (by simp)]; simp [decLoad]) rest

theorem RoundTrip.sb (rs1 : BitVec 5) (rs2 : BitVec 5) (imm : BitVec 12) : RoundTrip.Statement (.sb rs1 rs2 imm) :=
  fun _ rest => decode_one (wants_other (by simp [laneMajor])) (by rw [major_23 (by simp)]; simp [decStore]) rest

theorem RoundTrip.sh (rs1 : BitVec 5) (rs2 : BitVec 5) (imm : BitVec 12) : RoundTrip.Statement (.sh rs1 rs2 imm) :=
  fun _ rest => decode_one (wants_other (by simp [laneMajor])) (by rw [major_23 (by simp)]; simp [decStore]) rest

theorem RoundTrip.sw (rs1 : BitVec 5) (rs2 : BitVec 5) (imm : BitVec 12) : RoundTrip.Statement (.sw rs1 rs2 imm) :=
  fun _ rest => decode_one (wants_other (by simp [laneMajor])) (by rw [major_23 (by simp)]; simp [decStore]) rest

theorem RoundTrip.sd (rs1 : BitVec 5) (rs2 : BitVec 5) (imm : BitVec 12) : RoundTrip.Statement (.sd rs1 rs2 imm) :=
  fun _ rest => decode_one (wants_other (by simp [laneMajor])) (by rw [major_23 (by simp)]; simp [decStore]) rest

theorem RoundTrip.addi (rd : BitVec 5) (rs1 : BitVec 5) (imm : BitVec 12) : RoundTrip.Statement (.addi rd rs1 imm) :=
  fun _ rest => decode_one (wants_other (by simp [laneMajor])) (by rw [major_13 (by simp)]; simp [decOpImm]) rest

theorem RoundTrip.slti (rd : BitVec 5) (rs1 : BitVec 5) (imm : BitVec 12) : RoundTrip.Statement (.slti rd rs1 imm) :=
  fun _ rest => decode_one (wants_other (by simp [laneMajor])) (by rw [major_13 (by simp)]; simp [decOpImm]) rest

theorem RoundTrip.sltiu (rd : BitVec 5) (rs1 : BitVec 5) (imm : BitVec 12) : RoundTrip.Statement (.sltiu rd rs1 imm) :=
  fun _ rest => decode_one (wants_other (by simp [laneMajor])) (by rw [major_13 (by simp)]; simp [decOpImm]) rest

theorem RoundTrip.xori (rd : BitVec 5) (rs1 : BitVec 5) (imm : BitVec 12) : RoundTrip.Statement (.xori rd rs1 imm) :=
  fun _ rest => decode_one (wants_other (by simp [laneMajor])) (by rw [major_13 (by simp)]; simp [decOpImm]) rest

theorem RoundTrip.ori (rd : BitVec 5) (rs1 : BitVec 5) (imm : BitVec 12) : RoundTrip.Statement (.ori rd rs1 imm) :=
  fun _ rest => decode_one (wants_other (by simp [laneMajor])) (by rw [major_13 (by simp)]; simp [decOpImm]) rest

theorem RoundTrip.andi (rd : BitVec 5) (rs1 : BitVec 5) (imm : BitVec 12) : RoundTrip.Statement (.andi rd rs1 imm) :=
  fun _ rest => decode_one (wants_other (by simp [laneMajor])) (by rw [major_13 (by simp)]; simp [decOpImm]) rest

theorem RoundTrip.slli (rd : BitVec 5) (rs1 : BitVec 5) (sh : BitVec 6) : RoundTrip.Statement (.slli rd rs1 sh) :=
  fun _ rest => decode_one (wants_other (by simp [laneMajor])) (by rw [major_13 (by simp)]; simp [decOpImm]) rest

theorem RoundTrip.srli (rd : BitVec 5) (rs1 : BitVec 5) (sh : BitVec 6) : RoundTrip.Statement (.srli rd rs1 sh) :=
  fun _ rest => decode_one (wants_other (by simp [laneMajor])) (by rw [major_13 (by simp)]; simp [decOpImm]) rest

theorem RoundTrip.srai (rd : BitVec 5) (rs1 : BitVec 5) (sh : BitVec 6) : RoundTrip.Statement (.srai rd rs1 sh) :=
  fun _ rest => decode_one (wants_other (by simp [laneMajor])) (by rw [major_13 (by simp)]; simp [decOpImm]) rest

theorem RoundTrip.add (rd : BitVec 5) (rs1 : BitVec 5) (rs2 : BitVec 5) : RoundTrip.Statement (.add rd rs1 rs2) :=
  fun _ rest => decode_one (wants_other (by simp [laneMajor])) (by rw [major_33 (by simp)]; simp [decOp]) rest

theorem RoundTrip.sll (rd : BitVec 5) (rs1 : BitVec 5) (rs2 : BitVec 5) : RoundTrip.Statement (.sll rd rs1 rs2) :=
  fun _ rest => decode_one (wants_other (by simp [laneMajor])) (by rw [major_33 (by simp)]; simp [decOp]) rest

theorem RoundTrip.slt (rd : BitVec 5) (rs1 : BitVec 5) (rs2 : BitVec 5) : RoundTrip.Statement (.slt rd rs1 rs2) :=
  fun _ rest => decode_one (wants_other (by simp [laneMajor])) (by rw [major_33 (by simp)]; simp [decOp]) rest

theorem RoundTrip.sltu (rd : BitVec 5) (rs1 : BitVec 5) (rs2 : BitVec 5) : RoundTrip.Statement (.sltu rd rs1 rs2) :=
  fun _ rest => decode_one (wants_other (by simp [laneMajor])) (by rw [major_33 (by simp)]; simp [decOp]) rest

theorem RoundTrip.xor (rd : BitVec 5) (rs1 : BitVec 5) (rs2 : BitVec 5) : RoundTrip.Statement (.xor rd rs1 rs2) :=
  fun _ rest => decode_one (wants_other (by simp [laneMajor])) (by rw [major_33 (by simp)]; simp [decOp]) rest

theorem RoundTrip.srl (rd : BitVec 5) (rs1 : BitVec 5) (rs2 : BitVec 5) : RoundTrip.Statement (.srl rd rs1 rs2) :=
  fun _ rest => decode_one (wants_other (by simp [laneMajor])) (by rw [major_33 (by simp)]; simp [decOp]) rest

theorem RoundTrip.or (rd : BitVec 5) (rs1 : BitVec 5) (rs2 : BitVec 5) : RoundTrip.Statement (.or rd rs1 rs2) :=
  fun _ rest => decode_one (wants_other (by simp [laneMajor])) (by rw [major_33 (by simp)]; simp [decOp]) rest

theorem RoundTrip.and (rd : BitVec 5) (rs1 : BitVec 5) (rs2 : BitVec 5) : RoundTrip.Statement (.and rd rs1 rs2) :=
  fun _ rest => decode_one (wants_other (by simp [laneMajor])) (by rw [major_33 (by simp)]; simp [decOp]) rest

theorem RoundTrip.sub (rd : BitVec 5) (rs1 : BitVec 5) (rs2 : BitVec 5) : RoundTrip.Statement (.sub rd rs1 rs2) :=
  fun _ rest => decode_one (wants_other (by simp [laneMajor])) (by rw [major_33 (by simp)]; simp [decOp]) rest

theorem RoundTrip.sra (rd : BitVec 5) (rs1 : BitVec 5) (rs2 : BitVec 5) : RoundTrip.Statement (.sra rd rs1 rs2) :=
  fun _ rest => decode_one (wants_other (by simp [laneMajor])) (by rw [major_33 (by simp)]; simp [decOp]) rest

theorem RoundTrip.addiw (rd : BitVec 5) (rs1 : BitVec 5) (imm : BitVec 12) : RoundTrip.Statement (.addiw rd rs1 imm) :=
  fun _ rest => decode_one (wants_other (by simp [laneMajor])) (by rw [major_1B (by simp)]; simp [decOpImm32]) rest

theorem RoundTrip.slliw (rd : BitVec 5) (rs1 : BitVec 5) (sh : BitVec 5) : RoundTrip.Statement (.slliw rd rs1 sh) :=
  fun _ rest => decode_one (wants_other (by simp [laneMajor])) (by rw [major_1B (by simp)]; simp [decOpImm32]) rest

theorem RoundTrip.srliw (rd : BitVec 5) (rs1 : BitVec 5) (sh : BitVec 5) : RoundTrip.Statement (.srliw rd rs1 sh) :=
  fun _ rest => decode_one (wants_other (by simp [laneMajor])) (by rw [major_1B (by simp)]; simp [decOpImm32]) rest

theorem RoundTrip.sraiw (rd : BitVec 5) (rs1 : BitVec 5) (sh : BitVec 5) : RoundTrip.Statement (.sraiw rd rs1 sh) :=
  fun _ rest => decode_one (wants_other (by simp [laneMajor])) (by rw [major_1B (by simp)]; simp [decOpImm32]) rest

theorem RoundTrip.addw (rd : BitVec 5) (rs1 : BitVec 5) (rs2 : BitVec 5) : RoundTrip.Statement (.addw rd rs1 rs2) :=
  fun _ rest => decode_one (wants_other (by simp [laneMajor])) (by rw [major_3B (by simp)]; simp [decOp32]) rest

theorem RoundTrip.sllw (rd : BitVec 5) (rs1 : BitVec 5) (rs2 : BitVec 5) : RoundTrip.Statement (.sllw rd rs1 rs2) :=
  fun _ rest => decode_one (wants_other (by simp [laneMajor])) (by rw [major_3B (by simp)]; simp [decOp32]) rest

theorem RoundTrip.srlw (rd : BitVec 5) (rs1 : BitVec 5) (rs2 : BitVec 5) : RoundTrip.Statement (.srlw rd rs1 rs2) :=
  fun _ rest => decode_one (wants_other (by simp [laneMajor])) (by rw [major_3B (by simp)]; simp [decOp32]) rest

theorem RoundTrip.subw (rd : BitVec 5) (rs1 : BitVec 5) (rs2 : BitVec 5) : RoundTrip.Statement (.subw rd rs1 rs2) :=
  fun _ rest => decode_one (wants_other (by simp [laneMajor])) (by rw [major_3B (by simp)]; simp [decOp32]) rest

theorem RoundTrip.sraw (rd : BitVec 5) (rs1 : BitVec 5) (rs2 : BitVec 5) : RoundTrip.Statement (.sraw rd rs1 rs2) :=
  fun _ rest => decode_one (wants_other (by simp [laneMajor])) (by rw [major_3B (by simp)]; simp [decOp32]) rest

theorem RoundTrip.fence (rd : BitVec 5) (rs1 : BitVec 5) (fm : BitVec 4) (pred : BitVec 4) (succ : BitVec 4) : RoundTrip.Statement (.fence rd rs1 fm pred succ) :=
  fun _ rest => decode_one (wants_other (by simp [laneMajor])) (by rw [major_0F (by simp)]; simp [decMiscMem]) rest

theorem RoundTrip.fenceI (rd : BitVec 5) (rs1 : BitVec 5) (imm : BitVec 12) : RoundTrip.Statement (.fenceI rd rs1 imm) :=
  fun _ rest => decode_one (wants_other (by simp [laneMajor])) (by rw [major_0F (by simp)]; simp [decMiscMem]) rest

theorem RoundTrip.ecall : RoundTrip.Statement (.ecall) :=
  fun _ rest => decode_one (wants_other (by simp [laneMajor])) (by rw [major_73 (by simp)]; simp [decSystem]) rest

theorem RoundTrip.ebreak : RoundTrip.Statement (.ebreak) :=
  fun _ rest => decode_one (wants_other (by simp [laneMajor])) (by rw [major_73 (by simp)]; simp [decSystem]) rest

theorem RoundTrip.mul (rd : BitVec 5) (rs1 : BitVec 5) (rs2 : BitVec 5) : RoundTrip.Statement (.mul rd rs1 rs2) :=
  fun _ rest => decode_one (wants_other (by simp [laneMajor])) (by rw [major_33 (by simp)]; simp [decOp]) rest

theorem RoundTrip.mulh (rd : BitVec 5) (rs1 : BitVec 5) (rs2 : BitVec 5) : RoundTrip.Statement (.mulh rd rs1 rs2) :=
  fun _ rest => decode_one (wants_other (by simp [laneMajor])) (by rw [major_33 (by simp)]; simp [decOp]) rest

theorem RoundTrip.mulhsu (rd : BitVec 5) (rs1 : BitVec 5) (rs2 : BitVec 5) : RoundTrip.Statement (.mulhsu rd rs1 rs2) :=
  fun _ rest => decode_one (wants_other (by simp [laneMajor])) (by rw [major_33 (by simp)]; simp [decOp]) rest

theorem RoundTrip.mulhu (rd : BitVec 5) (rs1 : BitVec 5) (rs2 : BitVec 5) : RoundTrip.Statement (.mulhu rd rs1 rs2) :=
  fun _ rest => decode_one (wants_other (by simp [laneMajor])) (by rw [major_33 (by simp)]; simp [decOp]) rest

theorem RoundTrip.div (rd : BitVec 5) (rs1 : BitVec 5) (rs2 : BitVec 5) : RoundTrip.Statement (.div rd rs1 rs2) :=
  fun _ rest => decode_one (wants_other (by simp [laneMajor])) (by rw [major_33 (by simp)]; simp [decOp]) rest

theorem RoundTrip.divu (rd : BitVec 5) (rs1 : BitVec 5) (rs2 : BitVec 5) : RoundTrip.Statement (.divu rd rs1 rs2) :=
  fun _ rest => decode_one (wants_other (by simp [laneMajor])) (by rw [major_33 (by simp)]; simp [decOp]) rest

theorem RoundTrip.rem (rd : BitVec 5) (rs1 : BitVec 5) (rs2 : BitVec 5) : RoundTrip.Statement (.rem rd rs1 rs2) :=
  fun _ rest => decode_one (wants_other (by simp [laneMajor])) (by rw [major_33 (by simp)]; simp [decOp]) rest

theorem RoundTrip.remu (rd : BitVec 5) (rs1 : BitVec 5) (rs2 : BitVec 5) : RoundTrip.Statement (.remu rd rs1 rs2) :=
  fun _ rest => decode_one (wants_other (by simp [laneMajor])) (by rw [major_33 (by simp)]; simp [decOp]) rest

theorem RoundTrip.mulw (rd : BitVec 5) (rs1 : BitVec 5) (rs2 : BitVec 5) : RoundTrip.Statement (.mulw rd rs1 rs2) :=
  fun _ rest => decode_one (wants_other (by simp [laneMajor])) (by rw [major_3B (by simp)]; simp [decOp32]) rest

theorem RoundTrip.divw (rd : BitVec 5) (rs1 : BitVec 5) (rs2 : BitVec 5) : RoundTrip.Statement (.divw rd rs1 rs2) :=
  fun _ rest => decode_one (wants_other (by simp [laneMajor])) (by rw [major_3B (by simp)]; simp [decOp32]) rest

theorem RoundTrip.divuw (rd : BitVec 5) (rs1 : BitVec 5) (rs2 : BitVec 5) : RoundTrip.Statement (.divuw rd rs1 rs2) :=
  fun _ rest => decode_one (wants_other (by simp [laneMajor])) (by rw [major_3B (by simp)]; simp [decOp32]) rest

theorem RoundTrip.remw (rd : BitVec 5) (rs1 : BitVec 5) (rs2 : BitVec 5) : RoundTrip.Statement (.remw rd rs1 rs2) :=
  fun _ rest => decode_one (wants_other (by simp [laneMajor])) (by rw [major_3B (by simp)]; simp [decOp32]) rest

theorem RoundTrip.remuw (rd : BitVec 5) (rs1 : BitVec 5) (rs2 : BitVec 5) : RoundTrip.Statement (.remuw rd rs1 rs2) :=
  fun _ rest => decode_one (wants_other (by simp [laneMajor])) (by rw [major_3B (by simp)]; simp [decOp32]) rest

theorem RoundTrip.lrW (aq : BitVec 1) (rl : BitVec 1) (rd : BitVec 5) (rs1 : BitVec 5) : RoundTrip.Statement (.lrW aq rl rd rs1) :=
  fun _ rest => decode_one (wants_other (by simp [laneMajor])) (by rw [major_2F (by simp)]; simp [decAmo]) rest

theorem RoundTrip.lrD (aq : BitVec 1) (rl : BitVec 1) (rd : BitVec 5) (rs1 : BitVec 5) : RoundTrip.Statement (.lrD aq rl rd rs1) :=
  fun _ rest => decode_one (wants_other (by simp [laneMajor])) (by rw [major_2F (by simp)]; simp [decAmo]) rest

theorem RoundTrip.scW (aq : BitVec 1) (rl : BitVec 1) (rd : BitVec 5) (rs1 : BitVec 5) (rs2 : BitVec 5) : RoundTrip.Statement (.scW aq rl rd rs1 rs2) :=
  fun _ rest => decode_one (wants_other (by simp [laneMajor])) (by rw [major_2F (by simp)]; simp [decAmo]) rest

theorem RoundTrip.scD (aq : BitVec 1) (rl : BitVec 1) (rd : BitVec 5) (rs1 : BitVec 5) (rs2 : BitVec 5) : RoundTrip.Statement (.scD aq rl rd rs1 rs2) :=
  fun _ rest => decode_one (wants_other (by simp [laneMajor])) (by rw [major_2F (by simp)]; simp [decAmo]) rest

theorem RoundTrip.amoswapW (aq : BitVec 1) (rl : BitVec 1) (rd : BitVec 5) (rs1 : BitVec 5) (rs2 : BitVec 5) : RoundTrip.Statement (.amoswapW aq rl rd rs1 rs2) :=
  fun _ rest => decode_one (wants_other (by simp [laneMajor])) (by rw [major_2F (by simp)]; simp [decAmo]) rest

theorem RoundTrip.amoswapD (aq : BitVec 1) (rl : BitVec 1) (rd : BitVec 5) (rs1 : BitVec 5) (rs2 : BitVec 5) : RoundTrip.Statement (.amoswapD aq rl rd rs1 rs2) :=
  fun _ rest => decode_one (wants_other (by simp [laneMajor])) (by rw [major_2F (by simp)]; simp [decAmo]) rest

theorem RoundTrip.amoaddW (aq : BitVec 1) (rl : BitVec 1) (rd : BitVec 5) (rs1 : BitVec 5) (rs2 : BitVec 5) : RoundTrip.Statement (.amoaddW aq rl rd rs1 rs2) :=
  fun _ rest => decode_one (wants_other (by simp [laneMajor])) (by rw [major_2F (by simp)]; simp [decAmo]) rest

theorem RoundTrip.amoaddD (aq : BitVec 1) (rl : BitVec 1) (rd : BitVec 5) (rs1 : BitVec 5) (rs2 : BitVec 5) : RoundTrip.Statement (.amoaddD aq rl rd rs1 rs2) :=
  fun _ rest => decode_one (wants_other (by simp [laneMajor])) (by rw [major_2F (by simp)]; simp [decAmo]) rest

theorem RoundTrip.amoxorW (aq : BitVec 1) (rl : BitVec 1) (rd : BitVec 5) (rs1 : BitVec 5) (rs2 : BitVec 5) : RoundTrip.Statement (.amoxorW aq rl rd rs1 rs2) :=
  fun _ rest => decode_one (wants_other (by simp [laneMajor])) (by rw [major_2F (by simp)]; simp [decAmo]) rest

theorem RoundTrip.amoxorD (aq : BitVec 1) (rl : BitVec 1) (rd : BitVec 5) (rs1 : BitVec 5) (rs2 : BitVec 5) : RoundTrip.Statement (.amoxorD aq rl rd rs1 rs2) :=
  fun _ rest => decode_one (wants_other (by simp [laneMajor])) (by rw [major_2F (by simp)]; simp [decAmo]) rest

theorem RoundTrip.amoandW (aq : BitVec 1) (rl : BitVec 1) (rd : BitVec 5) (rs1 : BitVec 5) (rs2 : BitVec 5) : RoundTrip.Statement (.amoandW aq rl rd rs1 rs2) :=
  fun _ rest => decode_one (wants_other (by simp [laneMajor])) (by rw [major_2F (by simp)]; simp [decAmo]) rest

theorem RoundTrip.amoandD (aq : BitVec 1) (rl : BitVec 1) (rd : BitVec 5) (rs1 : BitVec 5) (rs2 : BitVec 5) : RoundTrip.Statement (.amoandD aq rl rd rs1 rs2) :=
  fun _ rest => decode_one (wants_other (by simp [laneMajor])) (by rw [major_2F (by simp)]; simp [decAmo]) rest

theorem RoundTrip.amoorW (aq : BitVec 1) (rl : BitVec 1) (rd : BitVec 5) (rs1 : BitVec 5) (rs2 : BitVec 5) : RoundTrip.Statement (.amoorW aq rl rd rs1 rs2) :=
  fun _ rest => decode_one (wants_other (by simp [laneMajor])) (by rw [major_2F (by simp)]; simp [decAmo]) rest

theorem RoundTrip.amoorD (aq : BitVec 1) (rl : BitVec 1) (rd : BitVec 5) (rs1 : BitVec 5) (rs2 : BitVec 5) : RoundTrip.Statement (.amoorD aq rl rd rs1 rs2) :=
  fun _ rest => decode_one (wants_other (by simp [laneMajor])) (by rw [major_2F (by simp)]; simp [decAmo]) rest

theorem RoundTrip.amominW (aq : BitVec 1) (rl : BitVec 1) (rd : BitVec 5) (rs1 : BitVec 5) (rs2 : BitVec 5) : RoundTrip.Statement (.amominW aq rl rd rs1 rs2) :=
  fun _ rest => decode_one (wants_other (by simp [laneMajor])) (by rw [major_2F (by simp)]; simp [decAmo]) rest

theorem RoundTrip.amominD (aq : BitVec 1) (rl : BitVec 1) (rd : BitVec 5) (rs1 : BitVec 5) (rs2 : BitVec 5) : RoundTrip.Statement (.amominD aq rl rd rs1 rs2) :=
  fun _ rest => decode_one (wants_other (by simp [laneMajor])) (by rw [major_2F (by simp)]; simp [decAmo]) rest

theorem RoundTrip.amomaxW (aq : BitVec 1) (rl : BitVec 1) (rd : BitVec 5) (rs1 : BitVec 5) (rs2 : BitVec 5) : RoundTrip.Statement (.amomaxW aq rl rd rs1 rs2) :=
  fun _ rest => decode_one (wants_other (by simp [laneMajor])) (by rw [major_2F (by simp)]; simp [decAmo]) rest

theorem RoundTrip.amomaxD (aq : BitVec 1) (rl : BitVec 1) (rd : BitVec 5) (rs1 : BitVec 5) (rs2 : BitVec 5) : RoundTrip.Statement (.amomaxD aq rl rd rs1 rs2) :=
  fun _ rest => decode_one (wants_other (by simp [laneMajor])) (by rw [major_2F (by simp)]; simp [decAmo]) rest

theorem RoundTrip.amominuW (aq : BitVec 1) (rl : BitVec 1) (rd : BitVec 5) (rs1 : BitVec 5) (rs2 : BitVec 5) : RoundTrip.Statement (.amominuW aq rl rd rs1 rs2) :=
  fun _ rest => decode_one (wants_other (by simp [laneMajor])) (by rw [major_2F (by simp)]; simp [decAmo]) rest

theorem RoundTrip.amominuD (aq : BitVec 1) (rl : BitVec 1) (rd : BitVec 5) (rs1 : BitVec 5) (rs2 : BitVec 5) : RoundTrip.Statement (.amominuD aq rl rd rs1 rs2) :=
  fun _ rest => decode_one (wants_other (by simp [laneMajor])) (by rw [major_2F (by simp)]; simp [decAmo]) rest

theorem RoundTrip.amomaxuW (aq : BitVec 1) (rl : BitVec 1) (rd : BitVec 5) (rs1 : BitVec 5) (rs2 : BitVec 5) : RoundTrip.Statement (.amomaxuW aq rl rd rs1 rs2) :=
  fun _ rest => decode_one (wants_other (by simp [laneMajor])) (by rw [major_2F (by simp)]; simp [decAmo]) rest

theorem RoundTrip.amomaxuD (aq : BitVec 1) (rl : BitVec 1) (rd : BitVec 5) (rs1 : BitVec 5) (rs2 : BitVec 5) : RoundTrip.Statement (.amomaxuD aq rl rd rs1 rs2) :=
  fun _ rest => decode_one (wants_other (by simp [laneMajor])) (by rw [major_2F (by simp)]; simp [decAmo]) rest

theorem RoundTrip.csrrw (rd : BitVec 5) (rs1 : BitVec 5) (csr : BitVec 12) : RoundTrip.Statement (.csrrw rd rs1 csr) :=
  fun _ rest => decode_one (wants_other (by simp [laneMajor])) (by rw [major_73 (by simp)]; simp [decSystem]) rest

theorem RoundTrip.csrrs (rd : BitVec 5) (rs1 : BitVec 5) (csr : BitVec 12) : RoundTrip.Statement (.csrrs rd rs1 csr) :=
  fun _ rest => decode_one (wants_other (by simp [laneMajor])) (by rw [major_73 (by simp)]; simp [decSystem]) rest

theorem RoundTrip.csrrc (rd : BitVec 5) (rs1 : BitVec 5) (csr : BitVec 12) : RoundTrip.Statement (.csrrc rd rs1 csr) :=
  fun _ rest => decode_one (wants_other (by simp [laneMajor])) (by rw [major_73 (by simp)]; simp [decSystem]) rest

theorem RoundTrip.csrrwi (rd : BitVec 5) (uimm : BitVec 5) (csr : BitVec 12) : RoundTrip.Statement (.csrrwi rd uimm csr) :=
  fun _ rest => decode_one (wants_other (by simp [laneMajor])) (by rw [major_73 (by simp)]; simp [decSystem]) rest

theorem RoundTrip.csrrsi (rd : BitVec 5) (uimm : BitVec 5) (csr : BitVec 12) : RoundTrip.Statement (.csrrsi rd uimm csr) :=
  fun _ rest => decode_one (wants_other (by simp [laneMajor])) (by rw [major_73 (by simp)]; simp [decSystem]) rest

theorem RoundTrip.csrrci (rd : BitVec 5) (uimm : BitVec 5) (csr : BitVec 12) : RoundTrip.Statement (.csrrci rd uimm csr) :=
  fun _ rest => decode_one (wants_other (by simp [laneMajor])) (by rw [major_73 (by simp)]; simp [decSystem]) rest

theorem RoundTrip.sh1add (rd : BitVec 5) (rs1 : BitVec 5) (rs2 : BitVec 5) : RoundTrip.Statement (.sh1add rd rs1 rs2) :=
  fun _ rest => decode_one (wants_other (by simp [laneMajor])) (by rw [major_33 (by simp)]; simp [decOp]) rest

theorem RoundTrip.sh2add (rd : BitVec 5) (rs1 : BitVec 5) (rs2 : BitVec 5) : RoundTrip.Statement (.sh2add rd rs1 rs2) :=
  fun _ rest => decode_one (wants_other (by simp [laneMajor])) (by rw [major_33 (by simp)]; simp [decOp]) rest

theorem RoundTrip.sh3add (rd : BitVec 5) (rs1 : BitVec 5) (rs2 : BitVec 5) : RoundTrip.Statement (.sh3add rd rs1 rs2) :=
  fun _ rest => decode_one (wants_other (by simp [laneMajor])) (by rw [major_33 (by simp)]; simp [decOp]) rest

theorem RoundTrip.addUw (rd : BitVec 5) (rs1 : BitVec 5) (rs2 : BitVec 5) : RoundTrip.Statement (.addUw rd rs1 rs2) :=
  fun _ rest => decode_one (wants_other (by simp [laneMajor])) (by rw [major_3B (by simp)]; simp [decOp32]) rest

theorem RoundTrip.sh1addUw (rd : BitVec 5) (rs1 : BitVec 5) (rs2 : BitVec 5) : RoundTrip.Statement (.sh1addUw rd rs1 rs2) :=
  fun _ rest => decode_one (wants_other (by simp [laneMajor])) (by rw [major_3B (by simp)]; simp [decOp32]) rest

theorem RoundTrip.sh2addUw (rd : BitVec 5) (rs1 : BitVec 5) (rs2 : BitVec 5) : RoundTrip.Statement (.sh2addUw rd rs1 rs2) :=
  fun _ rest => decode_one (wants_other (by simp [laneMajor])) (by rw [major_3B (by simp)]; simp [decOp32]) rest

theorem RoundTrip.sh3addUw (rd : BitVec 5) (rs1 : BitVec 5) (rs2 : BitVec 5) : RoundTrip.Statement (.sh3addUw rd rs1 rs2) :=
  fun _ rest => decode_one (wants_other (by simp [laneMajor])) (by rw [major_3B (by simp)]; simp [decOp32]) rest

theorem RoundTrip.slliUw (rd : BitVec 5) (rs1 : BitVec 5) (sh : BitVec 6) : RoundTrip.Statement (.slliUw rd rs1 sh) :=
  fun _ rest => decode_one (wants_other (by simp [laneMajor])) (by rw [major_1B (by simp)]; simp [decOpImm32]) rest

theorem RoundTrip.andn (rd : BitVec 5) (rs1 : BitVec 5) (rs2 : BitVec 5) : RoundTrip.Statement (.andn rd rs1 rs2) :=
  fun _ rest => decode_one (wants_other (by simp [laneMajor])) (by rw [major_33 (by simp)]; simp [decOp]) rest

theorem RoundTrip.orn (rd : BitVec 5) (rs1 : BitVec 5) (rs2 : BitVec 5) : RoundTrip.Statement (.orn rd rs1 rs2) :=
  fun _ rest => decode_one (wants_other (by simp [laneMajor])) (by rw [major_33 (by simp)]; simp [decOp]) rest

theorem RoundTrip.xnor (rd : BitVec 5) (rs1 : BitVec 5) (rs2 : BitVec 5) : RoundTrip.Statement (.xnor rd rs1 rs2) :=
  fun _ rest => decode_one (wants_other (by simp [laneMajor])) (by rw [major_33 (by simp)]; simp [decOp]) rest

theorem RoundTrip.min (rd : BitVec 5) (rs1 : BitVec 5) (rs2 : BitVec 5) : RoundTrip.Statement (.min rd rs1 rs2) :=
  fun _ rest => decode_one (wants_other (by simp [laneMajor])) (by rw [major_33 (by simp)]; simp [decOp]) rest

theorem RoundTrip.minu (rd : BitVec 5) (rs1 : BitVec 5) (rs2 : BitVec 5) : RoundTrip.Statement (.minu rd rs1 rs2) :=
  fun _ rest => decode_one (wants_other (by simp [laneMajor])) (by rw [major_33 (by simp)]; simp [decOp]) rest

theorem RoundTrip.max (rd : BitVec 5) (rs1 : BitVec 5) (rs2 : BitVec 5) : RoundTrip.Statement (.max rd rs1 rs2) :=
  fun _ rest => decode_one (wants_other (by simp [laneMajor])) (by rw [major_33 (by simp)]; simp [decOp]) rest

theorem RoundTrip.maxu (rd : BitVec 5) (rs1 : BitVec 5) (rs2 : BitVec 5) : RoundTrip.Statement (.maxu rd rs1 rs2) :=
  fun _ rest => decode_one (wants_other (by simp [laneMajor])) (by rw [major_33 (by simp)]; simp [decOp]) rest

theorem RoundTrip.rol (rd : BitVec 5) (rs1 : BitVec 5) (rs2 : BitVec 5) : RoundTrip.Statement (.rol rd rs1 rs2) :=
  fun _ rest => decode_one (wants_other (by simp [laneMajor])) (by rw [major_33 (by simp)]; simp [decOp]) rest

theorem RoundTrip.ror (rd : BitVec 5) (rs1 : BitVec 5) (rs2 : BitVec 5) : RoundTrip.Statement (.ror rd rs1 rs2) :=
  fun _ rest => decode_one (wants_other (by simp [laneMajor])) (by rw [major_33 (by simp)]; simp [decOp]) rest

theorem RoundTrip.rolw (rd : BitVec 5) (rs1 : BitVec 5) (rs2 : BitVec 5) : RoundTrip.Statement (.rolw rd rs1 rs2) :=
  fun _ rest => decode_one (wants_other (by simp [laneMajor])) (by rw [major_3B (by simp)]; simp [decOp32]) rest

theorem RoundTrip.rorw (rd : BitVec 5) (rs1 : BitVec 5) (rs2 : BitVec 5) : RoundTrip.Statement (.rorw rd rs1 rs2) :=
  fun _ rest => decode_one (wants_other (by simp [laneMajor])) (by rw [major_3B (by simp)]; simp [decOp32]) rest

theorem RoundTrip.zextH (rd : BitVec 5) (rs1 : BitVec 5) : RoundTrip.Statement (.zextH rd rs1) :=
  fun _ rest => decode_one (wants_other (by simp [laneMajor])) (by rw [major_3B (by simp)]; simp [decOp32]) rest

theorem RoundTrip.clz (rd : BitVec 5) (rs1 : BitVec 5) : RoundTrip.Statement (.clz rd rs1) :=
  fun _ rest => decode_one (wants_other (by simp [laneMajor])) (by rw [major_13 (by simp)]; simp [decOpImm]) rest

theorem RoundTrip.ctz (rd : BitVec 5) (rs1 : BitVec 5) : RoundTrip.Statement (.ctz rd rs1) :=
  fun _ rest => decode_one (wants_other (by simp [laneMajor])) (by rw [major_13 (by simp)]; simp [decOpImm]) rest

theorem RoundTrip.cpop (rd : BitVec 5) (rs1 : BitVec 5) : RoundTrip.Statement (.cpop rd rs1) :=
  fun _ rest => decode_one (wants_other (by simp [laneMajor])) (by rw [major_13 (by simp)]; simp [decOpImm]) rest

theorem RoundTrip.sextB (rd : BitVec 5) (rs1 : BitVec 5) : RoundTrip.Statement (.sextB rd rs1) :=
  fun _ rest => decode_one (wants_other (by simp [laneMajor])) (by rw [major_13 (by simp)]; simp [decOpImm]) rest

theorem RoundTrip.sextH (rd : BitVec 5) (rs1 : BitVec 5) : RoundTrip.Statement (.sextH rd rs1) :=
  fun _ rest => decode_one (wants_other (by simp [laneMajor])) (by rw [major_13 (by simp)]; simp [decOpImm]) rest

theorem RoundTrip.rori (rd : BitVec 5) (rs1 : BitVec 5) (sh : BitVec 6) : RoundTrip.Statement (.rori rd rs1 sh) :=
  fun _ rest => decode_one (wants_other (by simp [laneMajor])) (by rw [major_13 (by simp)]; simp [decOpImm]) rest

theorem RoundTrip.orcB (rd : BitVec 5) (rs1 : BitVec 5) : RoundTrip.Statement (.orcB rd rs1) :=
  fun _ rest => decode_one (wants_other (by simp [laneMajor])) (by rw [major_13 (by simp)]; simp [decOpImm]) rest

theorem RoundTrip.rev8 (rd : BitVec 5) (rs1 : BitVec 5) : RoundTrip.Statement (.rev8 rd rs1) :=
  fun _ rest => decode_one (wants_other (by simp [laneMajor])) (by rw [major_13 (by simp)]; simp [decOpImm]) rest

theorem RoundTrip.clzw (rd : BitVec 5) (rs1 : BitVec 5) : RoundTrip.Statement (.clzw rd rs1) :=
  fun _ rest => decode_one (wants_other (by simp [laneMajor])) (by rw [major_1B (by simp)]; simp [decOpImm32]) rest

theorem RoundTrip.ctzw (rd : BitVec 5) (rs1 : BitVec 5) : RoundTrip.Statement (.ctzw rd rs1) :=
  fun _ rest => decode_one (wants_other (by simp [laneMajor])) (by rw [major_1B (by simp)]; simp [decOpImm32]) rest

theorem RoundTrip.cpopw (rd : BitVec 5) (rs1 : BitVec 5) : RoundTrip.Statement (.cpopw rd rs1) :=
  fun _ rest => decode_one (wants_other (by simp [laneMajor])) (by rw [major_1B (by simp)]; simp [decOpImm32]) rest

theorem RoundTrip.roriw (rd : BitVec 5) (rs1 : BitVec 5) (sh : BitVec 5) : RoundTrip.Statement (.roriw rd rs1 sh) :=
  fun _ rest => decode_one (wants_other (by simp [laneMajor])) (by rw [major_1B (by simp)]; simp [decOpImm32]) rest

theorem RoundTrip.czeroEqz (rd : BitVec 5) (rs1 : BitVec 5) (rs2 : BitVec 5) : RoundTrip.Statement (.czeroEqz rd rs1 rs2) :=
  fun _ rest => decode_one (wants_other (by simp [laneMajor])) (by rw [major_33 (by simp)]; simp [decOp]) rest

theorem RoundTrip.czeroNez (rd : BitVec 5) (rs1 : BitVec 5) (rs2 : BitVec 5) : RoundTrip.Statement (.czeroNez rd rs1 rs2) :=
  fun _ rest => decode_one (wants_other (by simp [laneMajor])) (by rw [major_33 (by simp)]; simp [decOp]) rest

theorem RoundTrip.sret : RoundTrip.Statement (.sret) :=
  fun _ rest => decode_one (wants_other (by simp [laneMajor])) (by rw [major_73 (by simp)]; simp [decSystem]) rest

theorem RoundTrip.mret : RoundTrip.Statement (.mret) :=
  fun _ rest => decode_one (wants_other (by simp [laneMajor])) (by rw [major_73 (by simp)]; simp [decSystem]) rest

theorem RoundTrip.wfi : RoundTrip.Statement (.wfi) :=
  fun _ rest => decode_one (wants_other (by simp [laneMajor])) (by rw [major_73 (by simp)]; simp [decSystem]) rest

theorem RoundTrip.sfenceVma (rs1 : BitVec 5) (rs2 : BitVec 5) : RoundTrip.Statement (.sfenceVma rs1 rs2) :=
  fun _ rest => decode_one (wants_other (by simp [laneMajor])) (by rw [major_73 (by simp)]; simp [decSystem, sfence_other]) rest

theorem RoundTrip.divRemResultReturn (c : Nat) (sl : Nat) (sp : Nat) : RoundTrip.Statement (.divRemResultReturn c sl sp) :=
  fun h => absurd rfl h

theorem RoundTrip.engineResultReturn (n : Nat) : RoundTrip.Statement (.engineResultReturn n) :=
  fun h => absurd rfl h

theorem RoundTrip.idleMemoryPatrol (at_ : BitVec 8 × Nat × Option (Nat × Nat × Nat) × Option Bool) (corrected pass : Bool) :
    RoundTrip.Statement (.idleMemoryPatrol at_ corrected pass) :=
  fun h => absurd rfl h

theorem RoundTrip.mainPowerLoss : RoundTrip.Statement (.mainPowerLoss) :=
  fun h => absurd rfl h

end Sys2Proof.Laws
end

