-- ==== Sys2Proof/Tests/Slice0.lean ====
section
/-! SUPPORT. Tests: ill-formed words that the checks refuse, words written out from the spec's encodings, small runs of one instruction,
and for every statement with hypotheses a concrete state that meets them. -/

set_option linter.unusedVariables false
set_option maxRecDepth 20000
set_option Elab.async false

namespace Sys2Proof.Tests

open Sys2Proof Sys2Proof.Machine
open Sys2Proof.Claims (StepHalted standardMajor)

/-! ## Small states -/

/-- Core 0, slot 0, split 0. -/
def x0 : Ctx := { c := 0, sl := 0, sp := 0 }

/-- The handler slot of core 0. -/
def xh : Ctx := { c := 0, sl := 4, sp := 0 }

/-- A unit on core 0 with the whole scratchpad. -/
def unit1 : Machine.Unit := { cores := [0], ssize := 32768, slots := [0], vregs := 64 }

/-- The split p of the group g in slot sl of core 0 holds the issue slot of the core k. -/
def stageIn (sl : Nat) (s : State) (p : Split) (g : Group) (k : Core) : State :=
  { s with
    focus := 0
    units := [(1, unit1)]
    cores := [(0, { k with
      issuing := some (sl, 0)
      slots := [(sl, { group := some { g with unit := 1, splits := [(0, p)] } })] })] }

def stage : State → Split → Group → Core → State := stageIn 0

/-- A U-mode split with every lane active. -/
def pU : Split := { pc := 0x7F0000000000, m0 := 0xFFFFFFFF, lanes := 0xFFFFFFFF }
def pS : Split := { pU with mode := .s }
def pM : Split := { pU with mode := .m }
def g64 : Group := { vregs := 64 }

/-- Page 0 is mapped for U-mode and page 9 for S-mode, both at their own frame of die 0, and the first 64 KB are leased. -/
def mapped : State := { State.reset with
  pins := [(0, (0xDF, 0)), (9, (0x24CF, 0))]
  ranges := [{ asid := 0, base := 0, size := 65536, w := true, launch := 0 }] }

def base : State := stage mapped pU g64 {}
def baseS : State := stage mapped pS g64 {}
def baseM : State := stage mapped pM g64 {}
def baseH : State := stageIn 4 mapped pU { vregs := 16 } {}

theorem stage_spl (s : State) (p : Split) (g : Group) (k : Core) : (stage s p g k).spl x0 = p := rfl
theorem stage_grp (s : State) (p : Split) (g : Group) (k : Core) :
    (stage s p g k).grp x0 = { g with unit := 1, splits := [(0, p)] } := rfl
theorem stage_current (s : State) (p : Split) (g : Group) (k : Core) : (stage s p g k).current = some x0 := rfl

/-- A staged split without outstanding results and without a prefix may issue any hart instruction. -/
theorem stage_issues {s : State} {p : Split} {g : Group} {k : Core} (xs : List (BitVec 5)) (hp : p.pend = [])
    (hf : p.format = none) : Issues (stage s p g k) x0 xs where
  current := rfl
  plain := hf
  ready := by rw [stage_spl, hp]; intro q hq; cases hq

theorem stage_ungated {s : State} {p : Split} {g : Group} {k : Core} (h : g.frames = []) : Ungated (stage s p g k) x0 :=
  fun _ => h

theorem stage_unblocked {s : State} {p : Split} {g : Group} {k : Core} (vs : List Nat) (hk : k.ops = [])
    (hf : s.flights = []) (hh : p.fenceHeld = false := by rfl) : Unblocked (stage s p g k) x0 vs := by
  refine ⟨.inr ?_, ?_, hh⟩
  · show Core.loadsInto _ _ _ = false
    simp [Core.loadsInto, stage, stageIn, State.core, Map.find, hk, x0]
  · show ∀ f ∈ s.flights, _
    rw [hf]; intro f h; cases h

theorem stage_mayName {s : State} {p : Split} {g : Group} {k : Core} (v : BitVec 6) (hv : g.vregs = 64) (hf : g.frames = []) :
    (stage s p g k).mayName x0 v.toNat := by
  refine ⟨?_, fun _ h => absurd hf h⟩
  show v.toNat < g.vregs
  rw [hv]; exact v.isLt

/-- Outside M-mode and outside gate frames it may issue any device instruction. -/
theorem stage_dev {s : State} {p : Split} {g : Group} {k : Core} (xs : List (BitVec 5)) (vs : List (BitVec 6))
    (hp : p.pend = []) (hf : p.format = none) (hm : p.mode ≠ .m) (hg : g.frames = []) (hv : g.vregs = 64) (hk : k.ops = [])
    (hs : s.flights = []) (hh : p.fenceHeld = false := by rfl) : IssuesDev (stage s p g k) x0 xs vs where
  toIssues := stage_issues xs hp hf
  mode := hm
  regs := fun v _ => stage_mayName v hv hg
  free := stage_unblocked _ hk hs hh

theorem stage_lane {s : State} {p : Split} {g : Group} {k : Core} (sh : Shape) (md : Option Word32) (xs : List (BitVec 5))
    (vs : List (BitVec 6)) (hp : p.pend = []) (hf : p.format = none) (hm : p.mode ≠ .m) (hg : g.frames = [])
    (hv : g.vregs = 64) (hk : k.ops = []) (hs : s.flights = []) (hmd : sh.mdOk md = true)
    (hr : ∀ v ∈ modRoutes (md.getD 0), v < 64) (hh : p.fenceHeld = false := by rfl) : IssuesLane (stage s p g k) x0 sh md xs vs where
  current := rfl
  format := fun f h => by rw [stage_spl, hf] at h; cases h
  modOk := hmd
  ready := by rw [stage_spl, hp]; intro q hq; cases hq
  mode := hm
  regs := by
    intro v h
    refine ⟨?_, fun _ h => absurd hg h⟩
    show v < g.vregs
    rw [hv]
    rcases List.mem_append.1 h with h | h
    · obtain ⟨w, -, rfl⟩ := List.mem_map.1 h; exact w.isLt
    · exact hr v h
  free := stage_unblocked _ hk hs hh

theorem stage_eng {s : State} {p : Split} {g : Group} {k : Core} (cls : Nat) (xs : List (BitVec 5)) (hp : p.pend = [])
    (hf : p.format = none) (hm : p.mode ≠ .m) (hg : g.frames = []) (hv : g.vregs = 64) (hk : k.ops = [])
    (hs : s.flights = []) (hl : p.left = 0) (hh : p.fenceHeld = false := by rfl) : IssuesEng (stage s p g k) x0 cls xs where
  toIssuesDev := stage_dev xs [] hp hf hm hg hv hk hs hh
  gate := stage_ungated hg
  clause := .inl hl

theorem stage_fmt {s : State} {p : Split} {g : Group} {k : Core} (t : Takes) (cls : Nat) (xs : List (BitVec 5))
    (hp : p.pend = []) (hf : p.format = none) (hm : p.mode ≠ .m) (hg : g.frames = []) (hk : k.ops = [])
    (hs : s.flights = []) (hl : p.left = 0) (hh : p.fenceHeld = false := by rfl) : IssuesFmt (stage s p g k) x0 t cls xs where
  current := rfl
  format := fun f h => by rw [stage_spl, hf] at h; cases h
  ready := by rw [stage_spl, hp]; intro q hq; cases hq
  mode := hm
  free := stage_unblocked _ hk hs hh
  gate := stage_ungated hg
  clause := .inl hl

theorem base_issues (xs : List (BitVec 5)) : Issues base x0 xs := stage_issues xs rfl rfl
theorem base_dev (xs : List (BitVec 5)) (vs : List (BitVec 6)) : IssuesDev base x0 xs vs :=
  stage_dev xs vs rfl rfl (by decide) rfl rfl rfl rfl
theorem base_eng (cls : Nat) (xs : List (BitVec 5)) : IssuesEng base x0 cls xs :=
  stage_eng cls xs rfl rfl (by decide) rfl rfl rfl rfl rfl
theorem base_lane (sh : Shape) (xs : List (BitVec 5)) (vs : List (BitVec 6)) : IssuesLane base x0 sh none xs vs :=
  stage_lane sh none xs vs rfl rfl (by decide) rfl rfl rfl rfl rfl (by intro v h; cases h)

/-! ## Witnesses: harts, steps, traps -/

theorem witness_HartAlu : Issues base x0 [3, 1, 2] := base_issues _
theorem witness_HartImmediates : Issues base x0 [3, 1] := base_issues _
theorem witness_HartBitManipulation : Issues base x0 [3, 1, 2] ∧ Issues base x0 [3, 1] := ⟨base_issues _, base_issues _⟩
theorem witness_HartMultiplyDivide : Issues base x0 [3, 1, 2] := base_issues _

/-- Inside a clause, at its last word, and outside a counted clause. -/
theorem witness_HartControl :
    (Issues base x0 [1, 2] ∧ LastWord base x0) ∧
    (let s := stage mapped { pU with left := 1 } g64 {}
     Issues s x0 [1, 2] ∧ LastWord s x0) :=
  ⟨⟨base_issues _, by unfold LastWord; decide⟩, stage_issues _ rfl rfl, by unfold LastWord; decide⟩

theorem witness_DecodeEncode : (Instr.ladd (some 0x00002100) 1 0 2).encoded = true ∧ Instr.mpop.encoded = true ∧
    (Instr.sd 1 2 0xFFF).encoded = true := by decide

/-- M-mode code in page 9. -/
def codeM (w : Word32) : State :=
  { stage mapped { pM with pc := 0x9000 } g64 {} with hbm := (Memory.setBytes [] 0x9000 (leBytes w.toNat 4)) }

theorem witness_StepRuns :
    (∃ i, (codeM 0x00100093).agenda = [] ∧ ((codeM 0x00100093).core 0).waiting = false ∧
      (codeM 0x00100093).current = some x0 ∧ (codeM 0x00100093).breaks x0 0x9000 = false ∧
      (codeM 0x00100093).fetch 0 ((codeM 0x00100093).grp x0) .m 0x9000 = .word 0x00100093 ∧
      wantsModifier 0x00100093 = false ∧ decodeWord 0x00100093 0 = some i) ∧
    ((codeM 0x0000001F).fetch 0 ((codeM 0x0000001F).grp x0) .m 0x9000 = .word 0x0000001F ∧
      wantsModifier 0x0000001F = false ∧ decodeWord 0x0000001F 0 = none ∧ ((codeM 0x0000001F).spl x0).fmt = none ∧
      (codeM 0x0000001F).current = some x0 ∧ (codeM 0x0000001F).breaks x0 0x9000 = false) ∧
    ((∀ d ∈ (codeM 0x00100093).dies, d.2.stepping = []) ∧
      ∀ c ∈ (codeM 0x00100093).cores, c.2.tEn = false ∧ c.2.traces = []) ∧
    (({ base with agenda := [.issueArbitration 0] } : State).agenda = [.issueArbitration 0] ∧
      (Instr.issueArbitration 0).encoded = false ∧ (Instr.addi 1 0 1).encoded = true) :=
  ⟨⟨.addi 1 0 1, by decide⟩, by decide, by decide, by decide⟩

/-- A debug step is in progress at die 0, and the one participant has arrived and is halted. -/
def stepped : State := { stage mapped { pU with marks := 1 } { g64 with halted := true } {} with
  dies := [(0, { stepping := [(1, 0, 0)] })], agenda := [.issueArbitration 0] }

theorem witness_StepKeepsHalts : StepHalted stepped ∧ (stepped.participants 1).length = 1 ∧ ∃ t, step stepped = .next t := by
  refine ⟨?_, by decide, ⟨_, rfl⟩⟩
  intro d hd u bar ph h
  rcases List.mem_singleton.1 hd with rfl
  cases List.mem_singleton.1 h
  decide

/-- A word inside a clause, a last word, and a word after which a prefix is kept. -/
theorem witness_FinishFrame :
    1 < ({ pU with left := 2 } : Split).left.toNat ∧ (pU.left = 0 ∧ true = true) ∧ ({ pU with left := 1 } : Split).left = 1 ∧
      (pU.left = 0 ∧ false = false) := by decide

theorem witness_RegisterFiles : (3 < 4 ∧ 511 < 512 ∧ 511 ≠ 32 * 3 + (31 : BitVec 5).toNat ∧ 128 ≤ 511) ∧
    (127 = 32 * 3 + (31 : BitVec 5).toNat) ∧ (1 : BitVec 3) ≠ 0 ∧ 1 ≠ 0 := by decide

/-- In gate-frame code of a U-mode split, lane registers from 16 on may not be named. -/
def gated : State := stage mapped pU { g64 with frames := [{}] } {}

/-- S-mode code inside a counted clause of class 3. -/
def clauseS (left : BitVec 4) : State := stage mapped { pS with left := left, engc := 3 } g64 {}

theorem witness_IssueChecks :
    (baseM.current = some x0 ∧ (baseM.spl x0).format = none ∧ (baseM.spl x0).mode = .m ∧ Instr.mpop.encoded = true ∧
      standardMajor (encodeWord .mpop) = false) ∧
    (base.current = some x0 ∧ (base.spl x0).format = none ∧ (base.spl x0).mode ≠ .m ∧ base.laneLimit x0 = 64 ∧
      baseH.laneLimit xh = 16 ∧ baseH.current = some xh) ∧
    ((gated.spl x0).mode = .u ∧ (gated.grp x0).frames ≠ [] ∧ gated.laneLimit x0 = 64 ∧
      [1, 2, 63].find? (fun v => decide (16 ≤ v)) = some 63) ∧
    (∀ n : BitVec 4, n = 1 ∨ n = 2 →
      (clauseS n).current = some x0 ∧ ((clauseS n).spl x0).format = none ∧ ((clauseS n).spl x0).pend = [] ∧
      ((clauseS n).spl x0).mode = .s ∧ (∀ f ∈ (clauseS n).flights, f.what.taking = false) ∧ ((clauseS n).spl x0).left ≠ 0 ∧
      ((clauseS n).spl x0).engc ≠ 7 ∧ ((clauseS n).spl x0).engc ≠ 2 ∧
      ((clauseS n).slot 0 0).mstatus.getLsbD 22 = false) := by
  refine ⟨by decide, by decide, by decide, ?_⟩
  rintro n (rfl | rfl) <;> decide

theorem witness_IssueChecks_native : (clauseS 2).native ((clauseS 2).grp x0) ((clauseS 2).spl x0).pc = true := by decide

theorem witness_Traps : base.group 0 0 = some (base.grp x0) ∧ (0 : Nat) < 4 ∧ baseS.group 0 0 = some (baseS.grp x0) ∧
    ((baseS.takeTrap 0 0 0 2 false 0 0 0).spl x0).mode = .m ∧
    (let s := { base with cores := Map.put base.cores 0 { base.core 0 with
        slots := [(0, { base.slot 0 0 with medeleg := 4 })] } }
     (s.takeTrap 0 0 0 2 false 0 0 0).spl x0).mode = .s ∧
    pU.fmt = none ∧ ({ pU with fmt := some 1 } : Split).fmt = some 1 := by decide

theorem witness_FrameFaults :
    (gated.group 0 0 = some (gated.grp x0) ∧ (gated.grp x0).frames.getLast? = some {} ∧
      ((gated.grp x0).split 0).mode = .u ∧ ({} : GateFrame).faulted = false) ∧
    (let s := stage mapped pU { g64 with frames := [{ faulted := true }] } {}
     s.group 0 0 = some (s.grp x0) ∧ (s.grp x0).frames.getLast? = some { faulted := true } ∧
      ((s.grp x0).split 0).mode = .u) ∧
    (let s := stage mapped pS { g64 with frames := [{}] } {}
     (s.grp x0).frames.getLast? = some {} ∧ ((s.grp x0).split 0).mode ≠ .u) := by decide

/-- The supervisor timer interrupt is enabled, delegated and pending. -/
def timed : State := { stage mapped pU { g64 with csr := { stimecmp := 0, sie := 32 } } {} with
  cores := [(0, { issuing := some (0, 0), slots := [(0, {
    mideleg := 32, mie := 160, mtimecmp := 0
    group := some { g64 with unit := 1, splits := [(0, pU)], csr := { stimecmp := 0, sie := 32 } } })] })] }

theorem witness_InterruptOrder : timed.group 0 0 = some (timed.grp x0) ∧ timed.takeable 0 0 pU = some (7, .m) ∧
    timed.takeable 0 0 { pU with mode := .m } = none := by decide

/-- In the mode that may, in a mode too low, and in S-mode with TSR set. -/
def tsr : State := { baseS with cores := [(0, { issuing := some (0, 0), slots := [(0, {
    mstatus := 0x700000, group := some { g64 with unit := 1, splits := [(0, pS)] } })] })] }

theorem tsr_issues (xs : List (BitVec 5)) : Issues tsr x0 xs := ⟨rfl, rfl, by intro q h; cases h⟩

theorem witness_CallsAndReturns :
    (Issues base x0 [] ∧ LastWord base x0 ∧ (base.spl x0).mode = .u) ∧
    (Issues baseS x0 [] ∧ LastWord baseS x0 ∧ (baseS.spl x0).mode = .s ∧ (baseS.slot 0 0).mstatus.getLsbD 22 = false) ∧
    (Issues tsr x0 [] ∧ LastWord tsr x0 ∧ (tsr.spl x0).mode = .s ∧ (tsr.slot 0 0).mstatus.getLsbD 22 = true) ∧
    (Issues baseM x0 [] ∧ LastWord baseM x0 ∧ (baseM.spl x0).mode = .m) :=
  ⟨⟨base_issues _, by unfold LastWord; decide⟩, ⟨stage_issues _ rfl rfl, by unfold LastWord; decide⟩,
    ⟨tsr_issues _, by unfold LastWord; decide⟩, stage_issues _ rfl rfl, by unfold LastWord; decide⟩

theorem witness_CsrInstructions : Issues base x0 [3, 1] ∧ Issues base x0 [3] ∧
    (csrAllowed .u 0x801 true = true ∧ (base.csrRead x0 0x801).isSome = true) ∧ csrAllowed .u 0xC00 true = false ∧
    (csrAllowed .s 0x140 true = true ∧ (baseS.csrRead x0 0x140).isSome = true) ∧ csrAllowed .u 0x140 false = false ∧
    baseS.csrRead x0 0x7FF = none :=
  ⟨base_issues _, base_issues _, by decide, by decide, by decide, by decide, by decide⟩

theorem witness_GstatWrites : x0.sp < 4 ∧ (base.spl x0).mode = .u ∧ (baseS.spl x0).mode ≠ .u := by decide

/-- An operation of the split is outstanding. -/
def storing : Core := { ops := [{ id := 1, slot := 0, who := 1, store := true }] }

/-- A handler slot activation at issue. -/
theorem baseH_dev : IssuesDev baseH xh [] [] where
  current := rfl
  plain := rfl
  ready := by intro q h; cases h
  mode := by decide
  regs := by intro v h; cases h
  free := ⟨.inr (by decide), (by intro f h; cases h), by rfl⟩

theorem witness_WaitsAndMoves_system :
    (Issues baseM x0 [1, 2] ∧ (baseM.spl x0).mode = .m ∧ baseM.mip 0 0 = 0 ∧ x0.handler = false) ∧
    (Issues baseS x0 [1, 2] ∧ (baseS.spl x0).mode = .s ∧ (baseS.slot 0 0).mstatus.getLsbD 21 = false ∧
      (baseS.slot 0 0).mstatus.getLsbD 20 = false ∧ (baseS.spl x0).sfence = none) ∧
    (let s := stage mapped { pS with sfence := some true } { g64 with csr := { sip := 2 } } {}
     Issues s x0 [1, 2] ∧ (s.spl x0).sfence = some true ∧ s.mip 0 0 ≠ 0) ∧
    ((base.core 0).loadCount 0 0 = 0 ∧ (base.core 0).storeCount 0 0 = 0) ∧
    (let s := stage mapped pU g64 storing
     Issues s x0 [1, 2] ∧ (s.core 0).storeCount 0 0 ≠ 0) :=
  ⟨⟨stage_issues _ rfl rfl, by decide⟩, ⟨stage_issues _ rfl rfl, by decide⟩, ⟨stage_issues _ rfl rfl, by decide⟩, by decide,
    stage_issues _ rfl rfl, by decide⟩

/-- A clause header outside a clause; a prefix before an instruction that takes it, at the last word and before it; a wait that is met, one
that is not, and one in the handler slot. -/
theorem witness_WaitsAndMoves_clauses :
    (IssuesDev base x0 [] [] ∧ (base.spl x0).left = 0 ∧ (base.core 0).met 0 0 7 7 7 7 = true ∧ (15 : BitVec 4) ≠ 0) ∧
    (let s := stage { mapped with hbm := Memory.setBytes [] 0x9004 (leBytes 0x001862AB 4) } { pS with pc := 0x9000 } g64 {}
     IssuesDev s x0 [] [] ∧ s.fetch 0 (s.grp x0) .s 0x9004 = .word 0x001862AB ∧
      fmtTarget 0x001862AB ((0 : BitVec 3) ++ (8 : BitVec 5) ++ (8 : BitVec 5) ++ (8 : BitVec 5)) (s.laneLimit x0) = true ∧
      fmtListed 8 = true ∧ rndListed 0 = true ∧ (s.spl x0).left ≠ 1) ∧
    (let s := stage mapped pU g64 { tiles := [{ id := 1, slot := 0, who := 1 }] }
     IssuesDev s x0 [] [] ∧ (s.core 0).met 0 0 0 7 7 7 = false ∧ x0.handler = false) ∧
    (IssuesDev baseH xh [] [] ∧ xh.handler = true ∧ (({ baseH.core 0 with tiles := [{ id := 1, slot := 4, who := 1 }] } : Core).met 4
      0 0 7 7 7) = false) :=
  ⟨⟨base_dev _ _, by decide⟩, ⟨stage_dev _ _ rfl rfl (by decide) rfl rfl rfl rfl, by decide⟩,
    ⟨stage_dev _ _ rfl rfl (by decide) rfl rfl rfl rfl, by decide⟩, baseH_dev, by decide⟩

theorem witness_WaitsAndMoves : IssuesDev base x0 [3] [] ∧ Ungated base x0 ∧ x0.handler = false ∧ (base.grp x0).lw16 = false ∧
    (∀ k, ((base.grp x0).split k).pend = []) ∧ (8 : BitVec 5).toNat < 9 ∧ 9 ≤ (9 : BitVec 5).toNat ∧
    (base.spl x0).m0 ≠ 0 ∧ (let s := stage mapped { pU with m0 := 0 } g64 {}; IssuesDev s x0 [3] [] ∧ (s.spl x0).m0 = 0) := by
  refine ⟨base_dev _ _, stage_ungated rfl, by decide, by decide, ?_, by decide, by decide, by decide,
    stage_dev _ _ rfl rfl (by decide) rfl rfl rfl rfl, by decide⟩
  intro k
  cases k with
  | zero => rfl
  | succ k => rfl

/-- Depth 0, depth 16 and one between. -/
theorem witness_Masks :
    (∀ d : BitVec 5, d = 0 ∨ d = 1 ∨ d = 15 ∨ d = 16 →
      let s := stage mapped { pU with depth := d } g64 {}
      IssuesDev s x0 [] [] ∧ (s.spl x0).depth.toNat ≤ 16) ∧ IssuesDev base x0 [1] [] := by
  refine ⟨?_, base_dev _ _⟩
  intro d h
  refine ⟨stage_dev _ _ rfl rfl (show Mode.u ≠ Mode.m by decide) rfl rfl rfl rfl, ?_⟩
  show d.toNat ≤ 16
  rcases h with rfl | rfl | rfl | rfl <;> decide

/-- A condition of 3 and of 4, at the last word and before it. -/
theorem witness_MaskBranch : IssuesDev base x0 [] [] ∧ LastWord base x0 ∧ (3 : BitVec 3).toNat < 4 ∧ 4 ≤ (4 : BitVec 3).toNat ∧
    (let s := stage mapped { pU with left := 2 } g64 {}; IssuesDev s x0 [] [] ∧ ¬ LastWord s x0) :=
  ⟨base_dev _ _, by unfold LastWord; decide, by decide, by decide, stage_dev _ _ rfl rfl (by decide) rfl rfl rfl rfl,
    by unfold LastWord; decide⟩

/-- Lanes 0 and 1 are active and hold these targets in v1; split 1 is free. -/
def jumping (a b : Word32) (m0 : Word32) : State :=
  stage mapped { pU with m0 := m0 } { g64 with v := [(32, a), (33, b)] } {}

/-- Where LJALR in `jumping` sends lane l with an offset of 0. -/
def jumpTo (a b : Word32) (l : Nat) : Word64 :=
  0x7F0000000000 + (((jumping a b 3).grp x0).v32 1 l + (0 : BitVec 9).signExtend 32).setWidth 64

theorem jumping_dev (a b m0 : Word32) : IssuesDev (jumping a b m0) x0 [1] [1] :=
  stage_dev _ _ rfl rfl (show Mode.u ≠ Mode.m by decide) rfl rfl rfl rfl

/-- No active lane, one target, a misaligned target, and two targets with split 1 free. -/
theorem witness_LaneControl_jump :
    (IssuesDev (jumping 0 0 0) x0 [1] [1] ∧ LastWord (jumping 0 0 0) x0 ∧ ((jumping 0 0 0).spl x0).m0 = 0) ∧
    (IssuesDev (jumping 64 64 3) x0 [1] [1] ∧ ∀ l < 32, (3 : Word32).getLsbD l = true → jumpTo 64 64 l = 0x7F0000000040) ∧
    (IssuesDev (jumping 64 66 3) x0 [1] [1] ∧ (jumpTo 64 66 1).extractLsb' 0 2 ≠ 0#2 ∧ (jumpTo 64 66 0).extractLsb' 0 2 = 0#2) ∧
    (IssuesDev (jumping 64 128 3) x0 [1] [1] ∧ jumpTo 64 128 0 = 0x7F0000000040 ∧ jumpTo 64 128 1 = 0x7F0000000080 ∧
      (∀ l < 32, (3 : Word32).getLsbD l = true → (jumpTo 64 128 l).extractLsb' 0 2 = 0#2 ∧
        (jumpTo 64 128 l = 0x7F0000000040 ∨ jumpTo 64 128 l = 0x7F0000000080)) ∧
      ((jumping 64 128 3).grp x0).uses 0 = true ∧ ((jumping 64 128 3).grp x0).freeIds 0 = [1, 2, 3] ∧
      ((jumping 64 128 3).spl x0).pend = [] ∧ ((jumping 64 128 3).spl x0).mode = .u ∧ ((jumping 64 128 3).grp x0).frames = []) :=
  ⟨⟨jumping_dev _ _ _, by unfold LastWord; decide, by decide⟩, ⟨jumping_dev _ _ _, by decide⟩, ⟨jumping_dev _ _ _, by decide⟩,
    jumping_dev _ _ _, by decide⟩

theorem witness_LaneControl :
    (let s := stage mapped { pU with m0 := 1 } g64 {}
     IssuesDev s x0 [] [] ∧ (s.spl x0).mode = .u ∧ (s.grp x0).frames = [] ∧ (s.spl x0).lanes &&& ~~~(s.spl x0).m0 ≠ 0) ∧
    (IssuesDev base x0 [] [] ∧ (base.spl x0).lanes &&& ~~~(base.spl x0).m0 = 0 ∧ (base.grp x0).splits.length = 1) ∧
    (∀ k, k ≠ 0 → (base.grp x0).uses k = false) ∧
    (IssuesDev baseS x0 [] [] ∧ (baseS.spl x0).mode = .s) ∧
    (IssuesDev baseH xh [] [] ∧ (baseH.spl xh).mode = .u ∧ xh.handler = true) ∧
    (let s := gated; IssuesDev s x0 [] [] ∧ (s.spl x0).mode = .u ∧ (s.grp x0).frames ≠ []) := by
  refine ⟨⟨stage_dev _ _ rfl rfl (by decide) rfl rfl rfl rfl, by decide⟩, ⟨base_dev _ _, by decide⟩, ?_,
    ⟨stage_dev _ _ rfl rfl (by decide) rfl rfl rfl rfl, by decide⟩, ⟨baseH_dev, by decide⟩,
    ⟨⟨rfl, rfl, by intro q h; cases h⟩, by decide, (by intro v h; cases h), stage_unblocked _ rfl rfl⟩, by decide⟩
  intro k hk
  cases k with
  | zero => exact absurd rfl hk
  | succ k => rfl

/-! ## Witnesses: lane instructions -/

/-- A prefix with one format in every field is in force. -/
def prefixed (f : BitVec 5) : State := stage mapped { pU with fmt := some ((0 : BitVec 3) ++ f ++ f ++ f) } g64 {}

theorem prefixed_lane (f : BitVec 5) (sh : Shape) (xs : List (BitVec 5)) (vs : List (BitVec 6)) (hn : sh.takes ≠ .none)
    (ha : sh.takes.accepts ((0 : BitVec 3) ++ f ++ f ++ f) = true) : IssuesLane (prefixed f) x0 sh none xs vs where
  current := rfl
  format := by intro g h; cases h; exact ⟨hn, ha⟩
  modOk := rfl
  ready := by intro q h; cases h
  mode := by show Mode.u ≠ Mode.m; decide
  regs := by
    intro v h
    refine ⟨?_, fun _ h => absurd rfl h⟩
    rcases List.mem_append.1 h with h | h
    · obtain ⟨w, -, rfl⟩ := List.mem_map.1 h; exact w.isLt
    · cases h
  free := stage_unblocked _ rfl rfl

/-- Plain, under an 8-bit prefix, and with a modifier word that saturates and routes a. -/
theorem witness_LaneIntegerResults :
    IssuesLane base x0 shArith2 none [] [1, 2, 3] ∧ IssuesLane base x0 shLogic2 none [] [1, 2, 3] ∧
    IssuesLane (prefixed 8) x0 shArith2 none [] [63, 0, 1] ∧
    IssuesLane base x0 shArith2 (some 0x08002100) [] [1, 0, 2] ∧ (8 = 8 ∨ 8 = 16 ∨ 8 = 32) :=
  ⟨base_lane _ _ _, base_lane _ _ _, prefixed_lane 8 _ _ _ (by decide) (by decide),
    stage_lane _ _ _ _ rfl rfl (by decide) rfl rfl rfl rfl (by decide) (by decide), .inl rfl⟩

theorem witness_LaneImmediateResults : IssuesLane base x0 shArith1 none [] [1, 2] ∧ IssuesLane base x0 shLogic1 none [] [1, 2] ∧
    IssuesLane base x0 shNoRoute none [] [63] ∧ IssuesLane (prefixed 8) x0 shArith1 none [] [1, 2] :=
  ⟨base_lane _ _ _, base_lane _ _ _, base_lane _ _ _, prefixed_lane 8 _ _ _ (by decide) (by decide)⟩

theorem witness_LaneCompareResults : IssuesLane base x0 shBits2 none [] [1, 2] ∧ IssuesLane base x0 shBits1 none [5] [1] :=
  ⟨base_lane _ _ _, base_lane _ _ _⟩

theorem witness_LaneBitsAndUniform :
    IssuesLane base x0 shBits2 none [] [1, 2, 3] ∧ IssuesLane base x0 shLogic1 none [] [1, 2] ∧
    IssuesLane base x0 shLogic2 none [] [1, 2, 3] ∧ IssuesLane base x0 shIdx none [] [1] ∧
    IssuesLane base x0 shArith1 none [5] [1, 2] ∧ IssuesLane base x0 shLogic1 none [5] [1, 2] ∧
    IssuesLane base x0 shNoRoute none [5] [1] :=
  ⟨base_lane _ _ _, base_lane _ _ _, base_lane _ _ _, base_lane _ _ _, base_lane _ _ _, base_lane _ _ _, base_lane _ _ _⟩

theorem witness_LaneFloat :
    IssuesLane base x0 shFloat2 none [] [1, 2, 3] ∧ IssuesLane base x0 shFloat1 none [5] [1, 2] ∧
    IssuesLane base x0 shFloat3 none [] [1, 2, 3, 4] ∧ IssuesLane (prefixed 1) x0 shFloat2 none [] [1, 2, 3] ∧ 1 ≠ 0 :=
  ⟨base_lane _ _ _, base_lane _ _ _, base_lane _ _ _, prefixed_lane 1 _ _ _ (by decide) (by decide), by decide⟩

/-- FP16 to FP32 and back at the last selectors, and between equal widths. -/
def converting (fd fa : BitVec 5) : State := stage mapped { pU with fmt := some ((0 : BitVec 3) ++ fd ++ fa ++ fa) } g64 {}

theorem converting_lane (fd fa : BitVec 5) (ha : shCvt.takes.accepts ((0 : BitVec 3) ++ fd ++ fa ++ fa) = true) :
    IssuesLane (converting fd fa) x0 shCvt none [] [1, 2] where
  current := rfl
  format := by intro g h; cases h; exact ⟨by decide, ha⟩
  modOk := rfl
  ready := by intro q h; cases h
  mode := by show Mode.u ≠ Mode.m; decide
  regs := by
    intro v h
    refine ⟨?_, fun _ h => absurd rfl h⟩
    rcases List.mem_append.1 h with h | h
    · obtain ⟨w, -, rfl⟩ := List.mem_map.1 h; exact w.isLt
    · cases h
  free := stage_unblocked _ rfl rfl

theorem witness_LaneApproximations :
    IssuesLane base x0 shApprox none [] [1, 2] ∧ IssuesLane base x0 shFcmp none [] [1, 2] ∧
    (IssuesLane base x0 shCvt none [] [1, 2] ∧ (0 : BitVec 3).toNat % 1 = 0) ∧
    (IssuesLane (converting 0 1) x0 shCvt none [] [1, 2] ∧ (1 : BitVec 3).toNat + 32 / max 16 32 ≤ 32 / 16 ∧
      fmtWidth 1 = 16 ∧ fmtWidth 0 = 32) ∧
    (IssuesLane (converting 1 0) x0 shCvt none [] [1, 2] ∧ (1 : BitVec 3).toNat + 32 / max 32 16 ≤ 32 / 16) :=
  ⟨base_lane _ _ _, base_lane _ _ _, ⟨base_lane _ _ _, by decide⟩, ⟨converting_lane 0 1 (by decide), by decide⟩,
    converting_lane 1 0 (by decide), by decide⟩

theorem witness_CrossLane :
    IssuesLane base x0 shMatch none [] [1, 2] ∧ IssuesLane base x0 shWhile none [] [1, 2] ∧
    IssuesLane base x0 shSum none [] [1, 2] ∧ IssuesLane base x0 shExt none [] [1, 2] ∧ IssuesLane base x0 shFsum none [] [1, 2] ∧
    IssuesLane base x0 shBare none [] [1, 2] ∧ IssuesLane base x0 shBare none [] [1, 2, 3] ∧
    IssuesLane base x0 shBare (some 0) [] [1, 2] ∧ (some (0 : Word32)).getD 0 = 0 ∧
    (base.grp x0).active 0 = List.range 32 :=
  ⟨base_lane _ _ _, base_lane _ _ _, base_lane _ _ _, base_lane _ _ _, base_lane _ _ _, base_lane _ _ _, base_lane _ _ _,
    stage_lane _ _ _ _ rfl rfl (by decide) rfl rfl rfl rfl (by decide) (by decide), by decide, by decide⟩

/-! ## Witnesses: memory -/

/-- x1 of the split is v, and x2 is w. -/
def regs (p : Split) (k : Core) (v w : Word64) : State := stage mapped p { g64 with y := [(1, v), (2, w)] } k

theorem regs_x1 (p : Split) (k : Core) (v w : Word64) : (regs p k v w).x x0 1 = v := rfl

/-- An AMO of x1's word is outstanding. -/
def amoOut : Core :=
  { ops := [{ id := 1, slot := 0, who := 1, load := true, store := true, accs := [{ addr := 0xFF8, what := .atom 0 0 0 }] }] }

/-- Every store counter of the split is full. -/
def fullCore : Core := { ops := List.replicate 255 { id := 1, slot := 0, who := 1, load := true, store := true } }

theorem witness_Homes :
    ((2 : Nat) < 3 ∧ (0x1FFF : Word64).extractLsb' 12 36 = (0x1000 : Word64).extractLsb' 12 36) ∧
    (let s : State := { mapped with tracked := [(0, true)] }
     Map.getD false s.tracked (4095 / 4096) = true ∧ s.memWf) := by
  refine ⟨by decide, by decide, ?_⟩
  unfold State.memWf; decide

/-- The last doubleword of a page in U-mode and in S-mode. -/
theorem reaches_u (k : Kind) (p : Bool) (hk : k = .read ∨ k = .write) (c : Core) (hc : c = {} ∨ c = amoOut) : (regs pU c 0xFF8 0).Reaches x0 0xFF8 8 k p (.hbm 0xFF8) := by
  refine ⟨by decide, by decide, ?_⟩
  rcases hk with rfl | rfl <;> rcases hc with rfl | rfl <;> cases p <;> decide

theorem reaches_u4 (k : Kind) (p : Bool) (hk : k = .read ∨ k = .write) (c : Core) (hc : c = {} ∨ c = amoOut) : (regs pU c 0xFF8 0).Reaches x0 0xFF8 4 k p (.hbm 0xFF8) := by
  refine ⟨by decide, by decide, ?_⟩
  rcases hk with rfl | rfl <;> rcases hc with rfl | rfl <;> cases p <;> decide

theorem reaches_s (k : Kind) (p : Bool) (hk : k = .read ∨ k = .write) (c : Core) (hc : c = {} ∨ c = amoOut) : (regs pS c 0x9FF8 0).Reaches x0 0x9FF8 8 k p (.hbm 0x9FF8) := by
  refine ⟨by decide, by decide, ?_⟩
  rcases hk with rfl | rfl <;> rcases hc with rfl | rfl <;> cases p <;> decide

theorem unmapped_s (k : Kind) (p : Bool) (hk : k = .read ∨ k = .write) (c : Core) (hc : c = {} ∨ c = amoOut) : (regs pS c 0x5000 0).Unmapped x0 0x5000 8 k p := by
  refine ⟨by show Mode.s ≠ Mode.u; decide, .inl ⟨by decide, by decide, ?_⟩⟩
  · rcases hk with rfl | rfl <;> rcases hc with rfl | rfl <;> cases p <;> decide

theorem unleased_u (k : Kind) (p : Bool) (hk : k = .read ∨ k = .write) : (regs pU {} 0x10000 0).Unleased x0 0x10000 8 k p := by
  refine ⟨rfl, .inr ⟨by decide, ?_⟩⟩
  rcases hk with rfl | rfl <;> cases p <;> decide

theorem misaligned_u : (regs pU {} 0xFF9 0).Misaligned x0 0xFF9 2 ∧ (regs pU {} 0xFF9 0).Misaligned x0 0xFF9 4 ∧
    (regs pU {} 0xFF9 0).Misaligned x0 0xFF9 8 :=
  ⟨⟨by decide, by decide⟩, ⟨by decide, by decide⟩, by decide, by decide⟩

theorem regs_mem (p : Split) (k : Core) (v w : Word64) (xs : List (BitVec 5)) (hp : p.pend = []) (hf : p.format = none)
    (hh : p.fenceHeld = false := by rfl) : IssuesMem (regs p k v w) x0 xs := ⟨stage_issues _ hp hf, (by intro f h; cases h), hh⟩

theorem regs_issues (p : Split) (k : Core) (v w : Word64) (xs : List (BitVec 5)) (hp : p.pend = []) (hf : p.format = none) :
    Issues (regs p k v w) x0 xs := stage_issues _ hp hf

/-- The load walks, or finds its line in the hart data cache of core 0. -/
theorem witness_HartPlaces :
    ((regs pU {} 0xFF8 0).cached x0 0xFF8 .read = none ∧ ((regs pU {} 0xFF8 0).spl x0).mode = .u) ∧
    ((regs pS {} 0x9FF8 0).cached x0 0x9FF8 .write = none ∧ ((regs pS {} 0x9FF8 0).spl x0).mode ≠ .u ∧
      (regs pS {} 0x9FF8 0).translate 0 0x9FF8 .read .s false false = .ok (.hbm 0x9FF8) 0) ∧
    ({ regs pS {} 0x9FF8 0 with dcache := [(dcacheKey 0 0 0x9FF8, (0x9FC0, 0x24CF, true))] } : State).cached x0 0x9FF8 .write ≠ none ∧
    (regs pS {} 0x5000 0).translate 0 0x5000 .read .s false false = .fail := by decide

/-- An HBM error that the next data access of the split meets. -/
def aFlaw : Flaw := { core := 0, slot := 0, struct := 1, pass := true }

theorem witness_HartLoads :
    (IssuesMem (regs pU {} 0xFF8 0) x0 [3, 1] ∧ (regs pU {} 0xFF8 0).x x0 1 + (0 : BitVec 12).signExtend 64 = 0xFF8 ∧
      (regs pU {} 0xFF8 0).Reaches x0 0xFF8 8 .read true (.hbm 0xFF8) ∧ (regs pU {} 0xFF8 0).older x0 = [] ∧
      (regs pU {} 0xFF8 0).readBlocked 0 ((regs pU {} 0xFF8 0).older x0) (splitBit 0) (some (Place.hbm 0xFF8).key) 8 = false ∧
      (regs pU {} 0xFF8 0).Undisturbed ∧ (regs pU {} 0xFF8 0).cached x0 0xFF8 .read = none) ∧
    (let s := { regs pU {} 0xFF8 0 with late := [true] }
     s.Reaches x0 0xFF8 8 .read true (.hbm 0xFF8) ∧ s.late.headD false = true ∧ s.flaw = none) ∧
    (let s := { regs pU {} 0xFF8 0 with flaw := some aFlaw }
     s.Reaches x0 0xFF8 8 .read true (.hbm 0xFF8) ∧ s.flawAt x0 (.hbm 0xFF8) false = some aFlaw) ∧
    (IssuesMem (regs pU amoOut 0xFF8 0) x0 [3, 1] ∧ (regs pU amoOut 0xFF8 0).Reaches x0 0xFF8 8 .read true (.hbm 0xFF8) ∧
      (regs pU amoOut 0xFF8 0).readBlocked 0 ((regs pU amoOut 0xFF8 0).older x0) (splitBit 0) (some (Place.hbm 0xFF8).key) 8
        = true) ∧
    (IssuesMem (regs pS {} 0x9FF8 0) x0 [3, 1] ∧ (regs pS {} 0x9FF8 0).Reaches x0 0x9FF8 8 .read true (.hbm 0x9FF8)) ∧
    (IssuesMem (regs pU {} 0xFF9 0) x0 [3, 1] ∧ (regs pU {} 0xFF9 0).Misaligned x0 0xFF9 8) ∧
    (IssuesMem (regs pS {} 0x5000 0) x0 [3, 1] ∧ (regs pS {} 0x5000 0).Unmapped x0 0x5000 8 .read true) ∧
    (IssuesMem (regs pU {} 0x10000 0) x0 [3, 1] ∧ (regs pU {} 0x10000 0).Unleased x0 0x10000 8 .read true) ∧
    (IssuesMem (regs pS {} 0xFFFFFF0000000000 0) x0 [3, 1] ∧ (regs pS {} 0xFFFFFF0000000000 0).dataMode x0 ≠ .u ∧
      inWindow 0xFFFFFF0000000000 = true) :=
  ⟨⟨regs_mem _ _ _ _ _ rfl rfl, by decide, reaches_u _ _ (.inl rfl) _ (.inl rfl), rfl, rfl, ⟨rfl, rfl⟩, by decide⟩,
    ⟨⟨by decide, by decide, by decide⟩, rfl, rfl⟩, ⟨⟨by decide, by decide, by decide⟩, by decide⟩,
    ⟨regs_mem _ _ _ _ _ rfl rfl, reaches_u _ _ (.inl rfl) _ (.inr rfl), by decide⟩,
    ⟨regs_mem _ _ _ _ _ rfl rfl, reaches_s _ _ (.inl rfl) _ (.inl rfl)⟩, ⟨regs_mem _ _ _ _ _ rfl rfl, misaligned_u.2.2⟩,
    ⟨regs_mem _ _ _ _ _ rfl rfl, unmapped_s _ _ (.inl rfl) _ (.inl rfl)⟩, ⟨regs_mem _ _ _ _ _ rfl rfl, unleased_u _ _ (.inl rfl)⟩,
    regs_mem _ _ _ _ _ rfl rfl, by decide⟩

theorem full_room (w : Word64) : (regs pU fullCore 0xFF8 w).roomFor x0 false true = false := by
  show (true && decide (fullCore.storeCount 0 0 < 255)) = false
  decide

theorem witness_HartLoadsAndStores :
    (IssuesMem (regs pU {} 0xFF8 7) x0 [1, 2] ∧ ((regs pU {} 0xFF8 7).spl x0).mode = .u ∧ (0xFF8 : Word64).toNat % 8 = 0 ∧
      (regs pU {} 0xFF8 7).roomFor x0 false true = true) ∧
    (IssuesMem (regs pU fullCore 0xFF8 7) x0 [1, 2] ∧ (regs pU fullCore 0xFF8 7).roomFor x0 false true = false) ∧
    (IssuesMem (regs pS {} 0x9FF8 0) x0 [1, 2] ∧ ((regs pS {} 0x9FF8 0).spl x0).mode ≠ .u ∧
      (regs pS {} 0x9FF8 0).Reaches x0 0x9FF8 8 .write true (.hbm 0x9FF8)) ∧
    (IssuesMem (regs pU {} 0xFF9 0) x0 [1, 2] ∧ (regs pU {} 0xFF9 0).Misaligned x0 0xFF9 2) ∧
    (IssuesMem (regs pS {} 0x5000 0) x0 [1, 2] ∧ (regs pS {} 0x5000 0).Unmapped x0 0x5000 8 .write true) ∧
    (IssuesMem (regs pS {} 0xFFFFFF0009FFFFF8 0) x0 [1, 2] ∧ (regs pS {} 0xFFFFFF0009FFFFF8 0).dataMode x0 ≠ .u ∧
      inWindow 0xFFFFFF0009FFFFF8 = true ∧ (4 : Nat) < 8) :=
  ⟨⟨regs_mem _ _ _ _ _ rfl rfl, by decide⟩, ⟨regs_mem _ _ _ _ _ rfl rfl, full_room _⟩,
    ⟨regs_mem _ _ _ _ _ rfl rfl, by decide, reaches_s _ _ (.inr rfl) _ (.inl rfl)⟩, ⟨regs_mem _ _ _ _ _ rfl rfl, misaligned_u.1⟩,
    ⟨regs_mem _ _ _ _ _ rfl rfl, unmapped_s _ _ (.inr rfl) _ (.inl rfl)⟩, regs_mem _ _ _ _ _ rfl rfl, by decide⟩

/-- The split holds the reservation of its line, and another split holds it too. -/
def reserved : State := { regs pU {} 0xFF8 0 with resvs := [(0xFF8 / 64, 0, 0, 0), (0xFF8 / 64, 1, 0, 0)] }

theorem witness_HartAtomics :
    (IssuesMem (regs pU {} 0xFF8 5) x0 [3, 1, 2] ∧ (regs pU {} 0xFF8 0).Reaches x0 0xFF8 8 .write false (.hbm 0xFF8) ∧
      (regs pU {} 0xFF8 0).Reaches x0 0xFF8 4 .write false (.hbm 0xFF8) ∧
      (regs pU {} 0xFF8 0).mustWait x0 0xFF8 8 (.hbm 0xFF8) 1 1 = false ∧ (regs pU {} 0xFF8 0).roomFor x0 false true = true ∧
      (regs pU {} 0xFF8 0).flaw = none) ∧
    (IssuesMem (regs pU amoOut 0xFF8 0) x0 [3, 1, 2] ∧ (regs pU amoOut 0xFF8 0).Reaches x0 0xFF8 8 .write false (.hbm 0xFF8) ∧
      (regs pU amoOut 0xFF8 0).mustWait x0 0xFF8 8 (.hbm 0xFF8) 0 0 = true) ∧
    (IssuesMem (regs pU fullCore 0xFF8 0) x0 [3, 1, 2] ∧ (regs pU fullCore 0xFF8 0).roomFor x0 false true = false) ∧
    (IssuesMem (regs pU {} 0xFF9 0) x0 [3, 1, 2] ∧ (regs pU {} 0xFF9 0).Misaligned x0 0xFF9 4) ∧
    (IssuesMem (regs pS {} 0x5000 0) x0 [3, 1, 2] ∧ (regs pS {} 0x5000 0).Unmapped x0 0x5000 8 .write false) ∧
    (IssuesMem (regs pU {} 0x10000 0) x0 [3, 1, 2] ∧ (regs pU {} 0x10000 0).Unleased x0 0x10000 8 .write false) ∧
    (IssuesMem reserved x0 [3, 1, 2] ∧ (0xFF8 / 64, 0, 0, 0) ∈ reserved.resvs) :=
  ⟨⟨regs_mem _ _ _ _ _ rfl rfl, reaches_u _ _ (.inr rfl) _ (.inl rfl), reaches_u4 _ _ (.inr rfl) _ (.inl rfl), by decide, rfl, rfl⟩,
    ⟨regs_mem _ _ _ _ _ rfl rfl, reaches_u _ _ (.inr rfl) _ (.inr rfl), by decide⟩, ⟨regs_mem _ _ _ _ _ rfl rfl, full_room _⟩,
    ⟨regs_mem _ _ _ _ _ rfl rfl, misaligned_u.2.1⟩, ⟨regs_mem _ _ _ _ _ rfl rfl, unmapped_s _ _ (.inr rfl) _ (.inl rfl)⟩,
    ⟨regs_mem _ _ _ _ _ rfl rfl, unleased_u _ _ (.inr rfl)⟩,
    ⟨⟨⟨rfl, rfl, by intro q h; cases h⟩, (by intro f h; cases h), by rfl⟩, by decide⟩⟩

theorem regs_dev (p : Split) (k : Core) (v w : Word64) (xs : List (BitVec 5)) (vs : List (BitVec 6)) (hp : p.pend = [])
    (hf : p.format = none) (hm : p.mode ≠ .m) (hk : k.ops = [])
    (hh : p.fenceHeld = false := by rfl) : IssuesDev (regs p k v w) x0 xs vs := stage_dev xs vs hp hf hm rfl rfl hk rfl hh

theorem regs_eng (k : Core) (v w : Word64) (cls : Nat) (xs : List (BitVec 5)) (hk : k.ops = []) :
    IssuesEng (regs pU k v w) x0 cls xs := stage_eng cls xs rfl rfl (by decide) rfl rfl hk rfl rfl

/-- Lane 31 alone is active; x1 is an address, and v2 is an offset. -/
def lane31 (md : Mode) (a : Word64) (v : Word32) (s : State) : State :=
  stage s { pU with mode := md, m0 := 0x80000000 } { g64 with y := [(1, a)], v := [(2 * 32 + 31, v)] } {}

theorem lane31_dev (md : Mode) (hm : md ≠ .m) (a : Word64) (v : Word32) (s : State) (hs : s.flights = []) (xs : List (BitVec 5))
    (vs : List (BitVec 6)) : IssuesDev (lane31 md a v s) x0 xs vs := stage_dev xs vs rfl rfl hm rfl rfl rfl hs

theorem lane31_lane (md : Mode) (hm : md ≠ .m) (a : Word64) (v : Word32) (s : State) (hs : s.flights = []) (xs : List (BitVec 5))
    (vs : List (BitVec 6)) : IssuesLane (lane31 md a v s) x0 shMatch none xs vs :=
  stage_lane shMatch none xs vs rfl rfl hm rfl rfl rfl hs rfl (by intro v h; cases h)

/-- The addresses of an access of n bytes at x1 plus the offsets in v2, in a space. -/
def offs (md : Mode) (a : Word64) (v : Word32) (s : State) (space : BitVec 2) : List LaneAddr :=
  (lane31 md a v s).laneAddrs x0 space (fun l => a + (((lane31 md a v s).grp x0).v32 2 l).signExtend 64)

/-- Scratchpad line 1 of core 0 awaits a copy. -/
def awaited : State := { mapped with lineP := [(1, 1)] }

theorem witness_LaneMemory_traps :
    (IssuesDev (lane31 .u 0xFF9 0 mapped) x0 [1] [4, 2] ∧
      (offs .u 0xFF9 0 mapped 0).find? (fun a => a.2.extractLsb' 0 2 ≠ 0#2) = some (31, 0xFF9)) ∧
    (IssuesDev (lane31 .u 64 0 awaited) x0 [1] [4, 2] ∧
      (offs .u 64 0 awaited 1).find? (fun a => a.2.extractLsb' 0 2 ≠ 0#2) = none ∧
      (lane31 .u 64 0 awaited).absentLines 1 4 (offs .u 64 0 awaited 1) ≠ [] ∧ Ungated (lane31 .u 64 0 awaited) x0) :=
  ⟨⟨lane31_dev .u (by decide) _ _ _ rfl _ _, by decide⟩, lane31_dev .u (by decide) _ _ _ rfl _ _, by decide, by decide,
    stage_ungated rfl⟩

/-- One lane beyond the local window; a weight offset of a job without a region. -/
theorem witness_LaneMemory_beyond :
    (IssuesDev (lane31 .u 0x8000 0 awaited) x0 [1] [4, 2] ∧ Ungated (lane31 .u 0x8000 0 awaited) x0 ∧
      (lane31 .u 0x8000 0 awaited).absentLines 1 4 (offs .u 0x8000 0 awaited 1) = [] ∧
      (offs .u 0x8000 0 awaited 1).find? (fun a => (((lane31 .u 0x8000 0 awaited).unit 1).localByte a.2.toNat).isNone) =
        some (31, 0x8000) ∧
      (lane31 .u 0x8000 0 awaited).roomFor x0 true false = true) ∧
    (IssuesDev (lane31 .u 0x8000 0 awaited) x0 [1] [4, 2] ∧ (lane31 .u 0x8000 0 awaited).weightByte 0 0 0x8000 = none) :=
  ⟨⟨lane31_dev .u (by decide) _ _ _ rfl _ _, stage_ungated rfl, by decide, by decide, by decide⟩,
    lane31_dev .u (by decide) _ _ _ rfl _ _, by decide⟩

theorem global_within {s : State} {x : Ctx} {n : Nat} {st : Bool} (a : Nat) (space : BitVec 2) (h : space = 0 := by rfl) :
    s.Within x space n st a := by
  subst h
  exact ⟨fun h => absurd h (by decide), fun h => absurd h (by decide)⟩

/-- An 8-byte access at the last doubleword of a page in U-mode and in S-mode, one of scratchpad lines that are present, and an access
of 4 bytes of no lane to the weight store in S-mode; a full core. -/
theorem witness_LaneMemory :
    (IssuesDev (lane31 .u 0xFF8 0 mapped) x0 [1] [62, 2, 63] ∧ (62 : BitVec 6) ≠ 63 ∧
      LanesReach (lane31 .u 0xFF8 0 mapped) x0 0 8 true (offs .u 0xFF8 0 mapped 0) ∧
      (lane31 .u 0xFF8 0 mapped).roomFor x0 true false = true) ∧
    (IssuesLane (lane31 .s 0x9000 0xFF8 mapped) x0 shMatch none [1] [4, 2] ∧
      LanesReach (lane31 .s 0x9000 0xFF8 mapped) x0 0 4 true (offs .s 0x9000 0xFF8 mapped 0)) ∧
    (IssuesLane (lane31 .u 0x7FFC 0 awaited) x0 shMatch none [1] [4, 2, 5] ∧ Ungated (lane31 .u 0x7FFC 0 awaited) x0 ∧
      LanesReach (lane31 .u 0x7FFC 0 awaited) x0 1 4 true (offs .u 0x7FFC 0 awaited 1)) ∧
    (IssuesDev (stage mapped { pS with m0 := 0 } g64 {}) x0 [1] [4, 2] ∧
      LanesReach (stage mapped { pS with m0 := 0 } g64 {}) x0 2 4 true []) ∧
    (IssuesDev (regs pU {} 0x1000 2) x0 [3, 1, 2] [] ∧ ClauseTakes (regs pU {} 0x1000 2) x0 2 ∧
      (0x1000 : Word64).extractLsb' 0 12 = 0#12 ∧ (regs pU {} 0x1000 2).roomFor x0 false true = true) ∧
    (IssuesDev (regs pU {} 0x1001 2) x0 [3, 1, 2] [] ∧ (0x1001 : Word64).extractLsb' 0 12 ≠ 0#12) := by
  refine ⟨⟨lane31_dev .u (by decide) _ _ _ rfl _ _, by decide, ⟨by decide, by decide, ?_, fun _ _ => global_within _ 0⟩, by decide⟩,
    ⟨lane31_lane .s (by decide) _ _ _ rfl _ _, ⟨by decide, by decide, ?_, fun _ _ => global_within _ 0⟩⟩,
    ⟨lane31_lane .u (by decide) _ _ _ rfl _ _, stage_ungated rfl,
      ⟨by decide, by decide, fun h => absurd h (by decide), fun a ha => ?_⟩⟩,
    ⟨stage_dev _ _ rfl rfl (by decide) rfl rfl rfl rfl, ⟨by decide, by decide, ?_, fun _ h => by cases h⟩⟩,
    ⟨regs_dev _ _ _ _ _ _ rfl rfl (by decide) rfl, .inl rfl, by decide⟩, regs_dev _ _ _ _ _ _ rfl rfl (by decide) rfl, by decide⟩
  · intro _ h; exact absurd rfl h
  · intro _ _ a ha
    rcases List.mem_singleton.1 (show a ∈ [((31 : Nat), (0x9FF8 : Word64))] from ha) with rfl
    exact ⟨by decide, .hbm 0x9FF8, 0, by decide⟩
  · rcases List.mem_singleton.1 (show a ∈ [((31 : Nat), (0x7FFC : Word64))] from ha) with rfl
    exact ⟨fun _ => ⟨0x7FFC, 0x7FFF, by decide, by decide⟩, fun h => absurd h (by decide)⟩
  · intro _ _ a ha; cases ha

/-- A store of the U-mode split to 0xFF8, a load that has its value, and an access outside every lease. -/
def memOp (w : AccWhat) (a : Word64) : Op :=
  { id := 7, slot := 0, who := 1, unit := 1, load := w = .read, store := w ≠ .read, accs := [{ addr := a, what := w }] }
def memState (w : AccWhat) (a : Word64) : State := stage mapped pU g64 { ops := [memOp w a] }
def loaded : Op := { id := 7, slot := 0, who := 1, load := true, accs := [{ lane := 31, val := some 9, done := true }] }

theorem witness_MemoryEvents :
    (((memState (.write [1, 2, 3, 4]) 0xFF8).core 0).op 7 = some (memOp (.write [1, 2, 3, 4]) 0xFF8) ∧
      (memState (.write [1, 2, 3, 4]) 0xFF8).target 0 (memOp (.write [1, 2, 3, 4]) 0xFF8)
        { addr := 0xFF8, what := .write [1, 2, 3, 4] } = .place (.hbm 0xFF8) 0 ∧
      (memState (.write [1, 2, 3, 4]) 0xFF8).atHome (memOp (.write [1, 2, 3, 4]) 0xFF8)
        { addr := 0xFF8, what := .write [1, 2, 3, 4] } false = memState (.write [1, 2, 3, 4]) 0xFF8 ∧
      (memState (.write [1, 2, 3, 4]) 0xFF8).mayWrite 0 (((memState (.write [1, 2, 3, 4]) 0xFF8).core 0).before
        (memOp (.write [1, 2, 3, 4]) 0xFF8)) (memOp (.write [1, 2, 3, 4]) 0xFF8) 0 = true) ∧
    (let s : State := { memState .read 0x40 with pins := [(0, (0x20000000000000DF, 0))] }
     (s.core 0).op 7 = some (memOp .read 0x40) ∧ s.target 0 (memOp .read 0x40) { addr := 0x40 } = .place (.hbm 0x40) 1 ∧
      s.atHome (memOp .read 0x40) { addr := 0x40 } false = s ∧
      s.readBlocked 0 ((s.core 0).before (memOp .read 0x40)) (memOp .read 0x40).agent (s.accKey (memOp .read 0x40) { addr := 0x40 }) 4 = false) ∧
    ((memState .read 0x10000).target 0 (memOp .read 0x10000) { addr := 0x10000 } = .lease ∧
      ((memState .read 0x10000).unit 1).ended = false) ∧
    (let o : Op := { memOp (.write [1]) 0 with accs := [{ what := .write [1], done := true }] }
     o.store = true ∧ ∀ a ∈ o.accs, a.space = 0 ∧ (a.done = true ∨ a.what = .read)) ∧
    (let s := stage mapped pU g64 { ops := [loaded] }
     (s.core 0).op 7 = some loaded ∧ loaded.who ≠ 0 ∧ s.group 0 0 = some (s.grp x0)) ∧
    (let s := stage mapped { pS with sfence := some false } g64 {}
     s.group 0 0 = some (s.grp x0) ∧ ((s.grp x0).split 0).sfence = some false) := by decide

theorem witness_BarrierObjectUpdates : (2 ^ 112 + 2 ^ 64 * 5 + 2 ^ 32 * 1 + 64 < 2 ^ 128) ∧
    ((64 % 2 ^ 32 ≤ 64 ∧ 1 ≤ 1 ∧ (0 < 64 ∨ 0 < 1)) ∧ ¬ (64 ≤ 63)) := by decide

/-- A request of 4 bytes from global 0 to local 0x100 stands at local a. -/def copying (n q a : Nat) : State :=
  stage { mapped with scratch := [(a + 9, 1), (a + 16, 4), (a + 18, 1), (a + 20, 4)] } pU
    { g64 with y := [(1, BitVec.ofNat 64 a), (2, BitVec.ofNat 64 (n + 256 * q))] } {}

theorem copying_eng (n q a : Nat) (xs : List (BitVec 5)) : IssuesEng (copying n q a) x0 2 xs :=
  stage_eng 2 xs rfl rfl (by decide) rfl rfl rfl rfl rfl

/-- One request at the start of the window and one at its end, a count of 0, a reserved queue and a misaligned address. -/
theorem witness_CopiesAndFences_copy :
    (∀ a : Nat, a = 0 ∨ a = 32736 →
      IssuesEng (copying 1 3 a) x0 2 [1, 2] ∧ ((copying 1 3 a).x x0 1).toNat % 2 ^ 32 = a ∧
      (unit1.localByte a).isSome = true ∧ (unit1.localByte (a + 31)).isSome = true ∧ (copying 1 3 a).linePresent (a / 64) = true ∧
      ((copying 1 3 a).core 0).storesDone 0 = true ∧ ((copying 1 3 a).core 0).copyCount 0 0 + 1 ≤ 255 ∧
      ((copying 1 3 a).core 0).entries 3 + 1 ≤ 64 ∧
      ∀ l ∈ rqLocal unit1 (BitVec.ofNat 256 (leValue ((copying 1 3 a).scratch.bytes a 32))),
        Map.getD 0 (copying 1 3 a).lineP l + 1 ≤ 7) ∧
    (IssuesEng (copying 0 0 0) x0 2 [1, 2] ∧ ((copying 0 0 0).x x0 2).extractLsb' 0 7 = 0#7) ∧
    (IssuesEng (copying 1 4 0) x0 2 [1, 2] ∧ ((copying 1 4 0).x x0 2).extractLsb' 8 3 = 4#3) ∧
    (IssuesEng (copying 1 0 33) x0 2 [1, 2] ∧ 33 % 32 ≠ 0) := by
  refine ⟨?_, ⟨copying_eng _ _ _ _, by decide⟩, ⟨copying_eng _ _ _ _, by decide⟩, copying_eng _ _ _ _, by decide⟩
  rintro a (rfl | rfl)
  · exact ⟨copying_eng _ _ _ _, by decide⟩
  · exact ⟨copying_eng _ _ _ _, by decide⟩

theorem witness_CopiesAndFences :
    (IssuesDev base x0 [] [] ∧ (base.core 0).loadCount 0 0 = 0 ∧ (base.core 0).storeCount 0 0 = 0) ∧
    (∀ h : Bool, ∃ s x, IssuesDev s x [] [] ∧ x.handler = h ∧ (s.core 0).storeCount x.sl 0 ≠ 0) ∧ (2 : BitVec 2) ≠ 3 := by
  refine ⟨⟨base_dev _ _, by decide⟩, ?_, by decide⟩
  intro h
  cases h
  · refine ⟨stage mapped pU g64 storing, x0, ⟨⟨rfl, rfl, by intro q h; cases h⟩, by decide, (by intro v h; cases h), .inl (by decide),
      (by intro f h; cases h), by rfl⟩, by decide⟩
  · refine ⟨stageIn 4 mapped pU { vregs := 16 } { ops := [{ id := 1, slot := 4, who := 1, store := true }] }, xh,
      ⟨⟨rfl, rfl, by intro q h; cases h⟩, by decide, (by intro v h; cases h), .inl (by decide), (by intro f h; cases h), by rfl⟩, by decide⟩

/-! ## Witnesses: copies and barriers -/

/-- The phase of the object at o is p, and of unit barrier 0 too. -/
def barred (o : Nat) (v : Word64) (p : Split) (k : Core) : State := { regs p k (BitVec.ofNat 64 o) v with
  units := [(1, { unit1 with bars := [(0, { phase := 0 })] })] }

theorem barred_eng (o : Nat) (v : Word64) (k : Core) (hk : k.ops = []) (xs : List (BitVec 5)) :
    IssuesEng (barred o v pU k) x0 2 xs := stage_eng (s := mapped) (g := { g64 with y := [(1, BitVec.ofNat 64 o), (2, v)] }) 2 xs rfl
      rfl (by decide) rfl rfl hk rfl rfl |> fun h => ⟨⟨⟨rfl, rfl, by intro q h; cases h⟩, h.mode, h.regs, by
        refine ⟨.inl (by rfl), (by intro f h; cases h), by rfl⟩⟩, h.gate, h.clause⟩

/-- The last object of the window, and one outside alignment; its phase equal to the operand and not. -/
theorem witness_Barriers_objects :
    (IssuesEng (barred 32752 0 pU {}) x0 2 [3, 1, 2] ∧ 32752 % 16 = 0 ∧ ((barred 32752 0 pU {}).own x0).objByte 32752 = some 32752 ∧
      (barred 32752 0 pU {}).roomFor x0 false true = true ∧ ((barred 32752 0 pU {}).core 0).released 0 0 = true ∧
      ((barred 32752 0 pU {}).core 0).storesDone 0 = true ∧ (barred 32752 0 pU {}).objPhase 32752 = (0 : Word64).extractLsb' 0 16) ∧
    (IssuesEng (barred 32752 1 pU {}) x0 2 [3, 1, 2] ∧ (barred 32752 1 pU {}).objPhase 32752 ≠ (1 : Word64).extractLsb' 0 16) ∧
    (IssuesEng (barred 8 0 pU {}) x0 2 [3, 1, 2] ∧ 8 % 16 ≠ 0) ∧
    (IssuesEng (barred 32767 1 pU {}) x0 2 [3, 1, 2] ∧ 32767 < 32768 ∧ 32767 + min (1 : Word64).toNat 32768 ≤ 32768) :=
  ⟨⟨barred_eng _ _ _ rfl _, by decide⟩, ⟨barred_eng _ _ _ rfl _, by decide⟩, ⟨barred_eng _ _ _ rfl _, by decide⟩,
    barred_eng _ _ _ rfl _, by decide⟩

/-- The only participant, which completes the phase; one of two, which does not; a participant that has arrived. -/
theorem witness_Barriers :
    (IssuesEng (barred 0 0 pU {}) x0 2 [3, 1, 2] ∧ x0.handler = false ∧ ((barred 0 0 pU {}).grp x0).recruit = none ∧
      ((barred 0 0 pU {}).spl x0).arrived = none ∧ ((barred 0 0 pU {}).spl x0).marks.getLsbD 0 = false ∧
      0 ∈ ((barred 0 0 pU {}).own x0).cores ∧ (barred 0 0 pU {}).group 0 0 = some ((barred 0 0 pU {}).grp x0) ∧
      ((barred 0 0 pU {}).arrive x0 0).barPhase x0 0 ≠ (barred 0 0 pU {}).barPhase x0 0 ∧
      (barred 0 0 pU {}).barPhase x0 0 = (0 : Word64).extractLsb' 0 16 ∧ ((barred 0 0 pU {}).core 0).released 0 0 = true) ∧
    (IssuesEng (barred 0 1 pU {}) x0 2 [3, 1, 2] ∧ (barred 0 1 pU {}).barPhase x0 0 ≠ (1 : Word64).extractLsb' 0 16) ∧
    (let s : State := { barred 0 0 pU {} with cores := [(0, { issuing := some (0, 0), slots := [
        (0, { group := some { g64 with unit := 1, splits := [(0, pU)] } }), (1, { group := some { g64 with unit := 1, index := 1, splits := [(0, pU)] } })] })]
                                              units := [(1, { unit1 with slots := [0, 1], ngroups := 2, bars := [(0, {})] })] }
     s.current = some x0 ∧ (s.arrive x0 0).barPhase x0 0 = s.barPhase x0 0) ∧
    (let s := barred 0 0 { pU with marks := 1 } {}
     s.current = some x0 ∧ (s.spl x0).marks.getLsbD 0 = true) :=
  ⟨⟨barred_eng _ _ _ rfl _, by decide⟩, ⟨barred_eng _ _ _ rfl _, by decide⟩, by decide, by decide⟩

/-- A request of 4 bytes from local 0 to global 0x40 with no barrier object; the same with the object at local 0. -/
def put4 : BitVec 256 := 0x40 <<< 64 ||| 4 <<< 128 ||| 1 <<< 144 ||| 1 <<< 160 ||| 1 <<< 169
def put4bar : BitVec 256 := 0x40 <<< 64 ||| 4 <<< 128 ||| 1 <<< 144 ||| 1 <<< 160 ||| 1 <<< 168

def putting (raw : BitVec 256) (fetched : Bool) (landed : List Nat) : Entry :=
  { id := 9, slot := 0, who := 1, mode := .u, asid := 0, unit := 1, raw := raw, fetched := fetched, landed := landed }

def queued (e : Entry) : State := stage mapped pU g64 { queues := [(3, [.entry e])] }

theorem witness_CopyEvents_requests :
    (((queued (putting put4 false [])).core 0).queue 3 = .entry (putting put4 false []) :: [] ∧ rqKind put4 ≠ 1 ∧
      ((queued (putting put4 false [])).core 0).queueFrozen 3 = false ∧ ((queued (putting put4 false [])).unit 1).saving = false) ∧
    (((queued (putting put4 true [])).core 0).headEntry 3 = some (putting put4 true []) ∧ (putting put4 true []).err = false) ∧
    (((queued (putting put4 true [1])).core 0).headEntry 3 = some (putting put4 true [1]) ∧ rqNobar put4 = true ∧
      ∀ l ∈ rqLines unit1 put4, l ∈ [1]) ∧
    (rqNobar put4bar = false ∧ (∀ l ∈ rqLines unit1 put4bar, l ∈ [1]) ∧ unit1.objByte (rqBar put4bar) = some 0) := by decide

/-- Barrier 0 of a unit of two participants has one arrival. -/
def watched : State := { State.reset with
  units := [(1, { unit1 with slots := [0, 1], ngroups := 2, bars := [(0, { running := true })] })]
  cores := [(0, { slots := [(0, { group := some { g64 with unit := 1, splits := [(0, { pU with marks := 1 })] } }),
    (1, { group := some { g64 with unit := 1, index := 1, splits := [(0, pU)] } })] })] }

theorem witness_CopyEvents :
    (((watched.barSync 1).unit 1).ended = false ∧ (((watched.barSync 1).unit 1).bar 0).running = true ∧
      ∃ p ∈ (watched.barSync 1).participants 1, p.2.2.arrivedAt 0 = false) ∧
    (let s := queued (putting put4 true [])
     rqKind put4 = 0 ∧ rqSspace put4 = 1 ∧ rqDspace put4 = 0 ∧ 1 ∉ (putting put4 true []).landed ∧
      lineBytes unit1 put4 1 = [(0, 0, 0), (0, 0, 1), (0, 0, 2), (0, 0, 3)] ∧
      (∀ b ∈ lineBytes unit1 put4 1, (unit1.localByte (spaceAddr 1 (srcRow (putting put4 true []) b.2.1 + b.2.2))).isSome = true) ∧
      (∀ b ∈ lineBytes unit1 put4 1, s.checkU 0 (BitVec.ofNat 64 (dstByte put4 b.1 b.2.1 b.2.2)) true =
        some (.hbm (0x40 + b.2.2), 0))) := by decide

/-! ## Witnesses: the matrix engine -/

/-- Slot 7 is the group's, bank 31 a tile of its unit with its token on the group's side, and the group has the Bellwether. -/
def matrixCore : Core := {
  mslots := [(7, { owner := some 0, unit := 1, tag := 8 })]
  banks := [(31, { state := .f, unit := 1, token := .vector 0 false })]
  bell := some 0 }

/-- INT8 rows of 64 bytes at local 0 for slot 7. -/
def fillCtl7 : Word64 := 0x400147

def filling (fetched : Bool) : Entry :=
  { id := 9, slot := 0, who := 1, mode := .u, asid := 0, unit := 1, raw := fillRaw 0 fillCtl7 7, fetched := fetched }

def fillState (fetched : Bool) : State := stage mapped pU g64 { matrixCore with queues := [(4, [.entry (filling fetched)])] }

/-- Every byte of the fill is in the window. -/
theorem fill_reads (fetched : Bool) (i : Nat) (hi : i < 1024) : ∃ d, (fillState fetched).fillOne 0 (filling fetched) i = .inr d := by
  have h : ∀ i < 1024, ((fillState fetched).fillOne 0 (filling fetched) i).isRight = true := by
    cases fetched <;> decide +kernel
  have := h i hi
  cases hq : (fillState fetched).fillOne 0 (filling fetched) i with
  | inl q => rw [hq] at this; cases this
  | inr d => exact ⟨d, rfl⟩

theorem fill_free : (fillState false).fillBlock 0 (filling false) = none := by decide +kernel

/-- A step and a loop that head the queue. -/
def aStep : Machine.Step := { id := 3, slot := 0, unit := 1, fa := 8, fb := 8, sa := 7, sb := 7, bank := 31, z := true }
def aLoop : LoopRec := { asrc := 0, bsrc := 0, actl := fillCtl7, bctl := fillCtl7, ainc := 0, binc := 0, left := 1,
                         sa0 := 7, sa1 := 7, sb0 := 7, sb1 := 7, cur := some (1, 2) }

theorem witness_MatrixSteps_queue :
    (((fillState false).core 0).queue 4 = .entry (filling false) :: [] ∧ ((fillState false).core 0).queueFrozen 4 = false ∧
      ((fillState false).core 0).holdsFill (filling false) = false ∧ ((fillState false).unit 1).saving = false ∧
      (fillState false).fillBlock 0 (filling false) = none) ∧
    (((fillState true).core 0).headEntry 4 = some (filling true) ∧ ((fillState true).core 0).queueFrozen 4 = false ∧
      (filling true).landed = [] ∧ fillSize (fillCtl (filling true)) = 1024 ∧
      ∀ i, i < 1024 → ∃ d, (fillState true).fillOne 0 (filling true) i = .inr d) :=
  ⟨⟨rfl, rfl, rfl, rfl, fill_free⟩, rfl, rfl, rfl, by decide, fill_reads true⟩

theorem witness_MatrixSteps :
    ((matrixCore.bank 31).state = .f ∧ fmtIsInt 8 = true ∧ fmtWidth 8 = 8 ∧ (8 : BitVec 5) ≠ 5 ∧ fmtIsInt 1 = false ∧ fmtWidth 1 = 16) ∧
    (let s := stage mapped pU g64 { matrixCore with steps := [aStep] }
     (s.core 0).steps = aStep :: [] ∧ aStep.loop = none ∧ (s.core 0).fillsOf 7 = [] ∧ (∀ id ∈ aStep.waits, id ∉ (s.core 0).idsOf [4]) ∧
      (s.unit 1).saving = false) ∧
    (let s := stage mapped pU g64 { matrixCore with steps := [{ aStep with loop := some aLoop }] }
     (s.core 0).steps = { aStep with loop := some aLoop } :: [] ∧ aLoop.cur = some (1, 2) ∧ aLoop.running = false ∧ aLoop.left = 1 ∧
      1 ∉ (s.core 0).idsOf [4] ∧ 2 ∉ (s.core 0).idsOf [4]) ∧
    (let s := stage mapped pU g64 { matrixCore with convs := [{ id := 4, slot := 0, bank := 31, op := 1 }] }
     (s.core 0).convs.find? (fun v => v.bank = (31 : BitVec 5).toNat) = some { id := 4, slot := 0, bank := 31, op := 1 } ∧
      ((s.core 0).bank 31).state = .f) ∧
    (let q : Send := { id := 5, core := 0, slot := 0, unit := 1, bank := 0, held := true, dest := 0, tile := 1, tag := 6,
                       elems := [(1, 2), (3, 4)] }
     let s : State := { stage mapped pU g64 { banks := [(0, { state := .el, unit := 1, token := .engine })],
                                              rtiles := [(1, { unit := some 1, pend := 1, tag := 6 })] } with sends := [q] }
     s.sends.find? (fun t => t.id = 5 && t.core = 0) = some q ∧ q.held = true ∧ ((s.core 0).bank q.bank).state = .el ∧
      s.sends.find? (fun t => t.id = 5) = some q ∧ q.elems = (1, 2) :: [(3, 4)] ∧ ((s.core 0).rtile 1).unit = some q.unit ∧
      ((s.core 0).rtile 1).pend ≠ 0 ∧ ((s.core 0).rtile 1).tag = q.tag ∧ Map.find ((s.core 0).rtile 1).sums 254 = none) := by decide

/-- Two groups of the unit on the core. -/
def pair (v w : Word64) (k : Core) : State := { regs pU k v w with
  cores := [(0, { k with issuing := some (0, 0), slots := [
    (0, { group := some { g64 with unit := 1, splits := [(0, pU)], y := [(1, v), (2, w)] } }),
    (3, { group := some { g64 with unit := 1, index := 1, splits := [(0, pU)] } })] })] }

theorem pair_eng (v w : Word64) (k : Core) (hk : k.ops = []) (cls : Nat) (xs : List (BitVec 5)) : IssuesEng (pair v w k) x0 cls xs :=
  have h := regs_eng {} v w cls xs rfl
  ⟨⟨⟨rfl, rfl, by intro q h; cases h⟩, h.mode, h.regs, .inl (by rfl), (by intro f h; cases h), by rfl⟩, h.gate, h.clause⟩

theorem witness_MatrixSlots_slots :
    (IssuesEng (regs pU {} 8 0) x0 1 [3, 1] ∧ (8 : Word64) ≠ 0 ∧ ((List.range 8).filter (({} : Core).slotFree)).length = 8) ∧
    (IssuesEng (regs pU matrixCore 8 0) x0 1 [3, 1] ∧ ((List.range 8).filter matrixCore.slotFree).length < 8) ∧
    (IssuesEng (regs pU matrixCore 0x80 0) x0 1 [3, 1] ∧ matrixCore.heldSlots 0 0x80 = [7] ∧ matrixCore.loopHolds (slotMask [7]) = false) ∧
    (let k : Core := { matrixCore with steps := [{ aStep with loop := some aLoop }] }
     IssuesEng (regs pU k 0x80 0) x0 1 [3, 1] ∧ k.loopHolds (slotMask (k.heldSlots 0 0x80)) = true) ∧
    (IssuesEng (pair 3 0 matrixCore) x0 1 [3, 1] ∧ matrixCore.bell = some 0 ∧ (pair 3 0 matrixCore).sameUnit x0 3 = true) ∧
    (IssuesEng (regs pU { bell := none } 4 0) x0 1 [3, 1] ∧ ({} : Core).bell = none) ∧
    (IssuesEng (regs pU { bell := some 1 } 4 0) x0 1 [3, 1] ∧ (1 : Nat) ≠ x0.sl) ∧ x0.handler = false :=
  ⟨⟨regs_eng _ _ _ _ _ rfl, by decide⟩, ⟨regs_eng _ _ _ _ _ rfl, by decide⟩, ⟨regs_eng _ _ _ _ _ rfl, by decide⟩,
    ⟨regs_eng _ _ _ _ _ rfl, by decide⟩, ⟨pair_eng _ _ _ rfl _ _, by decide⟩, ⟨regs_eng _ _ _ _ _ rfl, by decide⟩,
    ⟨regs_eng _ _ _ _ _ rfl, by decide⟩, by decide⟩

theorem regs_fmt (k : Core) (v w : Word64) (t : Takes) (cls : Nat) (xs : List (BitVec 5)) (hk : k.ops = []) :
    IssuesFmt (regs pU k v w) x0 t cls xs := stage_fmt t cls xs rfl rfl (by decide) rfl hk rfl rfl

/-- A loop descriptor at local 0: 16 repeats into bank 31 from slots 7 and 7. -/
def looping (k : Core) : State := stage { mapped with scratch := [
    (16, 0x47), (17, 0x01), (18, 0x40), (24, 0x47), (25, 0x01), (26, 0x40), (48, 16), (50, 31), (51, 0x77), (52, 0x77)] } pU g64 k

theorem witness_MatrixSlots :
    (IssuesEng (regs pU matrixCore 0 fillCtl7) x0 1 [1, 2] ∧ ctlOk fillCtl7 0 = true ∧ ctlSlot fillCtl7 = 7 ∧
      matrixCore.holdsSlot 0 7 = true ∧ matrixCore.loopHolds (slotMask [7]) = false ∧ matrixCore.storesDone 0 = true ∧
      matrixCore.entries 4 < 64 ∧ (regs pU matrixCore 0 fillCtl7).tileRoom x0 = true) ∧
    (let a : Nat := 7 + 16 * 7 + 256 * 31
     let s := regs pU matrixCore (BitVec.ofNat 64 a) 0
     IssuesFmt s x0 .matrix 1 [1] ∧ a % 8 = 7 ∧ a / 16 % 8 = 7 ∧ a / 256 % 32 = 31 ∧ matrixCore.owns (s.grp x0) 31 = true ∧
      (matrixCore.bank 31).heldBy 0 = true ∧ matrixCore.bell = some 0 ∧ matrixCore.steps.length < 4 ∧
      fmtPair (matrixCore.mslot 7).tag (matrixCore.mslot 7).tag = true) ∧
    (let k : Core := { matrixCore with steps := [aStep] }
     IssuesFmt (looping k) x0 .matrix 1 [1] ∧ (looping k).own x0 = unit1 ∧
      (let d := leValue ((looping k).scratch.bytes 0 64)
       let st := loopStep { x0 with fmt := none } ((looping k).grp x0) d
       loopOk d = true ∧ (∀ m ∈ st.holds, k.holdsSlot 0 m = true) ∧ fmtPair st.fa st.fb = true ∧ st.bank = 31) ∧
      (looping k).linePresent 0 = true ∧ k.storesDone 0 = true ∧ k.steps ≠ [] ∧ k.steps.length < 4) ∧
    (let s := regs pU matrixCore (BitVec.ofNat 64 (6 + 16 * 7 + 256 * 31)) 0
     IssuesFmt s x0 .matrix 1 [1] ∧ matrixCore.holdsSlot 0 6 = false) :=
  ⟨⟨regs_eng _ _ _ _ _ rfl, by decide⟩, ⟨regs_fmt _ _ _ _ _ _ rfl, by decide⟩,
    ⟨stage_fmt _ _ _ rfl rfl (by decide) rfl rfl rfl rfl, rfl, by decide +kernel, by decide⟩, regs_fmt _ _ _ _ _ _ rfl, by decide⟩

/-- A pair of exact banks, 0 and 1, and a rounded tile in bank 31, all of the group's unit with their tokens on its side. -/
def tiles : Core := { banks := [(0, { state := .el, unit := 1, token := .vector 0 false }),
  (1, { state := .eh, unit := 1, token := .vector 0 false }), (31, { state := .f, unit := 1, token := .vector 0 true })] }

theorem regs_bare (k : Core) (v w : Word64) (xs : List (BitVec 5)) (vs : List (BitVec 6)) (hk : k.ops = []) :
    IssuesLane (regs pU k v w) x0 shBare none xs vs :=
  stage_lane shBare none xs vs rfl rfl (by decide) rfl rfl hk rfl rfl (by intro v h; cases h)

/-- An exact tile of two banks where bank 1 is the lowest fit, a request that fits nowhere, and one that is not asked rightly. -/
theorem witness_MatrixTiles_allocate :
    (let k : Core := { banks := [(0, { state := .f, unit := 2 })] }
     IssuesEng (regs pU k 0x102 0) x0 1 [3, 1] ∧ (1 ≤ 2 ∧ 2 ≤ 32 ∧ 2 % 2 = 0) ∧ (1 + 2 ≤ 32) ∧
      (∀ i, i < 2 → (k.bank (1 + i)).state = .free ∧ k.deadBanks.getLsbD (1 + i) = false) ∧ (k.bank 0).state ≠ .free) ∧
    (IssuesEng (regs pU { deadBanks := 0xFFFFFFFF } 1 0) x0 1 [3, 1] ∧ ∀ b < 32, (0xFFFFFFFF : Word32).getLsbD b = true) ∧
    (IssuesEng (regs pU {} 0x103 0) x0 1 [3, 1] ∧ 3 % 2 ≠ 0) ∧
    (IssuesEng (regs pU tiles 0 32) x0 1 [3, 1, 2] ∧
      ∀ b ∈ (List.range 32).filter (tiles.owns ((regs pU tiles 0 32).grp x0)), (tiles.bank b).heldBy 0 = true ∧
        ((tiles.bank b).state = .el → b + 1 ∈ List.range 32) ∧ ((tiles.bank b).state = .eh → b - 1 ∈ List.range 32)) ∧
    (IssuesFmt (regs pU tiles (2 + 32) 0) x0 .fp32 1 [3, 1] ∧ tiles.owns ((regs pU tiles (2 + 32) 0).grp x0) 2 = false) ∧
    (IssuesFmt (regs pU tiles (31 + 32) 0) x0 .fp32 1 [3, 1] ∧ tiles.owns ((regs pU tiles (31 + 32) 0).grp x0) 31 = true ∧
      tiles.cvtSource ((regs pU tiles (31 + 32) 0).grp x0) 31 1 = true ∧ (tiles.bank 31).heldBy 0 = true ∧
      (regs pU tiles (31 + 32) 0).tileRoom x0 = true) ∧
    (IssuesFmt (regs pU tiles 31 0) x0 .fp32 1 [3, 1] ∧ tiles.cvtSource ((regs pU tiles 31 0).grp x0) 31 0 = false) :=
  ⟨⟨regs_eng _ _ _ _ _ rfl, by decide⟩, ⟨regs_eng _ _ _ _ _ rfl, by decide⟩, ⟨regs_eng _ _ _ _ _ rfl, by decide⟩,
    ⟨regs_eng _ _ _ _ _ rfl, by decide⟩, ⟨regs_fmt _ _ _ _ _ _ rfl, by decide⟩, ⟨regs_fmt _ _ _ _ _ _ rfl, by decide⟩,
    regs_fmt _ _ _ _ _ _ rfl, by decide⟩

theorem witness_MatrixTiles_words :
    (IssuesLane (regs pU tiles 31 0) x0 shBare none [1] [63] ∧ ClauseTakes (regs pU tiles 31 0) x0 1 ∧ Ungated (regs pU tiles 31 0) x0 ∧
      tiles.owns ((regs pU tiles 31 0).grp x0) 31 = true ∧ (tiles.bank 31).state ≠ .eh ∧ (tiles.bank 31).heldBy 0 = true) ∧
    (IssuesLane (regs pU tiles 0x10000 0) x0 shBare none [1] [63] ∧ tiles.owns ((regs pU tiles 0x10000 0).grp x0) 0 = true ∧
      (tiles.bank 0).state = .el ∧ (0x10000 : Nat).testBit 16 = true) ∧
    (IssuesLane (regs pU tiles 5 0) x0 shBare none [1] [63] ∧ tiles.owns ((regs pU tiles 5 0).grp x0) 5 = false) ∧
    (IssuesEng (pair 31 3 tiles) x0 1 [3, 1, 2] ∧ (pair 31 3 tiles).sameUnit x0 3 = true ∧ (pair 31 3 tiles).sameUnit x0 4 = false) ∧
    (IssuesEng (regs pU tiles 64 0) x0 1 [3, 1] ∧ (64 : Nat).testBit 6 = true ∧ (tiles.bank 31).newFor 0 = true ∧
      ∀ c, c < 31 → (tiles.bank c).newFor 0 = false) ∧
    (IssuesEng (regs pU {} 64 0) x0 1 [3, 1] ∧ ∀ a, a < 32 → ((({} : Core)).bank a).newFor 0 = false) ∧
    (let k : Core := { banks := [(31, { state := .f, unit := 1, token := .engine })] }
     IssuesEng (regs pU k 31 0) x0 1 [3, 1] ∧ k.owns ((regs pU k 31 0).grp x0) 31 = true ∧ (k.bank 31).heldBy 0 = false) :=
  ⟨⟨regs_bare _ _ _ _ _ rfl, .inl rfl, stage_ungated rfl, by decide⟩, ⟨regs_bare _ _ _ _ _ rfl, by decide⟩,
    ⟨regs_bare _ _ _ _ _ rfl, by decide⟩, ⟨pair_eng _ _ _ rfl _ _, by decide⟩, ⟨regs_eng _ _ _ _ _ rfl, by decide⟩,
    ⟨regs_eng _ _ _ _ _ rfl, by decide⟩, regs_eng _ _ _ _ _ rfl, by decide⟩

/-- The exact tile of bank 0 to core 0 itself and to a core that the unit has not; arming a free tile and a busy one; collecting into bank 31
a tile that awaits none, and one that does. -/
theorem witness_MatrixTiles :
    (IssuesEng (regs pU tiles 0 0) x0 4 [1, 2] ∧ coreOf ((0 : Word64).extractLsb' 0 18) = some 0 ∧ 0 ∈ ((regs pU tiles 0 0).own x0).cores ∧
      tiles.owns ((regs pU tiles 0 0).grp x0) 0 = true ∧ (tiles.bank 0).state = .el ∧ (tiles.bank 0).heldBy 0 = true ∧
      (regs pU tiles 0 0).tileRoom x0 = true) ∧
    (IssuesEng (regs pU tiles 0 1) x0 4 [1, 2] ∧ coreOf ((1 : Word64).extractLsb' 0 18) = some 1 ∧ 1 ∉ unit1.cores) ∧
    (let v : Nat := 1 + 3 * 2 ^ 32
     IssuesEng (regs pU tiles (BitVec.ofNat 64 v) 0) x0 4 [3, 1, 2] ∧ v / 2 % 4 = 0 ∧ v / 2 ^ 32 % 2 ^ 16 ≠ 0 ∧ (tiles.rtile 1).pend = 0 ∧
      (tiles.rtile 1).unit = none) ∧
    (let k : Core := { tiles with rtiles := [(1, { unit := some 1, pend := 1 })] }
     IssuesEng (regs pU k (BitVec.ofNat 64 (1 + 2 + 31 * 256)) 0) x0 4 [3, 1, 2] ∧ (k.rtile 1).pend ≠ 0 ∧
      (k.rtileFor 1 ((regs pU k 0 0).grp x0).unit).pend ≠ 0) ∧
    (let v : Nat := 1 + 2 + 31 * 256
     IssuesEng (regs pU tiles (BitVec.ofNat 64 v) 0) x0 4 [3, 1, 2] ∧ v / 2 % 4 = 1 ∧ v / 256 % 32 = 31 ∧
      (tiles.rtileFor 1 ((regs pU tiles 0 0).grp x0).unit).pend = 0 ∧ (tiles.bank 31).state = .f ∧ (tiles.bank 31).heldBy 0 = true) :=
  ⟨⟨regs_eng _ _ _ _ _ rfl, by decide⟩, ⟨regs_eng _ _ _ _ _ rfl, by decide⟩, ⟨regs_eng _ _ _ _ _ rfl, by decide⟩,
    ⟨regs_eng _ _ _ _ _ rfl, by decide⟩, regs_eng _ _ _ _ _ rfl, by decide⟩

/-! ## Witnesses: gates -/

/-- A gate table of one entry with these bytes at 0x1000; x1 names the entry. -/
def gateTable (bytes : Memory) (t : Word64) : State := { mapped with hbm := bytes, dies := [(0, { domains := [(0, t)] })] }
def calling (bytes : Memory) (t : Word64) (i : Word64) (fs : List GateFrame) : State :=
  stage (gateTable bytes t) pU { g64 with y := [(1, i)], tbase := 1, frames := fs } {}

theorem calling_dev (bytes : Memory) (t i : Word64) (fs : List GateFrame) : IssuesDev (calling bytes t i fs) x0 [1] [] :=
  ⟨⟨rfl, rfl, by intro q h; cases h⟩, by show Mode.u ≠ Mode.m; decide, (by intro v h; cases h), stage_unblocked _ rfl rfl⟩

def openTable : Word64 := 0x8000000000000000

/-- The entry is valid; it has a reserved bit; its domain check fails; it nests at most one deep. -/
def goodEntry : Memory := [(0x1000 + 31, 0x80)]
def badEntry : Memory := [(0x1000 + 29, 0x10), (0x1000 + 31, 0x80)]
def otherDomain : Memory := [(0x1000 + 25, 0x10), (0x1000 + 27, 1), (0x1000 + 31, 0x80)]
def shallow : Memory := [(0x1000 + 29, 2), (0x1000 + 31, 0x80)]

theorem witness_Gates_call :
    ((calling goodEntry openTable 0 []).grp x0).lw16 = false ∧ ((calling goodEntry openTable 0 []).grp x0).splits.length ≤ 1 ∧
    ((calling goodEntry openTable 0 []).core 0).quiet 0 0 ((calling goodEntry openTable 0 []).spl x0) = true ∧
    LastWord (calling goodEntry openTable 0 []) x0 ∧ ClauseTakes (calling goodEntry openTable 0 []) x0 6 ∧
    (IssuesDev (calling goodEntry openTable 1 []) x0 [1] [] ∧ ((calling goodEntry openTable 1 []).grp x0).tlast.toNat < 1) ∧
    (IssuesDev (calling [] openTable 0 []) x0 [1] [] ∧ ((calling [] openTable 0 []).gateAt ((calling [] openTable 0 []).grp x0) 0).v = false) ∧
    (IssuesDev (calling badEntry openTable 0 []) x0 [1] [] ∧
      ((calling badEntry openTable 0 []).gateAt ((calling badEntry openTable 0 []).grp x0) 0).v = true ∧
      ((calling badEntry openTable 0 []).gateAt ((calling badEntry openTable 0 []).grp x0) 0).bad = true) ∧
    (IssuesDev (calling otherDomain openTable 0 []) x0 [1] [] ∧
      (let e := (calling otherDomain openTable 0 []).gateAt ((calling otherDomain openTable 0 []).grp x0) 0
       e.v = true ∧ e.bad = false ∧ (((calling otherDomain openTable 0 []).grp x0).dom ^^^ e.aval) &&& e.amask ≠ 0)) ∧
    (IssuesDev (calling shallow openTable 0 [{}]) x0 [1] [] ∧
      (let e := (calling shallow openTable 0 [{}]).gateAt ((calling shallow openTable 0 [{}]).grp x0) 0
       e.v = true ∧ e.bad = false ∧ e.amask = 0 ∧ e.nest ≤ 1)) ∧
    (∀ t : Word64, t = 0 ∨ t = openTable → IssuesDev (calling goodEntry t 0 []) x0 [1] [] ∧
      (let e := (calling goodEntry t 0 []).gateAt ((calling goodEntry t 0 []).grp x0) 0
       e.v = true ∧ e.bad = false ∧ e.amask = 0 ∧ 0 < e.nest) ∧
      Map.getD 0 ((calling goodEntry t 0 []).die 0).domains 0 = t) := by
  refine ⟨by decide, by decide, by decide, by unfold LastWord; decide, .inl rfl, ⟨calling_dev _ _ _ _, by decide⟩,
    ⟨calling_dev _ _ _ _, by decide⟩, ⟨calling_dev _ _ _ _, by decide⟩, ⟨calling_dev _ _ _ _, by decide⟩,
    ⟨calling_dev _ _ _ _, by decide⟩, ?_⟩
  rintro t (rfl | rfl) <;> exact ⟨calling_dev _ _ _ _, by decide⟩

theorem regs_native (p : Split) (k : Core) (v w : Word64) (xs : List (BitVec 5)) (hp : p.pend = []) (hf : p.format = none)
    (hm : p.mode ≠ .m) (hh : p.fenceHeld = false := by rfl) : IssuesDev (regs p k v w) x0 xs [] :=
  ⟨regs_issues _ _ _ _ _ hp hf, hm, (by intro v h; cases h), .inl (by rfl), (by intro f h; cases h), hh⟩

/-- A half-width group, a group of two splits, a split with a store outstanding, and GRET in a frame. -/
theorem witness_Gates_other :
    (let s := stage mapped pU { g64 with lw16 := true } {}
     IssuesDev s x0 [1] [] ∧ (s.grp x0).lw16 = true) ∧
    (let s := { base with cores := [(0, { issuing := some (0, 0), slots := [
        (0, { group := some { g64 with unit := 1, splits := [(0, pU), (1, pU)] } })] })] }
     s.current = some x0 ∧ 1 < (s.grp x0).splits.length ∧ (s.grp x0).lw16 = false) ∧
    (IssuesDev (regs pU storing 0 0) x0 [1] [] ∧ ((regs pU storing 0 0).core 0).quiet 0 0 pU = false) ∧
    (IssuesDev (calling [] 0 0 [{}]) x0 [1] [] ∧ ((calling [] 0 0 [{}]).grp x0).frames.getLast? = some {}) ∧
    (IssuesDev (calling [] 0 0 []) x0 [1] [] ∧ ((calling [] 0 0 []).grp x0).frames = []) :=
  ⟨⟨stage_dev _ _ rfl rfl (by decide) rfl rfl rfl rfl, by decide⟩, by decide, ⟨regs_native _ _ _ _ _ rfl rfl (by decide), by decide⟩,
    ⟨calling_dev _ _ _ _, by decide⟩, calling_dev _ _ _ _, by decide⟩

/-- S-mode on core 0; the group t stands in slot 3, which the operand names. -/
def aborting (t : Group) (v : Word64) : State := { regs pS {} v 5 with
  cores := [(0, { issuing := some (0, 0), slots := [
    (0, { group := some { g64 with unit := 1, splits := [(0, pS)], y := [(1, v), (2, 5)] } }), (3, { group := some t })] })] }

theorem aborting_eng (t : Group) (v : Word64) : IssuesEng (aborting t v) x0 6 [3, 1, 2] :=
  ⟨⟨⟨rfl, rfl, by intro q h; cases h⟩, by show Mode.s ≠ Mode.m; decide, (by intro v h; cases h), .inl (by rfl),
    (by intro f h; cases h), by rfl⟩, (by intro h; cases h), .inl rfl⟩

def slot3 : Word64 := 0xC0000

theorem witness_Gates :
    (IssuesEng (aborting {} 0x3FE00) x0 6 [3, 1, 2] ∧ coreOf ((0x3FE00 : Word64).extractLsb' 0 18) = none) ∧
    (IssuesEng (aborting {} 0x100000) x0 6 [3, 1, 2] ∧ coreOf ((0x100000 : Word64).extractLsb' 0 18) = some 0 ∧
      3 < ((0x100000 : Word64).extractLsb' 18 3).toNat) ∧
    (IssuesEng (aborting { frames := [] } slot3) x0 6 [3, 1, 2] ∧ (aborting {} slot3).group 0 3 = some {} ∧
      ((aborting {} slot3).unit 0).saving = false) ∧
    (let t : Group := { frames := [{}], frozen := some (none, 0), splits := [(0, pU)] }
     IssuesEng (aborting t slot3) x0 6 [3, 1, 2] ∧ (aborting t slot3).group 0 3 = some t ∧ t.frames.getLast? = some {} ∧
      t.frozen ≠ none ∧ 3 ≠ x0.sl ∧ t.splits.all (fun e => ((aborting t slot3).core 0).quiet 3 e.1 e.2) = true) ∧
    (let t : Group := { frames := [{}], splits := [(0, pU)] }
     IssuesEng (aborting t slot3) x0 6 [3, 1, 2] ∧ t.frozen = none ∧ t.halted = false) ∧
    (IssuesDev base x0 [3, 1, 2] [] ∧ (base.spl x0).mode = .u) ∧ ((aborting {} slot3).spl x0).mode = .s :=
  ⟨⟨aborting_eng _ _, by decide⟩, ⟨aborting_eng _ _, by decide⟩, ⟨aborting_eng _ _, by decide⟩, ⟨aborting_eng _ _, by decide⟩,
    ⟨aborting_eng _ _, by decide⟩, ⟨base_dev _ _, by decide⟩, by decide⟩

/-! ## Witnesses: messages, tasks, forks -/

/-- A sender whose slot has n sends outstanding. -/
def sending (d : Word64) (n : Nat) : State := { regs pU {} d 0 with
  cores := [(0, { issuing := some (0, 0), slots := [(0, { sends := n, group := some { g64 with unit := 1, splits := [(0, pU)], y := [(1, d)] } })] })] }

theorem sending_eng (d : Word64) (n : Nat) (xs : List (BitVec 5)) : IssuesEng (sending d n) x0 3 xs :=
  ⟨⟨⟨rfl, rfl, by intro q h; cases h⟩, by show Mode.u ≠ Mode.m; decide, (by intro v h; cases h), .inl (by rfl),
    (by intro f h; cases h), by rfl⟩, fun _ => rfl, .inl rfl⟩

theorem handler_eng (xs : List (BitVec 5)) : IssuesEng baseH xh 3 xs :=
  ⟨⟨⟨rfl, rfl, by intro q h; cases h⟩, by decide, (by intro v h; cases h), .inl (by rfl), (by intro f h; cases h), by rfl⟩,
    fun _ => rfl, .inl rfl⟩

/-- To the handler slot of core 0, channel 7; to a group slot; to a coordinate that names no core; with 8 sends outstanding and 7. -/
theorem witness_Tasks_messages :
    (IssuesEng (sending 0x27 7) x0 3 [3, 1, 4, 5, 6, 7] ∧ (4 : BitVec 5) ≠ 0 ∧ (4 : BitVec 5).toNat % 4 = 0 ∧
      (0x27 : Word64).extractLsb' 3 3 = 4#3 ∧ tagCoord ((0x27 : Word64).extractLsb' 0 24) ≠ none ∧ ((sending 0x27 7).slot 0 0).sends < 8) ∧
    (IssuesEng (sending 0x27 8) x0 3 [3, 1, 4, 5, 6, 7] ∧ 8 ≤ ((sending 0x27 8).slot 0 0).sends) ∧
    (IssuesEng (sending 0x1F 0) x0 3 [3, 1, 28, 29, 30, 31] ∧ (0x1F : Word64).extractLsb' 3 3 ≠ 4#3) ∧
    (IssuesEng (sending 0xFFFFE7 0) x0 3 [3, 1, 4, 5, 6, 7] ∧ tagCoord ((0xFFFFE7 : Word64).extractLsb' 0 24) = none) ∧
    (IssuesEng (regs pU {} 0 0) x0 3 [3, 1, 2] ∧ ({} : Core).chanUnit ≠ some 1) ∧
    (IssuesEng (regs pU { chanUnit := some 1 } 4 0x10017) x0 3 [3, 1, 2] ∧ ((regs pU { chanUnit := some 1 } 4 0x10017).grp x0).unit = 1) ∧
    (IssuesEng baseH xh 3 [] ∧ LastWord baseH xh ∧ xh.handler = true) ∧ (IssuesDev base x0 [] [] ∧ x0.handler = false) :=
  ⟨⟨sending_eng _ _ _, by decide⟩, ⟨sending_eng _ _ _, by decide⟩, ⟨sending_eng _ _ _, by decide⟩, ⟨sending_eng _ _ _, by decide⟩,
    ⟨regs_eng _ _ _ _ _ rfl, by decide⟩, ⟨regs_eng _ _ _ _ _ rfl, by decide⟩, ⟨handler_eng _, by unfold LastWord; decide, by decide⟩,
    base_dev _ _, by decide⟩

def aTask : Task := { fn := 4, arg := 5, tenq := 6 }

/-- A core whose deque is the unit's: with room, full, and with a thief waiting. -/
theorem witness_Tasks :
    (IssuesEng (regs pU {} 0 0) x0 3 [3, 1, 2] ∧ ({} : Core).dequeUnit ≠ some 1) ∧
    (let k : Core := { dequeUnit := some 1, deque := List.replicate 63 aTask }
     IssuesEng (regs pU k 0 0) x0 3 [3, 1, 2] ∧ k.deque.length < 64 ∧ k.stealBox = none) ∧
    (let k : Core := { dequeUnit := some 1, deque := List.replicate 64 aTask }
     IssuesEng (regs pU k 0 0) x0 3 [3, 1, 2] ∧ 64 ≤ k.deque.length) ∧
    (let k : Core := { dequeUnit := some 1, stealBox := some 5 }
     IssuesEng (regs pU k 0 0) x0 3 [3, 1, 2] ∧ k.stealBox = some 5) ∧
    (let k : Core := { dequeUnit := some 1, deque := [aTask] }
     IssuesEng (regs pU k 0 0) x0 3 [30, 31, 0, 2] ∧ (30 : BitVec 5).toNat % 2 = 0 ∧ (30 : BitVec 5) ≠ 0 ∧ k.deque.getLast? = some aTask) ∧
    (IssuesEng (regs pU {} 0 0) x0 3 [30, 31, 1, 2] ∧ (1 : BitVec 5) ≠ 0 ∧ coreOf ((0 : Word64).extractLsb' 0 18) = some 0 ∧
      (regs pU {} 0 0).parkedErrand x0 pU (.steal 0 65536) = none ∧ x0.handler = false) ∧
    (IssuesEng (sending 0 0) x0 3 [3] ∧ ((sending 0 0).slot 0 0).tvalid = false) ∧
    (let s : State := { sending 0 0 with cores := [(0, { issuing := some (0, 0), slots := [(0, { tvalid := true, group := some {
        g64 with unit := 1, splits := [(0, pU)] } })] })] }
     s.current = some x0 ∧ (s.slot 0 0).tvalid = true) :=
  ⟨⟨regs_eng _ _ _ _ _ rfl, by decide⟩, ⟨regs_eng _ _ _ _ _ rfl, by decide⟩, ⟨regs_eng _ _ _ _ _ rfl, by decide⟩,
    ⟨regs_eng _ _ _ _ _ rfl, by decide⟩, ⟨regs_eng _ _ _ _ _ rfl, by decide⟩, ⟨regs_eng _ _ _ _ _ rfl, by decide⟩,
    ⟨sending_eng _ _ _, by decide⟩, by decide⟩

/-- A fork record at local 0 with a range of 64 in grains of 1 and at most n recruits; the join cell of slot oslot of core 0. -/
def forking (n : Byte) (cells : Map JoinCell) (v : Word64) : State :=
  stage { mapped with scratch := [(24, 64), (28, 1), (30, n)], joins := cells } pU { g64 with y := [(1, v)] } {}

theorem forking_eng (n : Byte) (cells : Map JoinCell) (v : Word64) (xs : List (BitVec 5)) : IssuesEng (forking n cells v) x0 3 xs :=
  stage_eng 3 xs rfl rfl (by decide) rfl rfl rfl rfl rfl

def aCell (count oslot : Nat) : JoinCell := { unit := 1, named := 0, cont := 0x7F0000000000, count := count, ocore := 0, oslot := oslot }
def aHandle : Word64 := joinHandle 2 0 0

theorem witness_ForksAndErrands_fork :
    (IssuesEng (forking 0 [] 0) x0 3 [30, 31, 1] ∧ (30 : BitVec 5).toNat % 2 = 0 ∧ (30 : BitVec 5) ≠ 0 ∧
      unit1.localByte 0 = some 0 ∧ unit1.localByte 31 = some 31 ∧ (forking 0 [] 0).linePresent 0 = true ∧
      ((forking 0 [] 0).core 0).released 0 0 = true ∧ fieldAt ((forking 0 [] 0).scratch.bytes 0 32) 30 1 % 64 = 0) ∧
    (let s := forking 1 [] 0
     let d := s.scratch.bytes 0 32
     min (ceilDiv (fieldAt d 24 4) (max (fieldAt d 28 2) 1) - 1) (fieldAt d 30 1 % 64) = 1 ∧ s.freeCell 0 = some 0 ∧
      s.recruitCores 0 1 ≠ [] ∧ 0 ∉ s.recruitCores 0 1) ∧
    (IssuesEng (forking 0 [] 0) x0 3 [1] ∧ LastWord (forking 0 [] 0) x0 ∧ (0 : Word64).getLsbD 22 = false) ∧
    (IssuesEng (forking 0 [] aHandle) x0 3 [1] ∧ aHandle.getLsbD 22 = true ∧ ((forking 0 [] aHandle).spl x0).joined = none ∧
      coreOf (aHandle.extractLsb' 8 14 ++ 0#4) = some 0 ∧ (forking 0 [] aHandle).namedCell 1 0 = none) ∧
    (∀ q : Nat × Nat, q = (1, 0) ∨ q = (2, 0) ∨ q = (2, 1) → IssuesEng (forking 0 [(0, aCell q.1 q.2)] aHandle) x0 3 [1] ∧
      (forking 0 [(0, aCell q.1 q.2)] aHandle).namedCell 1 0 = some (0, aCell q.1 q.2) ∧ (aCell q.1 q.2).unit = 1 ∧
      (forking 0 [(0, aCell q.1 q.2)] aHandle).group 0 0 ≠ none) := by
  refine ⟨⟨forking_eng _ _ _ _, by decide⟩, by decide +kernel, ⟨forking_eng _ _ _ _, by unfold LastWord; decide, by decide⟩,
    ⟨forking_eng _ _ _ _, by decide⟩, ?_⟩
  rintro q (rfl | rfl | rfl) <;> exact ⟨forking_eng _ _ _ _, by decide⟩

/-- An errand of split 0 that is answered or not. -/
def aFlight (what : Errand) (answer : Option (List Word64)) (md : Mode) (rd : BitVec 5) : Flight :=
  { id := 5, core := 0, slot := 0, split := 0, unit := 1, job := 0, asid := 0, mode := md, pc := pU.pc, rd := rd, what := what, answer := answer }

def errand (f : Flight) (p : Split) (v : Word64) : State := { regs p {} v 0 with flights := [f] }

theorem errand_dev (f : Flight) (p : Split) (v : Word64) (xs : List (BitVec 5)) (hp : p.pend = []) (hf : p.format = none)
    (hm : p.mode ≠ .m) (ht : f.what.taking = false)
    (hh : p.fenceHeld = false := by rfl) : IssuesDev (errand f p v) x0 xs [] :=
  ⟨⟨rfl, hf, by intro q h; rw [show ((errand f p v).spl x0).pend = p.pend from rfl, hp] at h; cases h⟩, hm,
    (by intro v h; cases h), .inl (by rfl), (by
      intro g hg _ _
      rcases List.mem_singleton.1 (show g ∈ [f] from hg) with rfl
      exact ht), hh⟩

theorem witness_ForksAndErrands :
    (IssuesEng (regs pU {} 9 0) x0 4 [3, 1] ∧ (9 : Word64).extractLsb' 0 3 ≠ 0#3) ∧
    (IssuesEng (regs pU {} 8 0) x0 4 [3, 1, 2] ∧ (8 : Word64).extractLsb' 0 3 = 0#3 ∧ ((regs pU {} 8 0).spl x0).mode = .u) ∧
    (IssuesDev (regs pS {} 0x9008 0) x0 [3, 1] [] ∧ ((regs pS {} 0x9008 0).spl x0).mode = .s ∧
      (regs pS {} 0x9008 0).translate 0 0x9008 .write .s false false = .ok (.hbm 0x9008) 0) ∧
    (IssuesDev (regs pS {} 0x5008 0) x0 [3, 1] [] ∧ (regs pS {} 0x5008 0).translate 0 0x5008 .write .s false false = .fail) ∧
    (IssuesDev (regs pS {} 0 0) x0 [3, 1, 2] [] ∧ (regs pS {} 0 0).parkedErrand x0 pS (.cancel 0 0) = none ∧ x0.handler = false) ∧
    (let f := { aFlight (.cancel 0 0) (some [0]) .s 3 with arrived := true }
     IssuesDev (errand f pS 0) x0 [3, 1, 2] [] ∧ (errand f pS 0).parkedErrand x0 pS (.cancel 0 0) = some f ∧ f.arrived = true ∧ f.answer = some (0 :: [])) ∧
    (IssuesDev (regs pU {} 0 0) x0 [3, 1, 2] []) :=
  ⟨⟨regs_eng _ _ _ _ _ rfl, by decide⟩, ⟨regs_eng _ _ _ _ _ rfl, by decide⟩, ⟨regs_native _ _ _ _ _ rfl rfl (by decide), by decide⟩,
    ⟨regs_native _ _ _ _ _ rfl rfl (by decide), by decide⟩, ⟨regs_native _ _ _ _ _ rfl rfl (by decide), by decide⟩,
    ⟨errand_dev _ _ _ _ rfl rfl (by decide) rfl, by decide⟩, regs_native _ _ _ _ _ rfl rfl (by decide)⟩

/-- Message 5 from core 1 to channel 7 of core 0. -/
def aMsg : Msg := { tag := 0x27, core := 1, unit := 2, pay := [1, 2, 3, 4], hdr := 9, reply := 6 }
def mailed (refusal : Bool) (k : Core) (l : Core) : State := { State.reset with
  mails := [{ id := 5, refusal := refusal, msg := aMsg }], cores := [(0, k), (1, l)], units := [(1, unit1), (2, unit1)] }
def listening (depth : Nat) (box : List Msg) : Core :=
  { chanUnit := some 1, channels := [(7, { bound := true, handler := 0x7F0000000040, depth := depth, mailbox := box })]
    slots := [(4, { group := some { unit := 1, splits := [(0, {})] } })] }

theorem witness_TaskEvents_mail :
    ((mailed false (listening 1 []) {}).mails.find? (fun m => m.id = 5 && !m.refusal) = some { id := 5, refusal := false, msg := aMsg } ∧
      (∀ o ∈ (mailed false (listening 1 []) {}).mails, o.refusal = false → o.id < 5 →
        ¬ (o.msg.core = aMsg.core ∧ o.msg.slot = aMsg.slot ∧ o.msg.tag = aMsg.tag)) ∧
      ((mailed false (listening 1 []) {}).core aMsg.core).earlierDone aMsg.slot 5 = true ∧ tagCoord aMsg.tag = some 0 ∧
      (mailed false (listening 1 []) {}).ownsChannels 0 aMsg.job = true ∧
      (((mailed false (listening 1 []) {}).core 0).channel 7).bound = true ∧
      (((mailed false (listening 1 []) {}).core 0).channel 7).mailbox.length < 1) ∧
    ((mailed false {} {}).ownsChannels 0 aMsg.job = false) ∧
    ((mailed true {} {}).mails.find? (fun m => m.id = 5 && m.refusal) = some { id := 5, refusal := true, msg := aMsg } ∧
      ((mailed true {} {}).core aMsg.core).chanUnit ≠ some aMsg.unit) ∧
    (let l : Core := { chanUnit := some 2, channels := [(6, { bound := true })] }
     ((mailed true {} l).core aMsg.core).chanUnit = some aMsg.unit ∧ (((mailed true {} l).core aMsg.core).channel aMsg.reply.toNat).bound = true) ∧
    (let s := mailed false (listening 1 [aMsg]) {}
     (s.core 0).chanUnit = some 1 ∧ (s.slot 0 4).group = some { unit := 1, splits := [(0, {})] } ∧ (s.slot 0 4).activation = none ∧
      (s.core 0).nextChannel = some 7 ∧ (s.core 0).refusalFor 7 = none ∧ ((s.core 0).channel 7).mailbox = aMsg :: [] ∧
      (s.unit 1).saving = false ∧ (s.unit 1).ended = false ∧ (s.unit 1).halted = false) := by decide

theorem witness_TaskEvents :
    (let f := aFlight (.steal 1 10) none .u 2
     let s : State := { errand f pU 0 with cores := [(1, { dequeUnit := some 1 })] }
     s.flight 5 = some f ∧ f.posted = false ∧ f.answer = none ∧ (s.core 1).stealBox = none ∧ (s.core 1).dequeUnit = some 1 ∧
      (s.unit 1).job = f.job ∧ (s.unit 1).saving = false ∧ (s.unit 1).ended = false) ∧
    (let f := aFlight (.steal 1 10) none .u 2
     let s : State := { errand f pU 0 with cores := [(1, { stealBox := some 5 })] }
     (s.core 1).stealBox = some 5 ∧ s.flight 5 = some f) ∧
    (let f := aFlight (.steal 1 10) (some [1, 2, 3]) .u 2
     let s := errand f { pU with wake := some (.answer 5) } 0
     s.flight 5 = some f ∧ f.after = none ∧ s.parkedOn f = true ∧ s.group 0 0 = some (s.grp x0) ∧ (s.grp x0).splits.length = 1 ∧
      f.rd.toNat % 2 = 0 ∧ f.rd ≠ 0) ∧
    (let f := aFlight (.launch 1 2) none .u 2
     (errand f pU 0).flight 5 = some f ∧ ((errand f pU 0).core 0).earlierDone 0 5 = true) ∧
    (let q : Pend := { rd := 31, val := some 7 }
     let s := stage mapped { pU with pend := [q] } g64 {}
     s.group 0 0 = some (s.grp x0) ∧ ((s.grp x0).split 0).pend.find? (fun q => q.val.isSome) = some q ∧ q.val = some 7 ∧ q.rd ≠ 0) := by
  decide

/-! ## Witnesses: the Sheepdog -/

/-- A record of one body stands alone at local 0. -/
def aRec : BitVec 128 := 0xFFFFFFFFFFFFFFFFFF000001 <<< 32

theorem witness_DisjointBatches : (pickBatch [] 2 [aRec, aRec]).1.length < 2 ∧ aRec ∈ (pickBatch [] 2 [aRec, aRec]).2.2 := by decide

def pushing (n : Word64) : State :=
  stage { mapped with scratch := [(4, 1), (7, 0xFF), (8, 0xFF), (9, 0xFF), (10, 0xFF), (11, 0xFF), (12, 0xFF), (13, 0xFF), (14, 0xFF), (15, 0xFF)] }
    pU { g64 with y := [(1, 0), (2, n)] } {}

theorem pushing_eng (n : Word64) : IssuesEng (pushing n) x0 5 [3, 1, 2] := stage_eng 5 _ rfl rfl (by decide) rfl rfl rfl rfl rfl

/-- Core 0, slot 0 holds a batch; or has a batching operation unanswered. -/
def holding : State := { regs pU {} 0 0 with dies := [(0, { sheep := { owner := some 1, batches := [{ holder := 0, count := 1, bodies := [1] }] } })] }
def busySheep : State := { regs pU {} 0 0 with flights := [aFlight .done none .u 3] }

theorem holding_eng (xs : List (BitVec 5)) : IssuesEng holding x0 5 xs :=
  ⟨⟨⟨rfl, rfl, by intro q h; cases h⟩, by show Mode.u ≠ Mode.m; decide, (by intro v h; cases h), .inl (by rfl),
    (by intro f h; cases h), by rfl⟩, fun _ => rfl, .inl rfl⟩

theorem holding_lane (vs : List (BitVec 6)) : IssuesLane holding x0 shBare none [1] vs :=
  have h := regs_bare {} 0 0 [1] vs rfl
  ⟨rfl, h.format, h.modOk, h.ready, h.mode, h.regs, .inl (by rfl), (by intro f h; cases h), by rfl⟩

theorem witness_Sheepdog_instructions :
    (IssuesEng (pushing 1) x0 5 [3, 1, 2] ∧ unit1.localByte 0 = some 0 ∧ unit1.localByte 15 = some 15 ∧ (pushing 1).linePresent 0 = true ∧
      ((pushing 1).core 0).storesDone 0 = true ∧ recBodies (BitVec.ofNat 128 (leValue ((pushing 1).scratch.bytes 0 16))) = [1]) ∧
    (IssuesEng (pushing 65) x0 5 [3, 1, 2] ∧ 64 < (65 : Word64).toNat % 128) ∧ (IssuesEng (pushing 0) x0 5 [3, 1, 2] ∧ (0 : Word64).toNat % 128 = 0) ∧
    (IssuesDev busySheep x0 [3] [] ∧ busySheep.sheepIdle 0 0 = false) ∧
    (IssuesEng (regs pU {} 1 0) x0 5 [3, 1] ∧ (regs pU {} 1 0).sheepIdle 0 0 = true ∧ (regs pU {} 1 0).holdsBatch x0 = false ∧
      ((1 : Word64).extractLsb' 0 2 = 1#2)) ∧
    (IssuesEng holding x0 5 [3, 1] ∧ holding.sheepIdle 0 0 = true ∧ holding.holdsBatch x0 = true ∧ ((0 : Word64).extractLsb' 0 2 = 0#2) ∧
      holding.parkedErrand x0 pU (.flush 0) = none) ∧
    (let f := { aFlight (.flush 0) (some [0]) .u 3 with arrived := true }
     IssuesDev (errand f pU 0) x0 [3, 1] [] ∧ (errand f pU 0).parkedErrand x0 pU (.flush 0) = some f ∧ f.arrived = true ∧ f.answer = some (0 :: [])) ∧
    (IssuesLane (regs pU {} 0 0) x0 shBare none [1] [59, 60, 61, 62, 63] ∧ (59 : BitVec 6).toNat + 4 < 64 ∧ ClauseTakes (regs pU {} 0 0) x0 5 ∧
      Ungated (regs pU {} 0 0) x0 ∧ min 32 (((regs pU {} 0 0).grp x0).active 0).length ≠ 0) ∧
    (IssuesLane holding x0 shBare none [1] [59, 60, 61, 62, 63] ∧ holding.holdsBatch x0 = true) ∧
    (IssuesLane (regs { pU with m0 := 0 } {} 0 0) x0 shBare none [1] [59, 60, 61, 62, 63] ∧
      min 32 (((regs { pU with m0 := 0 } {} 0 0).grp x0).active 0).length = 0) :=
  ⟨⟨pushing_eng _, by decide⟩, ⟨pushing_eng _, by decide⟩, ⟨pushing_eng _, by decide⟩, ⟨errand_dev _ _ _ _ rfl rfl (by decide) rfl, by decide⟩,
    ⟨regs_eng _ _ _ _ _ rfl, by decide⟩, ⟨holding_eng _, by decide⟩, ⟨errand_dev _ _ _ _ rfl rfl (by decide) rfl, by decide⟩,
    ⟨regs_bare _ _ _ _ _ rfl, by decide, .inl rfl, stage_ungated rfl, by decide⟩, ⟨holding_lane _, by decide⟩,
    stage_lane shBare none _ _ rfl rfl (by decide) rfl rfl rfl rfl rfl (by intro v h; cases h), by decide⟩

theorem witness_Sheepdog :
    (∀ e : Errand, e = .push [aRec] ∨ e = .done ∨ e = .flush 3 → (errand (aFlight e none .u 3) pU 0).flight 5 = some (aFlight e none .u 3) ∧
      ((errand (aFlight e none .u 3) pU 0).core 0).earlierDone 0 5 = true) ∧
    (let f := aFlight (.push [aRec]) none .u 3
     let s : State := { errand f pU 0 with dies := [(0, { sheep := { owner := some 2 } })] }
     s.flight 5 = some f ∧ (s.die 0).sheep.owner = some 2 ∧ 2 ≠ f.unit ∧
      (s.unit f.unit).ended = false ∧
      ∀ g ∈ s.flights, ¬ (g.sameIssuer f = true ∧ g.what.sheep = true ∧ g.answer = none ∧ g.posted = false ∧ g.id < f.id)) ∧
    (let f := aFlight (.take 1 [0] 1 59 0) none .u 0
     let s : State := { errand f pU 0 with dies := [(0, { sheep := { owner := some 1, window := [aRec] } })] }
     s.flight 5 = some f ∧ (s.die 0).sheep.owner = some f.unit ∧ s.group 0 0 ≠ none) ∧
    ((aFlight (.push [aRec]) (some [1]) .u 3).answer = some [1] ∧ (aFlight (.take 1 [0] 1 59 1) (some []) .u 0).batch = [] ∧
      (errand (aFlight (.take 1 [0] 1 59 1) (some []) .u 0) pU 0).group 0 0 ≠ none ∧
      ((errand (aFlight (.take 1 [0] 1 59 1) (some []) .u 0) pU 0).grp x0).uses 0 = true ∧ (1 : BitVec 3) ≠ 0 ∧
      ({ aFlight (.take 1 [0] 1 59 1) (some []) .u 0 with batch := [aRec] } : Flight).batch ≠ [] ∧ [(0 : Nat)].Nodup ∧
      (59 : BitVec 6).toNat + 4 < 64) := by
  refine ⟨?_, by decide, by decide, by decide⟩
  rintro e (rfl | rfl | rfl) <;> decide

/-! ## Witnesses: kernels, queues and launches -/

/-- An image with one word of text at 64 and nothing else. -/
def anImage : List Byte :=
  [0x4D, 0x4C, 0x53, 0x33, 1, 0, 0, 0, 0, 0, 0, 0, 1, 0, 0, 0] ++ List.replicate 8 0 ++ [64, 0, 0, 0, 4, 0, 0, 0] ++ List.replicate 96 0

def aKernel : Kernel :=
  { job := 7, text := 0, textLen := 4, dataLen := 0, hw0 := 1, hw1 := 0, entry := 0, leases := [], chans := [], gates := [] }

/-- Job 7 is registered and has kernel 9 in the first page of its heap. -/
def jobbed : State := { State.reset with
  jobs := [(7, { asid := 0, qmask := 0xFFFFFFFFFFFFFFFF })]
  kernels := [(9, aKernel)]
  extents := [{ job := 7, asid := 0, off := 0, len := 4096, text := 4 }] }

/-- The same with the first page left to a moved extent of generation 1. -/
def movedJob (gen : Word32) : State := { jobbed with
  extents := [{ job := 7, asid := 0, off := 0, len := 4096, text := 4, old := some 2 }]
  launches := [(3, { job := 7, desc := 0, queue := 0, iod := 0, stage := .running, gen := gen, image := some aKernel })] }

theorem witness_CodeHeap :
    (jobbed.registered 7 = true ∧ jobbed.loadPlan 7 [] = .error 1 ∧ jobbed.loadPlan 7 anImage = .ok (4096, 4096)) ∧
    (Map.find jobbed.kernels (9 : Word64).toNat = some aKernel ∧ aKernel.job = 7 ∧
      jobbed.freeFwd.length < (List.replicate 1025 (0, 0)).length ∧ ([] : List (Nat × Nat)).length ≤ jobbed.freeFwd.length) ∧
    ((jobbed.job 7).gen ≠ BitVec.allOnes 32 ∧ [((0 : Nat), 0xFFFF000, 0x1000)].length ≤ jobbed.freeFwd.length ∧
      jobbed.movesFit 7 [(0, 0xFFFF000, 0x1000)] = true ∧ jobbed.movesFit 7 [(0, 0xFFFF000, 0x2000)] = false) ∧
    (∀ g : Word32, (movedJob g).extents.find? (fun x => x.job = 7 && x.off = (0 : BitVec 28).toNat && x.old.isSome) =
      some { job := 7, asid := 0, off := 0, len := 4096, text := 4, old := some 2 }) ∧
    (movedJob 1).olderGroup 7 2 = true ∧ (movedJob 2).olderGroup 7 2 = false :=
  ⟨⟨by decide, rfl, rfl⟩, by decide +kernel, by decide +kernel, fun _ => rfl, by decide, by decide⟩

/-- The split's pc is in the heap, where the table of its die forwards it. -/
theorem witness_CachesAndSlotEvents :
    ((mapped.die 7).icinv.getLsbD 63 = false ∧ (({ mapped with dies := [(7, { icinv := 0x8000000000000000 })] } : State).die 7).icinv.getLsbD 63 = true) ∧
    (let s := codeM 0x13
     s.group 0 0 = some (s.grp x0) ∧ (s.grp x0).uses 0 = true ∧ ((s.grp x0).split 0).wake = none ∧
      Map.find s.icache (tagKey (flockOf 0) (s.grp x0).asid ((s.grp x0).split 0).pc) = none ∧
      s.fetch 0 (s.grp x0) ((s.grp x0).split 0).mode ((s.grp x0).split 0).pc = .word 0x13 ∧
      s.translate (s.grp x0).asid (((s.grp x0).split 0).pc &&& ~~~63#64) .fetch .m false false = .ok (.hbm 0x9000) 0) ∧
    (let s : State := { base with dies := [(0, { fwd := [(0, BitVec.ofNat 128 (2 ^ 126 + 4096 * 2 ^ 96 + 0x2000 * 2 ^ 32))] })] }
     Map.find s.icache (tagKey (flockOf 0) (s.grp x0).asid ((s.grp x0).split 0).pc) = none ∧
      s.fetch 0 (s.grp x0) .u 0x7F0000000000 = .redirect 0x7F0000002000) ∧
    ((timed.grp x0).csr.stimecmp ≠ BitVec.allOnes 64 ∧ timed.group 0 0 = some (timed.grp x0)) ∧
    (coreOf ((0x3FE00 : Word64).extractLsb' 0 18) = none ∧ coreOf ((0xC0000 : Word64).extractLsb' 0 18) = some 0 ∧
      3 < ((0x100000 : Word64).extractLsb' 18 3).toNat ∧ base.group 0 ((0xC0000 : Word64).extractLsb' 18 3).toNat = none ∧
      base.group 0 ((0 : Word64).extractLsb' 18 3).toNat = some (base.grp x0)) := by decide

/-- Queue 5 of job 7, with an entry of a kind at CONS; the module is ready. -/
def queuedUp (kind : Byte) : State := { jobbed with
  power := { ready := true }, hbm := [(0x1008, kind)]
  queues := [(5, { base := 0x1000, en := true, prod := 1, qjob := 7 })] }

theorem witness_LaunchQueues :
    (queuedUp 0).power.ready = true ∧
    (((queuedUp 0).queue 5).prod - ((queuedUp 0).queue 5).cons).toNat ≤ ((16 : Word32) - ((queuedUp 0).queue 5).cons).toNat ∧
    ((16 : Word32) - ((queuedUp 0).queue 5).cons).toNat ≤ 2 ^ ((queuedUp 0).queue 5).logn.toNat ∧
    ¬ ((17 : Word32) - ((queuedUp 0).queue 5).cons).toNat ≤ 2 ^ ((queuedUp 0).queue 5).logn.toNat ∧
    ((queuedUp 0).queue 4).en = false ∧ 4 ≤ ((4 : Word64).extractLsb' 0 5).toNat ∧ ((16 : Word64).extractLsb' 0 5).toNat ≤ 16 ∧
    ((3 : Word64).extractLsb' 0 5).toNat < 4 ∧ 16 < ((17 : Word64).extractLsb' 0 5).toNat ∧
    ((queuedUp 4).nextQueue 0 = some 5 ∧ 4 ≤ (((queuedUp 4).entryAt ((queuedUp 4).queue 5)).extractLsb' 64 3).toNat) ∧
    ((queuedUp 0).nextQueue 0 = some 5 ∧ (((queuedUp 0).entryAt ((queuedUp 0).queue 5)).extractLsb' 64 3).toNat = 0 ∧
      (((queuedUp 0).entryAt ((queuedUp 0).queue 5)).extractLsb' 0 64).toNat % 64 = 0 ∧ ((queuedUp 0).queue 5).ctl = false ∧
      (queuedUp 0).registered 7 = true ∧ ((queuedUp 0).job 7).cancelled = false ∧ ((queuedUp 0).job 7).qmask.getLsbD 5 = true) := by
  decide

def aLaunch (stage : Stage) : Launch := { job := 7, desc := 0x40, queue := 5, iod := 0, stage := stage }
def launching (x : Launch) : State := { jobbed with launches := [(1, x)] }
def someRange (l : Nat) : Range := { asid := 0, base := 0, size := 4096, w := true, launch := l }

/-- A launch whose descriptor cannot be read, and one whose descriptor is zeros. -/
theorem witness_Launches_admission :
    (let s := launching (aLaunch .asked)
     s.launch 1 = some (aLaunch .asked) ∧ (aLaunch .asked).stage = .asked ∧ (s.job 7).unplaced = false ∧ (∀ e ∈ s.launches, ¬ e.1 < 1) ∧
      s.devRead (s.job 7).asid 0x40 64 = none) ∧
    (let s : State := { launching (aLaunch .asked) with pins := [(0, (0xDF, 0))] }
     (s.devRead (s.job 7).asid 0x40 64).isSome = true ∧
      s.descBad ((aLaunch .asked).load (s.job 7).pceil (List.replicate 64 0) []) = true) := by decide

/-- A descriptor of one unit of kernel 9 at 0x40, a kernel without leases, and one with a lease at a parameter that is not there. -/
def described (k : Kernel) : State := { launching (aLaunch .asked) with
  kernels := [(9, k)], pins := [(0, (0xDF, 0))], hbm := [(0x40, 9), (0x48, 1), (0x4C, 1), (0x4E, 1)] }

theorem witness_Launches_admitted :
    (let y := (aLaunch .asked).load ((described aKernel).job 7).pceil ((described aKernel).hbm.bytes 0x40 64) []
     (described aKernel).devRead 0 0x40 64 = some ((described aKernel).hbm.bytes 0x40 64) ∧
      (described aKernel).descBad y = false ∧ Map.find (described aKernel).kernels y.kernel = some aKernel ∧
      (match (described aKernel).leaseRanges 1 0 y.param y.plen aKernel.leases with | .ok [] => true | _ => false) = true ∧
      (match (described aKernel).leaseRanges 1 0 y.param y.plen [BitVec.ofNat 128 (2 ^ 56 + 2 ^ 76)] with | .error 0 => true | _ => false)
        = true) := by decide +kernel

/-- A page without a leaf; no room ever, none now, room, and a unit of more than 96 cores. -/
def leasing (old : List Range) (n : Nat) (pins : Map (Word64 × Nat)) : State :=
  { launching { aLaunch .leasing with ranges := [someRange 1], ncores := n } with ranges := old, pins := pins }

theorem witness_Launches_leases :
    (leasing [] 1 []).launch 1 = some { aLaunch .leasing with ranges := [someRange 1], ncores := 1 } ∧
    (leasing [] 1 []).badPage 0 [someRange 1] = some 0 ∧ (leasing [] 1 [(0, (0xDF, 0))]).badPage 0 [someRange 1] = none ∧
    8192 < ((leasing (List.replicate 8192 (someRange 0)) 1 []).ranges.filter (fun r => r.launch = 0)).length + [someRange 1].length ∧
    (((leasing (List.replicate 8192 (someRange 2)) 1 []).ranges.filter (fun r => r.launch = 0)).length + [someRange 1].length ≤ 8192 ∧
      8192 < (leasing (List.replicate 8192 (someRange 2)) 1 []).ranges.length + [someRange 1].length) ∧
    (leasing [] 1 []).ranges.length + [someRange 1].length ≤ 8192 := by
  decide +kernel

/-- A launch of one unit of kernel 9 runs; core 0 is in use, and has room for it. -/
def placing : State := { launching { aLaunch .running with kernel := 9, gx := 1, gy := 1, gz := 1, image := some aKernel } with units := [(2, unit1)] }

theorem witness_Launches_place :
    placing.pending 0 = [(1, { aLaunch .running with kernel := 9, gx := 1, gy := 1, gz := 1, image := some aKernel })] ∧
      placing.region 0 aKernel.cores aKernel.need = some [0] := by decide +kernel

def aRun (left : Nat) (active : Bool) : Run := { job := 7, graph := 0x40, queue := 5, iod := 0, left := left, active := active }
def running (x : Run) (gdone : Byte) : State :=
  { jobbed with runs := [(1, x)], pins := [(0, (0xDF, 0))], hbm := if gdone = 0 then [(0x48, 1)] else [(0x48, 1), (0x4A, gdone)] }

theorem witness_Launches_phases :
    let x : Job := { asid := 0, nphase := 1, phases := 0x80 }
    let s : State := { jobbed with jobs := [(7, x)], pins := [(0, (0xDF, 0))], hbm := [(0x48, 1), (0x80, 0xA0), (0xA0, 0x40), (0xA8, 1)] }
    s.devRead x.asid (x.phases + BitVec.ofNat 64 (8 * x.pnext)) 8 = some (s.hbm.bytes 0x80 8) ∧
     s.devRead x.asid (wordAt (s.hbm.bytes 0x80 8) 0) 32 = some (s.hbm.bytes 0xA0 32) ∧ fieldAt (s.hbm.bytes 0xA0 32) 8 8 ≠ 0 ∧
     s.graphAt x.asid (wordAt (s.hbm.bytes 0xA0 32) 0) = some (0, 1, false, 0) ∧ s.runs = [] := by decide

theorem witness_Launches_replays :
    ((running (aRun 1 true) 0).run 1 = some (aRun 1 true) ∧ (aRun 1 true).active = true ∧ (aRun 0 false).left = 0) ∧
    ((running (aRun 1 false) 1).run 1 = some (aRun 1 false) ∧ (running (aRun 1 false) 1).graphAt 0 0x40 = some (0, 1, true, 0)) ∧
    ((running (aRun 1 false) 0).run 1 = some (aRun 1 false) ∧ (running (aRun 1 false) 0).graphAt 0 0x40 = some (0, 1, false, 0) ∧
      (running (aRun 1 false) 0).replaying (aRun 1 false) = false ∧ (running (aRun 1 false) 0).phaseWaits 1 (aRun 1 false) = false ∧
      (aRun 1 false).left ≠ 0 ∧ ((running (aRun 1 false) 0).job 7).held = false ∧ (aRun 1 false).cancelled = false ∧
      (running (aRun 1 false) 0).devRead 0 0 8 = some (List.replicate 8 0) ∧
      (running (aRun 1 false) 0).nodeAt 0 (wordAt (List.replicate 8 0) 0) = some (0, 0, 0, 0, 0)) ∧
    ((running (aRun 1 true) 0).replaying (aRun 1 true) = true ∧
      ({ running (aRun 1 false) 0 with runs := [(1, aRun 1 false), (2, { aRun 1 false with phase := some (0, 0) })] } : State).phaseWaits 3
        { aRun 1 false with phase := some (0, 0) } = true) := by decide

theorem witness_Launches :
    (launching (aLaunch .running)).pending 0 = [] ∧
    (let s : State := { State.reset with units := [(2, { unit1 with slots := [] })] }
     Map.find s.units 2 = some { unit1 with slots := [] } ∧ s.unitDrained 2 = true) ∧
    (base.unitDrained 1 = false ∧ Map.find base.units 1 = some unit1) ∧
    (let x : Job := { asid := 0, nphase := 1 }
     let s : State := { jobbed with jobs := [(7, x)] }
     Map.find s.jobs (7 : BitVec 16).toNat = some x ∧ x.pnext < x.nphase ∧ x.prun = none ∧ x.cancelled = false ∧ x.held = false) ∧
    (Map.find jobbed.jobs (7 : BitVec 16).toNat = some { asid := 0, qmask := 0xFFFFFFFFFFFFFFFF } ∧ ({} : Job).nphase ≤ ({} : Job).pnext) := by
  decide

/-- Decrement 4, the earlier decrement 3 of another run and of the same one; a counter of 2 at 0x40. -/
def aDec (id run : Nat) : Dec := { id := id, asid := 0, addr := 0x40, run := run, last := false }
def decrementing (ds : List Dec) : State := { mapped with decs := ds, hbm := [(0x40, 2)] }

theorem witness_Completion_tree :
    (let col : Collector := { pending := 1 }
     let d : DoneMsg := { id := 4, launch := 1, die := 3, status := 0, faddr := 0 }
     let x : Launch := { aLaunch .running with cols := [(3, col)], gx := 1, gy := 1, gz := 1, next := 1 }
     let s : State := { launching x with dones := [d] }
     s.dones.find? (fun e => e.id = 4) = some d ∧ s.launch 1 = some x ∧ Map.find x.cols d.die = some col ∧ x.stage = .running ∧
      x.next = x.gx * x.gy * x.gz ∧ Map.find x.cols (3 : BitVec 3).toNat = some col ∧ col.sealed = false) ∧
    (let col : Collector := { sealed := true }
     col.sealed = true ∧ col.pending = 0 ∧ col.forwarded = false) ∧
    (let x : Launch := aLaunch .refused
     let s : State := { launching x with jobs := [(7, { asid := 0, counter := 2 })] }
     s.launch 1 = some x ∧ x.over = true ∧ s.decs = [] ∧ x.node = 0 ∧ x.done = 0 ∧ x.run = none ∧ x.counted = true ∧
      Map.find s.jobs (7 : BitVec 16).toNat = some { asid := 0, counter := 2 }) ∧
    ((decrementing [aDec 3 1, aDec 4 1]).decs.find? (fun e => e.id = 4) = some (aDec 4 1) ∧
      ∃ e ∈ (decrementing [aDec 3 1, aDec 4 1]).decs, e.run = 1 ∧ e.id < 4) ∧
    ((decrementing [aDec 3 2, aDec 4 1]).decs.find? (fun e => e.id = 4) = some (aDec 4 1) ∧
      (∀ e ∈ (decrementing [aDec 3 2, aDec 4 1]).decs, e.run = 1 → 4 ≤ e.id) ∧
      (decrementing [aDec 3 2, aDec 4 1]).translate 0 0x40 .write .u false false = .ok (.hbm 0x40) 0 ∧
      leWord ((decrementing [aDec 3 2, aDec 4 1]).readPlace (.hbm 0x40) 8) = 2 ∧ 1 < (2 : Word64).toNat) := by decide

/-- lcaddr names job 7 with its descriptor at 0x80, and job 8, which is not known. -/
def ending (x : Job) (a : Word64) : State := { jobbed with power := { ready := true }, lcaddr := a, jobs := [(7, x)] }

/-- lcaddr names launch 1 of job 7, whose descriptor is at 0x40. -/
def cancelling (stage : Stage) : State := { launching { aLaunch stage with gx := 2, gy := 1, gz := 1, next := 1, counter := 2 } with
  lcaddr := 0x0007000000000040, power := { ready := true } }

theorem witness_Completion_cancel : ∀ st, st = Stage.leasing ∨ st = Stage.running →
    let s := cancelling st
    s.power.ready = true ∧ ∃ x, s.launch 1 = some x ∧ x.stage = st ∧ x.over = false ∧
      s.launches.find? (fun e => e.2.job = s.lcaddr.extractLsb' 48 16 && e.2.desc = sextVa s.lcaddr) = some (1, x) := by
  rintro st (rfl | rfl) <;> exact ⟨rfl, _, rfl, rfl, by decide, by decide⟩

theorem witness_Completion_cancelled :
    (let x : Job := { desc := 0x80, cancelled := true }
     Map.find (ending x 0x0007000000000080).jobs ((0x0007000000000080 : Word64).extractLsb' 48 16).toNat = some x ∧
      x.desc = sextVa 0x0007000000000080 ∧ x.cancelled = true) := by decide

theorem witness_Completion :
    (ending {} 0x0008000000000000).power.ready = true ∧ 4 < (5 : BitVec 3).toNat ∧
    (Map.find (ending {} 0x0008000000000000).jobs ((0x0008000000000000 : Word64).extractLsb' 48 16).toNat = none ∧
      (ending {} 0x0008000000000000).gone = []) ∧
    (∀ x : Job, x = { desc := 0x80, counter := 2 } ∨ x = { desc := 0x80, ended := true } →
      Map.find (ending x 0x0007000000000080).jobs ((0x0007000000000080 : Word64).extractLsb' 48 16).toNat = some x ∧
      x.desc = sextVa 0x0007000000000080 ∧ (x.ended = true ∨ 1 < x.counter)) := by
  refine ⟨rfl, by decide, by decide, ?_⟩
  rintro x (rfl | rfl) <;> decide

/-! ## Witnesses: debugging, saving, migration, security, the package -/

/-- The ports of die 0 name unit 1, job 0, on core 0. -/
def ported (u : Machine.Unit) (halted : Bool) (d : Die) : State :=
  { stage mapped pU { g64 with halted := halted } {} with units := [(1, u)], dies := [(0, d)] }

theorem witness_DebugAndSaves_debug :
    ((ported unit1 false { dunit := 0x100 }).dbgTarget ((ported unit1 false { dunit := 0x100 }).die 0) = none) ∧
    ((ported { unit1 with saving := true } false {}).dbgTarget {} = some (1, none) ∧
      ((ported { unit1 with saving := true } false {}).unit 1).saving = true) ∧
    ((ported unit1 false {}).dbgTarget {} = some (1, none) ∧ ((ported unit1 false {}).unit 1).saving = false ∧
      (ported unit1 false {}).unitHalted 1 = false) ∧
    ((ported { unit1 with halted := true } true {}).unitHalted 1 = true ∧ (15 : BitVec 5).toNat < 16 ∧ 16 ≤ (16 : BitVec 5).toNat) ∧
    (3 ≤ (3 : BitVec 3).toNat ∧ (2 : BitVec 3) = 2) ∧
    (let d : Die := { stepping := [(1, 0, 0)] }
     ((ported unit1 false d).die 0).stepping = [(1, 0, 0)] ∧ (((ported unit1 false d).unit 1).bar 0).phase = 0) ∧
    (let d : Die := { stepping := [(1, 0, 1)] }
     ((ported unit1 true d).die 0).stepping = [] ++ (1, 0, 1) :: [] ∧ (((ported unit1 true d).unit 1).bar 0).phase ≠ 1 ∧ ∀ q ∈ (ported unit1 true d).participants 1, q.2.2.halted = true) := by decide

/-- Unit 1 of one core has no group left, and its image is at 0x3000; its launch is admitted. -/
def anImage1 : Image := { number := 1, unit := { unit1 with launch := 1, ngroups := 0 }, size := 0, desc := 0, sheep := none
                          cores := [{ at_ := 0, core := {}, scratch := [], lineP := [], lineH := [], joins := [] }] }
def resuming (d : Die) : State := { State.reset with
  hbm := Memory.setBytes [] 0x3000 (anImage1.write 0), dies := [(0, { d with parea := 0x3000 })], images := [(1, anImage1)]
  launches := [(1, { job := 0, desc := 0, queue := 0, iod := 0, stage := .running })], units := [(2, { unit1 with slots := [1], ssize := 0 })] }

theorem witness_DebugAndSaves_ports :
    ((ported unit1 false { pbusy := true }).die 0).pbusy = true ∧ ((ported unit1 false {}).die 0).pbusy = false ∧ 2 ≤ (2 : BitVec 2).toNat ∧
    ((ported unit1 false {}).preemptable 0 {} = none) ∧
    ((ported { unit1 with counter := 1 } false {}).preemptable 0 {} = some 1) ∧
    ((ported unit1 false {}).die 0).presume = none ∧ (ported unit1 false {}).imageAt 0 0 = none := by
  decide

theorem witness_DebugAndSaves_resume :
    ((resuming {}).imageAt 0 0x3000).any (fun i => i.number = 1 && ((resuming {}).adoptImage i).imageLive i &&
      (match ((resuming {}).adoptImage i).resumeRegion 0 i with
       | some (cs, _) => (((resuming {}).adoptImage i).recruitRegion 0 i cs).isSome
       | none => false)) = true ∧
    ((resuming { wsOpen := true }).imageAt 0 0x3000).any (fun i => ((resuming { wsOpen := true }).adoptImage i).imageLive i &&
      (((resuming { wsOpen := true }).adoptImage i).resumeRegion 0 i).isNone) = true := by decide +kernel

theorem witness_DebugAndSaves :
    (let s := ported { unit1 with saving := true } true { psaving := some 1 }
     (s.die 0).psaving = some 1 ∧ s.atRest 1 = true) ∧
    (let s := stage mapped pU g64 { tctl := 0x0B81000000000000 }
     s.group 0 0 = some (s.grp x0) ∧ s.traced 0 0 = true) ∧
    (let k : Core := { tctl := 0x0B81000000000000, traces := [(0, { on := true })] }
     (k.trace 0).on = true ∧ k.full 0 = false) := by decide

/-- A descriptor of job 7, session 1 and one range of one page, at 0x1000. -/
def migMemory : Memory := [(0x1000, 7), (0x1006, 1), (0x1008, 1), (0x1011, 0x20), (0x1018, 1), (0x2008, 1)]
def migrating (phase : BitVec 4) (hbm : Memory) (held : Bool) : State := { State.reset with
  jobs := [(7, { asid := 0, dirty := true, held := held })], hbm := hbm, mig := { desc := 0x1000, phase := phase, job := 7, session := 1, maxround := 1 } }

theorem witness_Migration_snapshots :
    ((ported unit1 false { dsbusy := true }).die 0).dsbusy = true ∧ ((ported unit1 false {}).die 0).dsbusy = false ∧
    ((ported unit1 false {}).die 0).snapBad = true ∧
    (let d : Die := { dscnt := 1, dsout := 0x5000, dsbusy := true }
     d.snapBad = false ∧ inHbm d.dsout.toNat = true ∧ inHbm (d.dsout.toNat + (bitDwords [true] 1).length - 1) = true) := by decide

/-- The same session with the flow of peer 0 open. -/
def flowing (phase : BitVec 4) : State := { migrating phase [] true with peers := [(0, 1 <<< 128)] }

theorem witness_Migration :
    (∀ p : BitVec 4, p = 0 ∨ p = 6 ∨ p = 8 → (migrating p migMemory false).mig.phase = p ∧
      (migrating p migMemory false).descBadMig (migrating p migMemory false).migDesc true = false ∧
      (migrating p [] false).descBadMig (migrating p [] false).migDesc false = true) ∧
    (∀ p : BitVec 4, p = 1 ∨ p = 2 → (migrating p migMemory false).registered (migrating p migMemory false).mig.job = true) ∧
    ((migrating 9 [] false).mig.phase ≠ 0 ∧ (migrating 9 [] false).mig.phase ≠ 1 ∧ 4 ≤ (4 : BitVec 3).toNat) ∧
    ((migrating 3 [] true).mig.phase = 3 ∧ (migrating 3 [] true).mig.stuck = false ∧ (migrating 3 [] true).mig.todo = [] ∧
      (migrating 3 [] true).mig.forced = false ∧ (migrating 3 [] true).jobBusy = false) ∧
    ((migrating 1 [] true).snapsOverlap = false ∧ (migrating 1 [] true).mig.todo = []) ∧
    (let s : State := { migrating 1 [] true with
       dies := [(0, { dsbusy := true, dscnt := 1, dsreq := (0, 1, 0) })], mig := { (migrating 1 [] true).mig with ranges := [(0, 1)] } }
     s.snapsOverlap = true) ∧
    (let s : State := { migrating 2 [] true with mig := { (migrating 2 [] true).mig with todo := [0x1000] } }
     s.mig.todo = 0x1000 :: [] ∧ 1 ≤ s.mig.phase.toNat ∧ s.mig.phase.toNat ≤ 4) ∧
    (let s : State := { migrating 3 [] true with launches := [(1, { job := 7, desc := 0, queue := 0, iod := 0, stage := .running })] }
     s.jobBusy = true) ∧
    (∃ h, (flowing 5).recvable 0 h = true ∧ hdrField h 0 8 = 7 ∧ 1 ≤ (flowing 5).mig.phase.toNat ∧ (flowing 5).mig.phase.toNat ≤ 5) ∧
    ((flowing 7).recvable 0 [0, 0, 0, 0, 2] = false ∧ (flowing 7).recvable 1 [2, 0, 0, 0, 1] = false) ∧
    ((flowing 7).recvable 0 [2, 0, 0, 0, 1] = true ∧ (flowing 7).mig.phase = 7 ∧ (flowing 7).mig.opened = false ∧
      hdrField [2, 0, 0, 0, 1] 0 8 ≠ 1 ∧ (flowing 7).recvable 0 [1, 0, 0, 0, 1] = true ∧ hdrField [1, 0, 0, 0, 1] 0 8 = 1) := by
  refine ⟨?_, ?_, by decide, by decide, by decide, by decide, by decide, by decide,
    ⟨[7, 0, 0, 0, 1, 0, 0, 0, 0, 0, 0, 0, 0, 0, 0, 0x80], by decide⟩, by decide, by decide⟩
  · rintro p (rfl | rfl | rfl) <;> decide
  · rintro p (rfl | rfl) <;> decide

/-- READY, in lifecycle state PROD. -/
def ready : State := { State.reset with power := { ready := true } }

theorem witness_SecurityMailbox :
    State.reset.power.ready = false ∧ ready.power.ready = true ∧ ready.sec.lcs ≠ 0 ∧ ready.sec.lcs ≠ 4 ∧ 8 < (9 : BitVec 8).toNat ∧
    (let req : List Byte := [0, 0, 0, 0, 63, 0, 0, 0]
     req.length = 8 ∧ 1 ≤ fieldAt req 4 4 ∧ fieldAt req 4 4 ≤ 63) ∧
    (let req : List Byte := [1, 0, 0, 0, 63, 0, 0, 0]
     req.length = 8 ∧ 1 ≤ fieldAt req 4 4 ∧ fieldAt req 0 4 + fieldAt req 4 4 ≤ 64) ∧
    (let req : List Byte := [0, 1, 7] ++ List.replicate 53 0
     req.length = 56 ∧ 0x100 ≤ fieldAt req 0 2 ∧ 5 ≤ fieldAt req 2 1 ∧ fieldAt req 2 1 ≤ 7 ∧ fieldAt req 3 5 = 0 ∧ ready.sec.log.length < 960) ∧
    (let req : List Byte := [0, 1, 8] ++ List.replicate 53 0
     req.length = 56 ∧ 7 < fieldAt req 2 1) ∧
    960 ≤ (List.replicate 960 ({ type := 0, reg := 0, time := 0, dig := 0 } : LogRec)).length := by decide +kernel

theorem witness_KeysAndSessions :
    State.reset.sec.session = false ∧
    (let z : Security := { session := true }
     z.session = true ∧ z.log.length < 1000 ∧ (63 : BitVec 8).toNat < 64 ∧ z.lcs = 2 ∧ Map.find z.keys 63 = none ∧ z.lcs ≠ 0 ∧ z.lcs ≠ 4) ∧
    (∀ e ∈ State.reset.jobs, e.2.keyslot ≠ 63) ∧ (∃ e ∈ jobbed.jobs, e.2.keyslot = (0 : BitVec 8).toNat) ∧
    (let z : Security := { session := true, keys := [(63, (0, 0))] }
     Map.find z.keys 63 ≠ none) ∧
    (let z : Security := { nonce := some (5, 9) }
     z.nonce = some (5, 9)) ∧
    (1 ≤ (8 : BitVec 8).toNat ∧ (8 : BitVec 8).toNat ≤ 8) ∧ ([] : List Byte).length ≠ 32 ∧ (List.replicate 32 (0 : Byte)).length = 32 ∧
    ({ leaf := 1023 } : Security).leaf < 1024 := by decide

theorem witness_Package :
    (State.reset.peerOpen 15 = false ∧ ({ State.reset with peers := [(15, 1 <<< 128)] } : State).peerOpen 15 = true) ∧
    (({ State.reset with cxlFrozen := 2 } : State).cxlFrozen.getLsbD 1 = true ∧ State.reset.cxlFrozen.getLsbD 1 = false) ∧
    ((∀ i < ([1, 2] : List Byte).length, inHbm ((0xFFE : Word64).toNat + i) = true)) ∧
    (let s : State := { State.reset with cycle := 600, dies := [(0, { wsOpen := true })] }
     s.weightBusy 0 2 = false ∧ s.gatesOpen 0 2 = true) ∧ (State.reset.gatesOpen 0 2 = false) ∧
    (State.reset.dieIdle 0 = true ∧ (base.dieIdle 0) = false ∧ (1 : Word64).getLsbD 0 = true ∧ (0 : Word64).getLsbD 0 = false) ∧
    (((5 : BitVec 8).toNat, 5) ∉ (State.reset.die 0).testDue) ∧
    (let s : State := { State.reset with dies := [(0, { testDue := [(5, 5)] })] }
     ((5 : BitVec 8).toNat, 5) ∈ (s.die 0).testDue ∧ s.coreHoldsNothing (partCore 5 5) = true) ∧
    (Map.find base.units 1 = some unit1 ∧ base.partFenced (0 / 2 ^ 38) 1 (0 / 4096) = false) ∧
    inHbm 0 = true ∧
    (let d : Die := { elprod := 128 }
     d.elprod - d.elcons = BitVec.ofNat 32 (elSize d.elbase)) ∧
    (4400 < (4401 : BitVec 16).toNat ∧ (4400 : BitVec 16).toNat ≤ 4400 ∧ 4400 < (4301 : BitVec 16).toNat + 100 ∧
      (4300 : BitVec 16).toNat + 100 ≤ 4400) ∧
    (110 ≤ (110 : BitVec 16).toNat ∧ ¬ 100 ≤ (99 : BitVec 16).toNat) ∧
    (State.reset.power.ready = false ∧ State.reset.power.failed = false ∧ State.reset.power.bstep.toNat < 7 ∧
      ({ bstep := 6 } : Power).bstep.toNat < 7) ∧
    ((0x3FF8 : BitVec 24).toNat % 8 = 0 ∧ (0x3FF8 : BitVec 24).toNat < 0x4000 ∧ (0x3FFC : BitVec 24).toNat % 8 ≠ 0 ∧
      9 < (10 : BitVec 4).toNat ∧ Writer.smode ≠ .host ∧ (7 : BitVec 4).toNat < 8 ∧
      State.reset.hostMay (0 : BitVec 4).toNat (0 : BitVec 24).toNat = false) := by decide

/-! ## Decoding: one word for every encoded row of the opcode table, its fields placed where the spec's encoding places
them, with a value of its own in every field (05 R88-R93 and each instruction's encoding). -/

theorem test_decode_custom0_1 :
    decodeWord 0xABC6748B#32 0#32 = some (.clh 2#2 5#3 3#3 6#3 1#3 4#3 9#4) ∧
    decodeWord 0x06D2650B#32 0#32 = some (.fmt 3#3 13#5 4#5 10#5) ∧
    decodeWord 0x4578B00B#32 0#32 = some (.waitc 5#3 3#3 6#3 1#3) ∧
    decodeWord 0x1500300B#32 0#32 = some (.fenceS 2#2 5#3) ∧
    decodeWord 0x2AA0300B#32 0#32 = some (.qfence 85#7) ∧
    decodeWord 0xD280230B#32 0#32 = some (.movyRd 6#5 421#9) ∧
    decodeWord 0xD295A00B#32 0#32 = some (.movyYn 421#9 11#5) ∧
    decodeWord 0x0E05930B#32 0#32 = some (.lq 6#5 11#5) := by
  decide

theorem test_decode_custom0_2 :
    decodeWord 0x0003100B#32 0#32 = some (.mpush 6#3) ∧
    decodeWord 0x0200100B#32 0#32 = some (.melse) ∧
    decodeWord 0x0400100B#32 0#32 = some (.mpop) ∧
    decodeWord 0x0603130B#32 0#32 = some (.mrd 6#5 6#3) ∧
    decodeWord 0x0805928B#32 0#32 = some (.mwr 5#3 11#5) ∧
    decodeWord 0x0A03128B#32 0#32 = some (.mmv 5#3 6#3) ∧
    decodeWord 0x0C00100B#32 0#32 = some (.lexit) ∧
    decodeWord 0x5DB6198B#32 0#32 = some (.lbr 3#3 5#3 11667#14) := by
  decide

theorem test_decode_custom0_3 :
    decodeWord 0xA936930B#32 0#32 = some (.ljalr 6#5 41#6 109#9) ∧
    decodeWord 0x2005830B#32 0#32 = some (.tclaim 6#5 11#5) ∧
    decodeWord 0x2205830B#32 0#32 = some (.trel 6#5 11#5) ∧
    decodeWord 0x2545800B#32 0#32 = some (.tload 11#5 20#5) ∧
    decodeWord 0x2605800B#32 0#32 = some (.mma 11#5) ∧
    decodeWord 0x2805800B#32 0#32 = some (.mloop 11#5) ∧
    decodeWord 0x2A05830B#32 0#32 = some (.accalloc 6#5 11#5) ∧
    decodeWord 0x2D45830B#32 0#32 = some (.accfree 6#5 11#5 20#5) := by
  decide

theorem test_decode_custom0_4 :
    decodeWord 0x2E05830B#32 0#32 = some (.acccvt 6#5 11#5) ∧
    decodeWord 0x3145830B#32 0#32 = some (.tgive 6#5 11#5 20#5) ∧
    decodeWord 0x3205830B#32 0#32 = some (.ttake 6#5 11#5) ∧
    decodeWord 0x3400000B#32 0#32 = some (.btake) ∧
    decodeWord 0x3605830B#32 0#32 = some (.bpass 6#5 11#5) ∧
    decodeWord 0x4145800B#32 0#32 = some (.cpyk 11#5 20#5) ∧
    decodeWord 0x4345800B#32 0#32 = some (.barinit 11#5 20#5) ∧
    decodeWord 0x4545830B#32 0#32 = some (.bararr 6#5 11#5 20#5) := by
  decide

theorem test_decode_custom0_5 :
    decodeWord 0x4745830B#32 0#32 = some (.barwait 6#5 11#5 20#5) ∧
    decodeWord 0x4945830B#32 0#32 = some (.prset 6#5 11#5 20#5) ∧
    decodeWord 0x4B45830B#32 0#32 = some (.prclr 6#5 11#5 20#5) ∧
    decodeWord 0x4C05830B#32 0#32 = some (.bar 6#5 11#5) ∧
    decodeWord 0x4F45830B#32 0#32 = some (.discard 6#5 11#5 20#5) ∧
    decodeWord 0x5005830B#32 0#32 = some (.barA 6#5 11#5) ∧
    decodeWord 0x5345830B#32 0#32 = some (.barW 6#5 11#5 20#5) ∧
    decodeWord 0x6145830B#32 0#32 = some (.msend 6#5 11#5 20#5) := by
  decide

theorem test_decode_custom0_6 :
    decodeWord 0x6345830B#32 0#32 = some (.mchan 6#5 11#5 20#5) ∧
    decodeWord 0x6400000B#32 0#32 = some (.hend) ∧
    decodeWord 0x6745830B#32 0#32 = some (.spawn 6#5 11#5 20#5) ∧
    decodeWord 0x6945830B#32 0#32 = some (.steal 6#5 11#5 20#5) ∧
    decodeWord 0x6A00030B#32 0#32 = some (.tdone 6#5) ∧
    decodeWord 0x6C05830B#32 0#32 = some (.rfork 6#5 11#5) ∧
    decodeWord 0x6E05800B#32 0#32 = some (.join 11#5) ∧
    decodeWord 0x8145800B#32 0#32 = some (.redsend 11#5 20#5) := by
  decide

theorem test_decode_custom0_7 :
    decodeWord 0x8345830B#32 0#32 = some (.redacc 6#5 11#5 20#5) ∧
    decodeWord 0x8405830B#32 0#32 = some (.depdec 6#5 11#5) ∧
    decodeWord 0x8745830B#32 0#32 = some (.launch 6#5 11#5 20#5) ∧
    decodeWord 0x8945830B#32 0#32 = some (.cancel 6#5 11#5 20#5) ∧
    decodeWord 0xA145830B#32 0#32 = some (.cbpush 6#5 11#5 20#5) ∧
    decodeWord 0xA200030B#32 0#32 = some (.cbdone 6#5) ∧
    decodeWord 0xA405830B#32 0#32 = some (.cbflush 6#5 11#5) ∧
    decodeWord 0xC005800B#32 0#32 = some (.gate 11#5) := by
  decide

theorem test_decode_custom0_8 :
    decodeWord 0xC200000B#32 0#32 = some (.gret) ∧
    decodeWord 0xC545830B#32 0#32 = some (.gabort 6#5 11#5 20#5) := by
  decide

theorem test_decode_lane_registers_1 :
    decodeWord 0x80B5392B#32 0x42#32 = some (.ladd (some 0x42#32) 50#6 41#6 22#6) ∧
    decodeWord 0x82B5392B#32 0x42#32 = some (.lsub (some 0x42#32) 50#6 41#6 22#6) ∧
    decodeWord 0x84B5392B#32 0x42#32 = some (.lmul (some 0x42#32) 50#6 41#6 22#6) ∧
    decodeWord 0x86B5392B#32 0x42#32 = some (.lmulh (some 0x42#32) 50#6 41#6 22#6) ∧
    decodeWord 0x88B5392B#32 0x42#32 = some (.lmulhu (some 0x42#32) 50#6 41#6 22#6) ∧
    decodeWord 0x8AB5392B#32 0x42#32 = some (.lmin (some 0x42#32) 50#6 41#6 22#6) ∧
    decodeWord 0x8CB5392B#32 0x42#32 = some (.lmax (some 0x42#32) 50#6 41#6 22#6) ∧
    decodeWord 0x8EB5392B#32 0x42#32 = some (.lminu (some 0x42#32) 50#6 41#6 22#6) := by
  decide

theorem test_decode_lane_registers_2 :
    decodeWord 0x90B5392B#32 0x42#32 = some (.lmaxu (some 0x42#32) 50#6 41#6 22#6) ∧
    decodeWord 0x92B5392B#32 0x42#32 = some (.land (some 0x42#32) 50#6 41#6 22#6) ∧
    decodeWord 0x94B5392B#32 0x42#32 = some (.lor (some 0x42#32) 50#6 41#6 22#6) ∧
    decodeWord 0x96B5392B#32 0x42#32 = some (.lxor (some 0x42#32) 50#6 41#6 22#6) ∧
    decodeWord 0x98B5392B#32 0x42#32 = some (.landn (some 0x42#32) 50#6 41#6 22#6) ∧
    decodeWord 0x9AB5392B#32 0x42#32 = some (.lsll (some 0x42#32) 50#6 41#6 22#6) ∧
    decodeWord 0x9CB5392B#32 0x42#32 = some (.lsrl (some 0x42#32) 50#6 41#6 22#6) ∧
    decodeWord 0x9EB5392B#32 0x42#32 = some (.lsra (some 0x42#32) 50#6 41#6 22#6) := by
  decide

theorem test_decode_lane_registers_3 :
    decodeWord 0xA0B5392B#32 0x42#32 = some (.lbext (some 0x42#32) 50#6 41#6 22#6) ∧
    decodeWord 0xA2B5392B#32 0x42#32 = some (.lbextu (some 0x42#32) 50#6 41#6 22#6) ∧
    decodeWord 0xA4B5392B#32 0x42#32 = some (.lbins (some 0x42#32) 50#6 41#6 22#6) ∧
    decodeWord 0xA605392B#32 0x42#32 = some (.lpopc (some 0x42#32) 50#6 41#6) ∧
    decodeWord 0xA805392B#32 0x42#32 = some (.lclz (some 0x42#32) 50#6 41#6) ∧
    decodeWord 0xAA05392B#32 0x42#32 = some (.lctz (some 0x42#32) 50#6 41#6) ∧
    decodeWord 0xACB5392B#32 0x42#32 = some (.lsel (some 0x42#32) 50#6 41#6 22#6) ∧
    decodeWord 0xAE05392B#32 0x42#32 = some (.lmov (some 0x42#32) 50#6 41#6) := by
  decide

theorem test_decode_lane_registers_4 :
    decodeWord 0xB000192B#32 0x42#32 = some (.lidx (some 0x42#32) 50#6) ∧
    decodeWord 0xC0B522AB#32 0x42#32 = some (.lcmpEq (some 0x42#32) 5#3 41#6 22#6) ∧
    decodeWord 0xC2B522AB#32 0x42#32 = some (.lcmpNe (some 0x42#32) 5#3 41#6 22#6) ∧
    decodeWord 0xC4B522AB#32 0x42#32 = some (.lcmpLt (some 0x42#32) 5#3 41#6 22#6) ∧
    decodeWord 0xC6B522AB#32 0x42#32 = some (.lcmpGe (some 0x42#32) 5#3 41#6 22#6) ∧
    decodeWord 0xC8B522AB#32 0x42#32 = some (.lcmpLtu (some 0x42#32) 5#3 41#6 22#6) ∧
    decodeWord 0xCAB522AB#32 0x42#32 = some (.lcmpGeu (some 0x42#32) 5#3 41#6 22#6) := by
  decide

theorem test_decode_lane_immediates :
    decodeWord 0x836D395B#32 0x42#32 = some (.laddi (some 0x42#32) 50#6 41#6 109#9) ∧
    decodeWord 0x936D395B#32 0x42#32 = some (.landi (some 0x42#32) 50#6 41#6 109#9) ∧
    decodeWord 0xA36D395B#32 0x42#32 = some (.lori (some 0x42#32) 50#6 41#6 109#9) ∧
    decodeWord 0xB36D395B#32 0x42#32 = some (.lxori (some 0x42#32) 50#6 41#6 109#9) ∧
    decodeWord 0xC0AD395B#32 0x42#32 = some (.lslli (some 0x42#32) 50#6 41#6 21#5) ∧
    decodeWord 0xD0AD395B#32 0x42#32 = some (.lsrli (some 0x42#32) 50#6 41#6 21#5) ∧
    decodeWord 0xE0AD395B#32 0x42#32 = some (.lsrai (some 0x42#32) 50#6 41#6 21#5) ∧
    decodeWord 0xF368195B#32 0x42#32 = some (.lmovi (some 0x42#32) 50#6 109#9) := by
  decide

theorem test_decode_lane_scalars_1 :
    decodeWord 0x809D397B#32 0x42#32 = some (.laddx (some 0x42#32) 50#6 41#6 19#5) ∧
    decodeWord 0x819D397B#32 0x42#32 = some (.lsubx (some 0x42#32) 50#6 41#6 19#5) ∧
    decodeWord 0x829D397B#32 0x42#32 = some (.lmulx (some 0x42#32) 50#6 41#6 19#5) ∧
    decodeWord 0x839D397B#32 0x42#32 = some (.lminx (some 0x42#32) 50#6 41#6 19#5) ∧
    decodeWord 0x849D397B#32 0x42#32 = some (.lmaxx (some 0x42#32) 50#6 41#6 19#5) ∧
    decodeWord 0x859D397B#32 0x42#32 = some (.landx (some 0x42#32) 50#6 41#6 19#5) ∧
    decodeWord 0x869D397B#32 0x42#32 = some (.lorx (some 0x42#32) 50#6 41#6 19#5) ∧
    decodeWord 0x879D397B#32 0x42#32 = some (.lxorx (some 0x42#32) 50#6 41#6 19#5) := by
  decide

theorem test_decode_lane_scalars_2 :
    decodeWord 0x889D397B#32 0x42#32 = some (.lsllx (some 0x42#32) 50#6 41#6 19#5) ∧
    decodeWord 0x899D397B#32 0x42#32 = some (.lsrlx (some 0x42#32) 50#6 41#6 19#5) ∧
    decodeWord 0x8A9D397B#32 0x42#32 = some (.lsrax (some 0x42#32) 50#6 41#6 19#5) ∧
    decodeWord 0x8B98197B#32 0x42#32 = some (.lmovx (some 0x42#32) 50#6 19#5) ∧
    decodeWord 0x8C9D22FB#32 0x42#32 = some (.lcmpxEq (some 0x42#32) 5#3 41#6 19#5) ∧
    decodeWord 0x8D9D22FB#32 0x42#32 = some (.lcmpxLt (some 0x42#32) 5#3 41#6 19#5) ∧
    decodeWord 0x8E9D22FB#32 0x42#32 = some (.lcmpxLtu (some 0x42#32) 5#3 41#6 19#5) ∧
    decodeWord 0x8F9D397B#32 0x42#32 = some (.lfaddx (some 0x42#32) 50#6 41#6 19#5) := by
  decide

theorem test_decode_lane_scalars_3 :
    decodeWord 0x909D397B#32 0x42#32 = some (.lfmulx (some 0x42#32) 50#6 41#6 19#5) ∧
    decodeWord 0x9198197B#32 0x42#32 = some (.accrd (some 0x42#32) 50#6 19#5) ∧
    decodeWord 0x9298197B#32 0x42#32 = some (.accwr (some 0x42#32) 50#6 19#5) ∧
    decodeWord 0x9398B97B#32 0x42#32 = some (.cbtake (some 0x42#32) 50#6 5#3 19#5) ∧
    decodeWord 0xA99D397B#32 0x42#32 = some (.lldc (some 0x42#32) 2#2 1#2 50#6 19#5 41#6) ∧
    decodeWord 0xB99D397B#32 0x42#32 = some (.lstc (some 0x42#32) 2#2 1#2 50#6 19#5 41#6) ∧
    decodeWord 0xF59D397B#32 0x42#32 = some (.latom (some 0x42#32) 1#1 2#2 5#3 50#6 19#5 41#6) := by
  decide

theorem test_decode_lane_load :
    decodeWord 0xB739D907#32 0#32 = some (.lld 45#6 1#1 2#2 50#6 19#5 14#5) := by
  decide

theorem test_decode_lane_store :
    decodeWord 0xB739D927#32 0#32 = some (.lst 45#6 1#1 2#2 50#6 19#5 14#5) := by
  decide

theorem test_decode_lane_floats_1 :
    decodeWord 0x80B53953#32 0x42#32 = some (.lfadd (some 0x42#32) 50#6 41#6 22#6) ∧
    decodeWord 0x82B53953#32 0x42#32 = some (.lfsub (some 0x42#32) 50#6 41#6 22#6) ∧
    decodeWord 0x84B53953#32 0x42#32 = some (.lfmul (some 0x42#32) 50#6 41#6 22#6) ∧
    decodeWord 0x86B53953#32 0x42#32 = some (.lfmin (some 0x42#32) 50#6 41#6 22#6) ∧
    decodeWord 0x88B53953#32 0x42#32 = some (.lfmax (some 0x42#32) 50#6 41#6 22#6) ∧
    decodeWord 0x8A053953#32 0x42#32 = some (.lfrcp (some 0x42#32) 50#6 41#6) ∧
    decodeWord 0x8C053953#32 0x42#32 = some (.lfrsq (some 0x42#32) 50#6 41#6) ∧
    decodeWord 0x8E053953#32 0x42#32 = some (.lfexp2 (some 0x42#32) 50#6 41#6) := by
  decide

theorem test_decode_lane_floats_2 :
    decodeWord 0x90053953#32 0x42#32 = some (.lflog2 (some 0x42#32) 50#6 41#6) ∧
    decodeWord 0x92053953#32 0x42#32 = some (.lfsin (some 0x42#32) 50#6 41#6) ∧
    decodeWord 0x94053953#32 0x42#32 = some (.lfcos (some 0x42#32) 50#6 41#6) ∧
    decodeWord 0x962D3953#32 0x42#32 = some (.lfcvt (some 0x42#32) 50#6 41#6 5#3) ∧
    decodeWord 0x98B522D3#32 0x42#32 = some (.lfcmpEq (some 0x42#32) 5#3 41#6 22#6) ∧
    decodeWord 0x9AB522D3#32 0x42#32 = some (.lfcmpLt (some 0x42#32) 5#3 41#6 22#6) ∧
    decodeWord 0x9CB522D3#32 0x42#32 = some (.lfcmpLe (some 0x42#32) 5#3 41#6 22#6) ∧
    decodeWord 0x9EB522D3#32 0x42#32 = some (.lfcmpUn (some 0x42#32) 5#3 41#6 22#6) := by
  decide

theorem test_decode_op_43 :
    decodeWord 0x9AB53943#32 0x42#32 = some (.lfma (some 0x42#32) 50#6 41#6 22#6 13#6) := by
  decide

theorem test_decode_op_47 :
    decodeWord 0x9AB53947#32 0x42#32 = some (.lfms (some 0x42#32) 50#6 41#6 22#6 13#6) := by
  decide

theorem test_decode_op_4b :
    decodeWord 0x9AB5394B#32 0x42#32 = some (.lfnms (some 0x42#32) 50#6 41#6 22#6 13#6) := by
  decide

theorem test_decode_op_4f :
    decodeWord 0x9AB5394F#32 0x42#32 = some (.lfnma (some 0x42#32) 50#6 41#6 22#6 13#6) := by
  decide

theorem test_decode_lane_groups_1 :
    decodeWord 0x80053957#32 0x42#32 = some (.lmatch (some 0x42#32) 50#6 41#6) ∧
    decodeWord 0x82053957#32 0x42#32 = some (.lmatchF (some 0x42#32) 50#6 41#6) ∧
    decodeWord 0x84053957#32 0x42#32 = some (.lreduceAdd (some 0x42#32) 50#6 41#6) ∧
    decodeWord 0x86053957#32 0x42#32 = some (.lreduceMin (some 0x42#32) 50#6 41#6) ∧
    decodeWord 0x88053957#32 0x42#32 = some (.lreduceMax (some 0x42#32) 50#6 41#6) ∧
    decodeWord 0x8A053957#32 0x42#32 = some (.lreduceFadd (some 0x42#32) 50#6 41#6) ∧
    decodeWord 0x8C053957#32 0x42#32 = some (.lscanAdd (some 0x42#32) 50#6 41#6) ∧
    decodeWord 0x8E053957#32 0x42#32 = some (.lscanFadd (some 0x42#32) 50#6 41#6) := by
  decide

theorem test_decode_lane_groups_2 :
    decodeWord 0x90053957#32 0x42#32 = some (.lballot (some 0x42#32) 50#6 41#6) ∧
    decodeWord 0x92B522D7#32 0x42#32 = some (.lwhileLt (some 0x42#32) 5#3 41#6 22#6) ∧
    decodeWord 0x94B522D7#32 0x42#32 = some (.lwhileLtu (some 0x42#32) 5#3 41#6 22#6) ∧
    decodeWord 0x20286357#32 0#32 = some (.mand 6#3 3#3 5#3) ∧
    decodeWord 0x22286357#32 0#32 = some (.mor 6#3 3#3 5#3) ∧
    decodeWord 0x24286357#32 0#32 = some (.mxor 6#3 3#3 5#3) ∧
    decodeWord 0x26286357#32 0#32 = some (.mandn 6#3 3#3 5#3) ∧
    decodeWord 0x28006357#32 0#32 = some (.mnot 6#3 3#3) := by
  decide

theorem test_decode_lane_groups_3 :
    decodeWord 0xB12D3957#32 0x42#32 = some (.lshflUp (some 0x42#32) 50#6 41#6 37#6) ∧
    decodeWord 0xB32D3957#32 0x42#32 = some (.lshflDn (some 0x42#32) 50#6 41#6 37#6) ∧
    decodeWord 0xB5553957#32 0x42#32 = some (.lshflIdx (some 0x42#32) 50#6 41#6 42#6) ∧
    decodeWord 0xB72D3957#32 0x42#32 = some (.lshflXor (some 0x42#32) 50#6 41#6 37#6) := by
  decide

theorem test_decode_op_37 :
    decodeWord 0xB5C6D337#32 0#32 = some (.lui 6#5 744557#20) := by
  decide

theorem test_decode_op_17 :
    decodeWord 0xB5C6D317#32 0#32 = some (.auipc 6#5 744557#20) := by
  decide

theorem test_decode_op_6f :
    decodeWord 0xC37A536F#32 0#32 = some (.jal 6#5 863771#20) := by
  decide

theorem test_decode_op_67 :
    decodeWord 0xC6D58367#32 0#32 = some (.jalr 6#5 11#5 3181#12) := by
  decide

theorem test_decode_op_63 :
    decodeWord 0xD5458963#32 0#32 = some (.beq 11#5 20#5 2729#12) ∧
    decodeWord 0xD5459963#32 0#32 = some (.bne 11#5 20#5 2729#12) ∧
    decodeWord 0xD545C963#32 0#32 = some (.blt 11#5 20#5 2729#12) ∧
    decodeWord 0xD545D963#32 0#32 = some (.bge 11#5 20#5 2729#12) ∧
    decodeWord 0xD545E963#32 0#32 = some (.bltu 11#5 20#5 2729#12) ∧
    decodeWord 0xD545F963#32 0#32 = some (.bgeu 11#5 20#5 2729#12) := by
  decide

theorem test_decode_op_03 :
    decodeWord 0xC6D58303#32 0#32 = some (.lb 6#5 11#5 3181#12) ∧
    decodeWord 0xC6D59303#32 0#32 = some (.lh 6#5 11#5 3181#12) ∧
    decodeWord 0xC6D5A303#32 0#32 = some (.lw 6#5 11#5 3181#12) ∧
    decodeWord 0xC6D5B303#32 0#32 = some (.ld 6#5 11#5 3181#12) ∧
    decodeWord 0xC6D5C303#32 0#32 = some (.lbu 6#5 11#5 3181#12) ∧
    decodeWord 0xC6D5D303#32 0#32 = some (.lhu 6#5 11#5 3181#12) ∧
    decodeWord 0xC6D5E303#32 0#32 = some (.lwu 6#5 11#5 3181#12) := by
  decide

theorem test_decode_op_23 :
    decodeWord 0x9B458B23#32 0#32 = some (.sb 11#5 20#5 2486#12) ∧
    decodeWord 0x9B459B23#32 0#32 = some (.sh 11#5 20#5 2486#12) ∧
    decodeWord 0x9B45AB23#32 0#32 = some (.sw 11#5 20#5 2486#12) ∧
    decodeWord 0x9B45BB23#32 0#32 = some (.sd 11#5 20#5 2486#12) := by
  decide

theorem test_decode_op_13_1 :
    decodeWord 0xC6D58313#32 0#32 = some (.addi 6#5 11#5 3181#12) ∧
    decodeWord 0xC6D5A313#32 0#32 = some (.slti 6#5 11#5 3181#12) ∧
    decodeWord 0xC6D5B313#32 0#32 = some (.sltiu 6#5 11#5 3181#12) ∧
    decodeWord 0xC6D5C313#32 0#32 = some (.xori 6#5 11#5 3181#12) ∧
    decodeWord 0xC6D5E313#32 0#32 = some (.ori 6#5 11#5 3181#12) ∧
    decodeWord 0xC6D5F313#32 0#32 = some (.andi 6#5 11#5 3181#12) ∧
    decodeWord 0x01559313#32 0#32 = some (.slli 6#5 11#5 21#6) ∧
    decodeWord 0x0155D313#32 0#32 = some (.srli 6#5 11#5 21#6) := by
  decide

theorem test_decode_op_13_2 :
    decodeWord 0x4155D313#32 0#32 = some (.srai 6#5 11#5 21#6) ∧
    decodeWord 0x60059313#32 0#32 = some (.clz 6#5 11#5) ∧
    decodeWord 0x60159313#32 0#32 = some (.ctz 6#5 11#5) ∧
    decodeWord 0x60259313#32 0#32 = some (.cpop 6#5 11#5) ∧
    decodeWord 0x60459313#32 0#32 = some (.sextB 6#5 11#5) ∧
    decodeWord 0x60559313#32 0#32 = some (.sextH 6#5 11#5) ∧
    decodeWord 0x6155D313#32 0#32 = some (.rori 6#5 11#5 21#6) ∧
    decodeWord 0x2875D313#32 0#32 = some (.orcB 6#5 11#5) := by
  decide

theorem test_decode_op_13_3 :
    decodeWord 0x6B85D313#32 0#32 = some (.rev8 6#5 11#5) := by
  decide

theorem test_decode_op_33_1 :
    decodeWord 0x01458333#32 0#32 = some (.add 6#5 11#5 20#5) ∧
    decodeWord 0x01459333#32 0#32 = some (.sll 6#5 11#5 20#5) ∧
    decodeWord 0x0145A333#32 0#32 = some (.slt 6#5 11#5 20#5) ∧
    decodeWord 0x0145B333#32 0#32 = some (.sltu 6#5 11#5 20#5) ∧
    decodeWord 0x0145C333#32 0#32 = some (.xor 6#5 11#5 20#5) ∧
    decodeWord 0x0145D333#32 0#32 = some (.srl 6#5 11#5 20#5) ∧
    decodeWord 0x0145E333#32 0#32 = some (.or 6#5 11#5 20#5) ∧
    decodeWord 0x0145F333#32 0#32 = some (.and 6#5 11#5 20#5) := by
  decide

theorem test_decode_op_33_2 :
    decodeWord 0x41458333#32 0#32 = some (.sub 6#5 11#5 20#5) ∧
    decodeWord 0x4145D333#32 0#32 = some (.sra 6#5 11#5 20#5) ∧
    decodeWord 0x03458333#32 0#32 = some (.mul 6#5 11#5 20#5) ∧
    decodeWord 0x03459333#32 0#32 = some (.mulh 6#5 11#5 20#5) ∧
    decodeWord 0x0345A333#32 0#32 = some (.mulhsu 6#5 11#5 20#5) ∧
    decodeWord 0x0345B333#32 0#32 = some (.mulhu 6#5 11#5 20#5) ∧
    decodeWord 0x0345C333#32 0#32 = some (.div 6#5 11#5 20#5) ∧
    decodeWord 0x0345D333#32 0#32 = some (.divu 6#5 11#5 20#5) := by
  decide

theorem test_decode_op_33_3 :
    decodeWord 0x0345E333#32 0#32 = some (.rem 6#5 11#5 20#5) ∧
    decodeWord 0x0345F333#32 0#32 = some (.remu 6#5 11#5 20#5) ∧
    decodeWord 0x2145A333#32 0#32 = some (.sh1add 6#5 11#5 20#5) ∧
    decodeWord 0x2145C333#32 0#32 = some (.sh2add 6#5 11#5 20#5) ∧
    decodeWord 0x2145E333#32 0#32 = some (.sh3add 6#5 11#5 20#5) ∧
    decodeWord 0x4145F333#32 0#32 = some (.andn 6#5 11#5 20#5) ∧
    decodeWord 0x4145E333#32 0#32 = some (.orn 6#5 11#5 20#5) ∧
    decodeWord 0x4145C333#32 0#32 = some (.xnor 6#5 11#5 20#5) := by
  decide

theorem test_decode_op_33_4 :
    decodeWord 0x0B45C333#32 0#32 = some (.min 6#5 11#5 20#5) ∧
    decodeWord 0x0B45D333#32 0#32 = some (.minu 6#5 11#5 20#5) ∧
    decodeWord 0x0B45E333#32 0#32 = some (.max 6#5 11#5 20#5) ∧
    decodeWord 0x0B45F333#32 0#32 = some (.maxu 6#5 11#5 20#5) ∧
    decodeWord 0x61459333#32 0#32 = some (.rol 6#5 11#5 20#5) ∧
    decodeWord 0x6145D333#32 0#32 = some (.ror 6#5 11#5 20#5) ∧
    decodeWord 0x0F45D333#32 0#32 = some (.czeroEqz 6#5 11#5 20#5) ∧
    decodeWord 0x0F45F333#32 0#32 = some (.czeroNez 6#5 11#5 20#5) := by
  decide

theorem test_decode_op_1b_1 :
    decodeWord 0xC6D5831B#32 0#32 = some (.addiw 6#5 11#5 3181#12) ∧
    decodeWord 0x0155931B#32 0#32 = some (.slliw 6#5 11#5 21#5) ∧
    decodeWord 0x0155D31B#32 0#32 = some (.srliw 6#5 11#5 21#5) ∧
    decodeWord 0x4155D31B#32 0#32 = some (.sraiw 6#5 11#5 21#5) ∧
    decodeWord 0x0955931B#32 0#32 = some (.slliUw 6#5 11#5 21#6) ∧
    decodeWord 0x6005931B#32 0#32 = some (.clzw 6#5 11#5) ∧
    decodeWord 0x6015931B#32 0#32 = some (.ctzw 6#5 11#5) ∧
    decodeWord 0x6025931B#32 0#32 = some (.cpopw 6#5 11#5) := by
  decide

theorem test_decode_op_1b_2 :
    decodeWord 0x6155D31B#32 0#32 = some (.roriw 6#5 11#5 21#5) := by
  decide

theorem test_decode_op_3b_1 :
    decodeWord 0x0145833B#32 0#32 = some (.addw 6#5 11#5 20#5) ∧
    decodeWord 0x0145933B#32 0#32 = some (.sllw 6#5 11#5 20#5) ∧
    decodeWord 0x0145D33B#32 0#32 = some (.srlw 6#5 11#5 20#5) ∧
    decodeWord 0x4145833B#32 0#32 = some (.subw 6#5 11#5 20#5) ∧
    decodeWord 0x4145D33B#32 0#32 = some (.sraw 6#5 11#5 20#5) ∧
    decodeWord 0x0345833B#32 0#32 = some (.mulw 6#5 11#5 20#5) ∧
    decodeWord 0x0345C33B#32 0#32 = some (.divw 6#5 11#5 20#5) ∧
    decodeWord 0x0345D33B#32 0#32 = some (.divuw 6#5 11#5 20#5) := by
  decide

theorem test_decode_op_3b_2 :
    decodeWord 0x0345E33B#32 0#32 = some (.remw 6#5 11#5 20#5) ∧
    decodeWord 0x0345F33B#32 0#32 = some (.remuw 6#5 11#5 20#5) ∧
    decodeWord 0x0945833B#32 0#32 = some (.addUw 6#5 11#5 20#5) ∧
    decodeWord 0x2145A33B#32 0#32 = some (.sh1addUw 6#5 11#5 20#5) ∧
    decodeWord 0x2145C33B#32 0#32 = some (.sh2addUw 6#5 11#5 20#5) ∧
    decodeWord 0x2145E33B#32 0#32 = some (.sh3addUw 6#5 11#5 20#5) ∧
    decodeWord 0x6145933B#32 0#32 = some (.rolw 6#5 11#5 20#5) ∧
    decodeWord 0x6145D33B#32 0#32 = some (.rorw 6#5 11#5 20#5) := by
  decide

theorem test_decode_op_3b_3 :
    decodeWord 0x0805C33B#32 0#32 = some (.zextH 6#5 11#5) := by
  decide

theorem test_decode_op_0f :
    decodeWord 0x95C5830F#32 0#32 = some (.fence 6#5 11#5 9#4 5#4 12#4) ∧
    decodeWord 0xC6D5930F#32 0#32 = some (.fenceI 6#5 11#5 3181#12) := by
  decide

theorem test_decode_op_73_1 :
    decodeWord 0x00000073#32 0#32 = some (.ecall) ∧
    decodeWord 0x00100073#32 0#32 = some (.ebreak) ∧
    decodeWord 0x7C359373#32 0#32 = some (.csrrw 6#5 11#5 1987#12) ∧
    decodeWord 0x7C35A373#32 0#32 = some (.csrrs 6#5 11#5 1987#12) ∧
    decodeWord 0x7C35B373#32 0#32 = some (.csrrc 6#5 11#5 1987#12) ∧
    decodeWord 0x7C3AD373#32 0#32 = some (.csrrwi 6#5 21#5 1987#12) ∧
    decodeWord 0x7C3AE373#32 0#32 = some (.csrrsi 6#5 21#5 1987#12) ∧
    decodeWord 0x7C3AF373#32 0#32 = some (.csrrci 6#5 21#5 1987#12) := by
  decide

theorem test_decode_op_73_2 :
    decodeWord 0x10200073#32 0#32 = some (.sret) ∧
    decodeWord 0x30200073#32 0#32 = some (.mret) ∧
    decodeWord 0x10500073#32 0#32 = some (.wfi) ∧
    decodeWord 0x13458073#32 0#32 = some (.sfenceVma 11#5 20#5) := by
  decide

theorem test_decode_op_2f_1 :
    decodeWord 0x1405A32F#32 0#32 = some (.lrW 1#1 0#1 6#5 11#5) ∧
    decodeWord 0x1405B32F#32 0#32 = some (.lrD 1#1 0#1 6#5 11#5) ∧
    decodeWord 0x1D45A32F#32 0#32 = some (.scW 1#1 0#1 6#5 11#5 20#5) ∧
    decodeWord 0x1D45B32F#32 0#32 = some (.scD 1#1 0#1 6#5 11#5 20#5) ∧
    decodeWord 0x0D45A32F#32 0#32 = some (.amoswapW 1#1 0#1 6#5 11#5 20#5) ∧
    decodeWord 0x0D45B32F#32 0#32 = some (.amoswapD 1#1 0#1 6#5 11#5 20#5) ∧
    decodeWord 0x0545A32F#32 0#32 = some (.amoaddW 1#1 0#1 6#5 11#5 20#5) ∧
    decodeWord 0x0545B32F#32 0#32 = some (.amoaddD 1#1 0#1 6#5 11#5 20#5) := by
  decide

theorem test_decode_op_2f_2 :
    decodeWord 0x2545A32F#32 0#32 = some (.amoxorW 1#1 0#1 6#5 11#5 20#5) ∧
    decodeWord 0x2545B32F#32 0#32 = some (.amoxorD 1#1 0#1 6#5 11#5 20#5) ∧
    decodeWord 0x6545A32F#32 0#32 = some (.amoandW 1#1 0#1 6#5 11#5 20#5) ∧
    decodeWord 0x6545B32F#32 0#32 = some (.amoandD 1#1 0#1 6#5 11#5 20#5) ∧
    decodeWord 0x4545A32F#32 0#32 = some (.amoorW 1#1 0#1 6#5 11#5 20#5) ∧
    decodeWord 0x4545B32F#32 0#32 = some (.amoorD 1#1 0#1 6#5 11#5 20#5) ∧
    decodeWord 0x8545A32F#32 0#32 = some (.amominW 1#1 0#1 6#5 11#5 20#5) ∧
    decodeWord 0x8545B32F#32 0#32 = some (.amominD 1#1 0#1 6#5 11#5 20#5) := by
  decide

theorem test_decode_op_2f_3 :
    decodeWord 0xA545A32F#32 0#32 = some (.amomaxW 1#1 0#1 6#5 11#5 20#5) ∧
    decodeWord 0xA545B32F#32 0#32 = some (.amomaxD 1#1 0#1 6#5 11#5 20#5) ∧
    decodeWord 0xC545A32F#32 0#32 = some (.amominuW 1#1 0#1 6#5 11#5 20#5) ∧
    decodeWord 0xC545B32F#32 0#32 = some (.amominuD 1#1 0#1 6#5 11#5 20#5) ∧
    decodeWord 0xE545A32F#32 0#32 = some (.amomaxuW 1#1 0#1 6#5 11#5 20#5) ∧
    decodeWord 0xE545B32F#32 0#32 = some (.amomaxuD 1#1 0#1 6#5 11#5 20#5) := by
  decide

/-! ## Witnesses: lost words, memory, registers, routes, floats, translation -/

/-- The line of the split's pc cannot be read. -/
def lostWord : State := { codeM 0x13 with flaw := some { core := 0, slot := 0, struct := 1, pass := true, fetch := true } }

theorem witness_StepRuns_lost :
    ((codeM 0x13).power.off = false ∧ (codeM 0x13).fetchFlaw x0 0x9000 = none) ∧
    (lostWord.agenda = [] ∧ lostWord.power.off = false ∧ (lostWord.core 0).waiting = false ∧ lostWord.current = some x0 ∧
      lostWord.breaks x0 0x9000 = false ∧ lostWord.fetch 0 (lostWord.grp x0) .m 0x9000 = .word 0x13 ∧
      ∃ q, lostWord.fetchFlaw x0 0x9000 = some (.hbm 0x9000, q) ∧ ((lostWord.meetFlaw x0 0x9000 (.hbm 0x9000) false q).spl x0).fmt = none) ∧
    (let s : State := { State.reset with power := { off := true }, agenda := [.bringUp (true, [], [], [])] }
     s.power.off = true ∧ s.agenda = .bringUp (true, [], [], []) :: [] ∧ (Instr.bringUp (true, [], [], [])).encoded = false) :=
  ⟨by decide, ⟨rfl, rfl, rfl, rfl, by decide, by decide, { core := 0, slot := 0, struct := 1, pass := true, fetch := true }, by decide, by decide⟩,
    by decide⟩

theorem witness_ResetInvariants : State.reset.memWf ∧ ∃ t, step State.reset = .next t :=
  ⟨by unfold State.memWf; decide, _, rfl⟩

theorem witness_CsrRegisters :
    (x0.sp < 4 ∧ baseS.group 0 0 = some (baseS.grp x0) ∧ (baseS.grp x0).csr.sepc.extractLsb' 0 2 = 0#2 ∧
      (baseS.slot 0 0).mepc.extractLsb' 0 2 = 0#2 ∧ (baseS.grp x0).csr.stvec.getLsbD 1 = false ∧ (baseS.slot 0 0).mtvec.getLsbD 1 = false ∧
      (baseS.slot 0 0).mstatus.getLsbD 20 = false ∧ (baseS.spl x0).depth.toNat ≤ 16 ∧ (baseS.grp x0).lw16 = false ∧
      (baseS.grp x0).uses ((12 : BitVec 4).extractLsb' 2 2).toNat = false) ∧ (baseM.spl x0).mode ≠ .s := by decide

/-- A distance of 31, an index and a mask beyond a half, and both classes of routes. -/
theorem witness_LaneRoutes : 31 < (if g64.lw16 then 16 else 32) ∧ 15 < (if ({ g64 with lw16 := true } : Group).lw16 then 16 else 32) ∧
    g64.exited.getLsbD 31 = false ∧ ({ g64 with exited := 0x80000000 } : Group).exited.getLsbD 31 = true ∧
    (let kinds (m : Word32) := [m.extractLsb' 5 3, m.extractLsb' 13 3, m.extractLsb' 21 3]
     5#3 ∈ kinds 0xA0 ∧ 6#3 ∉ kinds 0xA0 ∧ 7#3 ∉ kinds 0xA0 ∧ kinds 0x20 ≠ [0, 0, 0] ∧ kinds 0x1F = [0, 0, 0]) := by decide

/-- In E5M2, whose least subnormal is 2^-16: an exact value, one below the middle, one above it, a tie, and one beyond the greatest. -/
theorem witness_FloatRounding :
    (¬ Claims.below 1 (-16) 1 (-16) ∧ Claims.below 1 (-16) 2 (-16) ∧ ¬ Claims.below 1 (-16) 1 (-16)) ∧
    (Claims.below 5 (-18) 2 (-16) ∧ Claims.below 1 (-16) 5 (-18) ∧ Claims.below (2 * 5) (-18) 3 (-16)) ∧
    (Claims.below 3 (-16) (2 * 7) (-18)) ∧ (¬ Claims.below 3 (-16) (2 * 6) (-18) ∧ ¬ Claims.below (2 * 6) (-18) 3 (-16)) ∧
    0x7B < 0x7C := by unfold Claims.below; decide

/-- A NaN, an infinity, a value to be saturated, one to be clamped on either side, and every rounding case of an integer result. -/
theorem witness_Conversions :
    fmtIsInt 0 = false ∧ fmtIsInt 8 = true ∧ fmtSigned 8 = true ∧ (floatOf 0).value 0x7FC00000 = .nan ∧ (floatOf 0).value 0xFF800000 = .inf true ∧
    (floatOf 0).value 0x3FC00000 = .fin false 12582912 (-23) ∧ 12582912 % 2 ^ 23 = 2 ^ 22 ∧
    (∃ m e, (floatOf 0).value 0xBF000000 = .fin true m e ∧ e < 0 ∧ m % 2 ^ (-e).toNat ≠ 0) ∧
    (0x7BFF < 2 ^ fmtWidth 1 ∧ (floatOf 1).value 0x7BFF ≠ .nan) := by
  refine ⟨by decide, by decide, by decide, by decide, by decide, by decide, by decide, ⟨8388608, -24, by decide, by decide, by decide⟩, by decide⟩

/-- The root is at 0x1000: entry 0 points to the table at 0x2000, whose entry 0 is a leaf; entry 1 is a leaf itself. -/
def tables : Memory := Memory.setBytes (Memory.setBytes (Memory.setBytes [] 0x1000 (leBytes 0x801 8)) 0x1008 (leBytes 0xDF 8)) 0x2000 (leBytes 0xDF 8)

/-- Page 1 is a peer's and page 2 the host's; peer 0 is valid, and the host has bound a root. -/
def abroad : State := { mapped with
  pins := [(0, (0xDF, 0)), (1, (0x04000000000000DF, 0)), (2, (0x08000000000000DF, 0)), (9, (0x24CF, 0))]
  peers := [(0, 1 <<< 128 ||| 5)], hroots := [(0, 0x1000)], hostMem := tables }

theorem witness_Translations :
    (walkFrom tables 0 3 0x1000 = some (0xDF, 2) ∧ walkFrom tables 0x8000000000 3 0x1000 = some (0xDF, 3) ∧
      walkFrom tables 0x10000000000 3 0x1000 = none) ∧
    (abroad.leaf 0 0x10 = some (0xDF, 0) ∧ abroad.translate 0 0x10 .write .u false false = .ok (.hbm 0x10) 0) ∧
    (abroad.leaf 0 0x1010 = some (0x04000000000000DF, 0) ∧ abroad.translate 0 0x1010 .read .u false false = .ok (.peer 5 0x10) 0) ∧
    (({ abroad with peers := [] } : State).translate 0 0x1010 .read .u false false = .remoteFail) ∧
    (abroad.leaf 0 0x2010 = some (0x08000000000000DF, 0) ∧ hostWalk abroad 0 0x2010 false = some 0x2010 ∧
      abroad.translate 0 0x2010 .read .u false false = .ok (.host 0x2010) 0) ∧
    (Map.find abroad.hroots 0 = some 0x1000 ∧ walkFrom abroad.hostMem 0x2010 3 0x1000 = some (0xDF, 2) ∧
      hostWalk { abroad with hroots := [] } 0 0x2010 false = none) ∧
    (abroad.leaf 0 0x8000000000000000 = none ∧ inWindow 0xFFFFFF0000000000 = true) ∧
    (mapped.leased 0 0xFFFF true = true ∧ mapped.leased 0 0x10000 false = false ∧ mapped.checkU 0 0xFF8 true false = some (.hbm 0xFF8, 0)) := by
  decide

/-! ## Witnesses: privileged lane accesses, pairs, late loads, barriers, fences, gates -/

/-- A privileged access of the window, of an unmapped page, and of the weight store. -/
theorem witness_LaneMemory_privileged :
    (IssuesDev (lane31 .s 0xFFFFFF0000000000 0 mapped) x0 [1] [4, 2] ∧
      (offs .s 0xFFFFFF0000000000 0 mapped 0).find? (fun a => inWindow a.2) = some (31, 0xFFFFFF0000000000)) ∧
    (IssuesDev (lane31 .s 0x5000 0 mapped) x0 [1] [4, 2] ∧ offs .s 0x5000 0 mapped 0 = [(31, 0x5000)] ∧ inWindow 0x5000 = false ∧
      (lane31 .s 0x5000 0 mapped).translate 0 0x5000 .read .s false false = .fail) ∧
    (IssuesDev (lane31 .s 0x40 0 mapped) x0 [1] [4, 2] ∧ offs .s 0x40 0 mapped 2 = (31, 0x40) :: []) :=
  ⟨⟨lane31_dev .s (by decide) _ _ _ rfl _ _, by decide⟩, ⟨lane31_dev .s (by decide) _ _ _ rfl _ _, by decide⟩,
    lane31_dev .s (by decide) _ _ _ rfl _ _, by decide⟩

/-- DISCARD of a page of the window in S-mode, of an unmapped one, and of a window address in U-mode. -/
theorem witness_LaneMemory_discard :
    (IssuesDev (regs pS {} 0xFFFFFF0000000000 1) x0 [3, 1, 2] [] ∧ inWindow 0xFFFFFF0000000000 = true ∧
      ([(0, 0xFFFFFF0000000000 + BitVec.ofNat 64 (4096 * 0))] : List LaneAddr).find? (fun a => inWindow a.2) = some (0, 0xFFFFFF0000000000)) ∧
    (IssuesDev (regs pS {} 0x5000 1) x0 [3, 1, 2] [] ∧ (0x5000 : Word64).extractLsb' 0 12 = 0#12 ∧
      (regs pS {} 0x5000 1).translate 0 0x5000 .write .s false false = .fail) ∧
    (IssuesDev (regs pS {} 0x9000 1) x0 [3, 1, 2] [] ∧
      (regs pS {} 0x9000 1).translate 0 0x9000 .write .s false false = .ok (.hbm 0x9000) 0 ∧ (regs pS {} 0x9000 1).roomFor x0 false true = true) ∧
    (IssuesDev (regs pU {} 0xFFFFFF0000000001 1) x0 [3, 1, 2] [] ∧ inWindow 0xFFFFFF0000000001 = true) :=
  ⟨⟨regs_native _ _ _ _ _ rfl rfl (by decide), by decide⟩, ⟨regs_native _ _ _ _ _ rfl rfl (by decide), by decide⟩,
    ⟨regs_native _ _ _ _ _ rfl rfl (by decide), by decide⟩, regs_native _ _ _ _ _ rfl rfl (by decide), by decide⟩

/-- The elements of a pair, and a hart load that is performed after it has issued. -/
theorem witness_MemoryEvents_returns :
    (let a : Acc := { lane := 31, size := 8, val := some 9, done := true }
     let o : Op := { loaded with vd := 62, accs := [a] }
     let s := stage mapped pU g64 { ops := [o] }
     (s.core 0).op 7 = some o ∧ o.load = true ∧ o.who ≠ 0 ∧ o.vd ≠ 63 ∧ a.part = 0 ∧ a.wrote = false ∧ s.group 0 0 = some (s.grp x0)) ∧
    (let a : Acc := { addr := 0xFF8, size := 8, val := some 9, done := true }
     let o : Op := { id := 7, slot := 0, who := 1, hart := true, into := some (8, true), accs := [a] }
     let q : Pend := { rd := 3, val := none, id := 7 }
     let p : Split := { pU with pend := [q] }
     let s := stage mapped p g64 { ops := [o] }
     (s.core 0).op 7 = some o ∧ o.load = false ∧ a.space = 0 ∧ s.group 0 0 = some (s.grp x0) ∧
       (s.grp x0).findPend (fun q => decide (q.id = o.id)) = some (0, p, q)) := by decide

/-- A split that has arrived and remembers its phase, complete and not, and one in a trap handler of another mode. -/
theorem witness_Barriers_arrived :
    (let s := barred 0 0 { pU with arrived := some (0, 0) } {}
     (s.spl x0).trapFrom = none ∧ (s.spl x0).arrived = some (0, 0) ∧ s.barPhase x0 0 = 0) ∧
    (let s := barred 0 0 { pU with arrived := some (0, 7) } {}
     s.barPhase x0 0 ≠ 7) ∧
    (let s := barred 0 0 { pS with arrived := some (0, 0), trapFrom := some .u } {}
     (s.spl x0).trapFrom = some .u ∧ Mode.u ≠ (s.spl x0).mode) ∧
    (x0.c ∈ ((barred 0 0 pU {}).own x0).cores ∧ x0.sl < 4 ∧ (barred 0 0 pU {}).group 0 0 = some ((barred 0 0 pU {}).grp x0)) ∧
    (let s := barred 0 0 pU {}
     ∀ q ∈ (s.setGrp x0 ((s.grp x0).setSplit 0 { s.spl x0 with marks := (s.spl x0).marks ||| (1#16 <<< 0) })).participants 1,
       ∀ e ∈ q.2.2.splits, e.2.marks.getLsbD 0 = true) := by decide

/-- A hart load that has not returned. -/
def loading : Core := { ops := [{ id := 1, slot := 0, who := 1, hart := true, into := some (8, true) }] }

theorem witness_CopiesAndFences_waits :
    (∀ k : Core, k = storing ∨ k = loading → IssuesDev (regs pU k 0 0) x0 [] [] ∧
      ((k.storeCount 0 0 ≠ 0 ∨ k.hartDone 0 0 = false))) ∧
    (Issues (regs pS storing 0 0) x0 [1, 2] ∧ (regs pS storing 0 0).spl x0 = pS ∧ pS.sfence = none ∧ storing.storeCount 0 0 ≠ 0) := by
  refine ⟨?_, regs_issues _ _ _ _ _ rfl rfl, by decide⟩
  rintro k (rfl | rfl) <;> exact ⟨regs_native _ _ _ _ _ rfl rfl (by decide), by decide⟩

/-- GATE and GRET in S-mode and in the handler slot. -/
theorem witness_Gates_modes :
    (IssuesDev baseS x0 [1] [] ∧ ClauseTakes baseS x0 6 ∧ LastWord baseS x0 ∧ (baseS.spl x0).mode = .s) ∧
    (IssuesDev baseH xh [] [] ∧ ClauseTakes baseH xh 6 ∧ LastWord baseH xh ∧ (baseH.spl xh).mode = .u ∧ xh.handler = true) :=
  ⟨⟨stage_dev _ _ rfl rfl (by decide) rfl rfl rfl rfl, .inl rfl, by unfold LastWord; decide⟩, baseH_dev, .inl rfl, by unfold LastWord; decide⟩

/-- Elements that are a NaN, an infinity and numbers, of FP16; a loss of `align_add`, and a result beyond the greatest exponent; an exact
tile; a TLOAD that finds a loop running. -/
theorem witness_MatrixSteps_sums :
    (FNum.mul ((floatOf 1).value 0x7E00) ((floatOf 1).value 0) = .nan ∧ FNum.mul ((floatOf 1).value 0x7C00) ((floatOf 1).value 0x3C00) = .inf false ∧
      FNum.mul ((floatOf 1).value 0xFC00) ((floatOf 1).value 0x3C00) = .inf true ∧ (∃ e, FNum.mul ((floatOf 1).value 0x3C00) ((floatOf 1).value 0x3C00) = .fin false 1048576 e) ∧
      fmtWidth 1 = fmtWidth 2 ∧ fmtWidth 3 = fmtWidth 4) ∧
    ((127 : Int) < 127 + (1 : Nat) ∧ 126 + (1 : Nat) ≤ (127 : Int) ∧ (65 : Int) / 2 ^ 1 * 2 ^ 1 ≠ 65 ∧ (64 : Int) / 2 ^ 1 * 2 ^ 1 = 64) ∧
    (({ matrixCore with banks := [(2, { state := .el, unit := 1, token := .vector 0 false })] } : Core).bank 2).state = .el ∧
    (let k : Core := { matrixCore with steps := [{ aStep with loop := some aLoop }] }
     IssuesEng (regs pU k 0 fillCtl7) x0 1 [1, 2] ∧ k.holdsSlot 0 7 = true ∧ k.loopHolds (slotMask [7]) = true ∧
       (regs pU k 0 fillCtl7).ownReads x0 0 64 = false) := by
  refine ⟨⟨by decide, by decide, by decide, ⟨-20, by decide⟩, by decide⟩, by decide, by decide, regs_eng _ _ _ _ _ rfl, by decide⟩

/-! ## Witnesses: the issue slot, the trace, migration, security, the package -/

/-- M-mode code, and nothing at issue; the same split in slot 3 too. -/
def idle : State := (codeM 0x13).setCore 0 { (codeM 0x13).core 0 with issuing := none }
def idleTwo : State := idle.setGroup 0 3 { idle.grp x0 with prio := 1 }

/-- The one split of `idle` is the only one that may issue. -/
theorem idle_one {sl sp : Nat} {g : Group} (h : Claims.MayIssue idle 0 sl sp g) : (sl, sp) = (0, 0) := by
  obtain ⟨h4, h3, hg, hu, -⟩ := h
  match sl, h4, hg with
  | 0, _, hg =>
    cases (show idle.group 0 0 = some (idle.grp x0) from rfl) ▸ hg
    match sp, h3, hu with
    | 0, _, _ => rfl
  | 1, _, hg => cases hg
  | 2, _, hg => cases hg
  | 3, _, hg => cases hg
  | 4, _, hg => cases hg

/-- The level of the interrupt of `timed`, with nothing at issue. -/
def timedIdle : State := timed.setCore 0 { timed.core 0 with issuing := none }

theorem witness_CachesAndSlotEvents_issue :
    (Claims.MayIssue idle 0 0 0 (idle.grp x0) ∧ (idle.core 0).issuing = none ∧ (codeM 0x13).core 0 ≠ idle.core 0 ∧
      (∀ e ∈ (idle.grp x0).splits, e.2.wake = none ∧ e.2.held = []) ∧
      ∀ sl sp g, Claims.MayIssue idle 0 sl sp g → (sl, sp) ≠ (0, 0) → Claims.Precedes idle 0 0 0 (idle.grp x0) sl sp g) ∧
    (Claims.MayIssue idleTwo 0 0 0 (idleTwo.grp x0) ∧ Claims.MayIssue idleTwo 0 3 0 (idleTwo.grp { x0 with sl := 3 }) ∧
      Claims.Precedes idleTwo 0 3 0 (idleTwo.grp { x0 with sl := 3 }) 0 0 (idleTwo.grp x0)) ∧
    (Claims.MayIssue timedIdle 0 0 0 (timedIdle.grp x0) ∧ timedIdle.takeable 0 0 pU = some (7, .m)) ∧
    (∀ sl sp g, ¬ Claims.MayIssue State.reset 0 sl sp g) ∧
    (lostWord.flawAt x0 (.hbm 0x9000) true = some { core := 0, slot := 0, struct := 1, pass := true, fetch := true }) ∧
    (let p : Split := { pM with pc := 0x9000, window := true }
     idle.native (idle.grp x0) p.pc = true ∧ idle.fetch 0 (idle.grp x0) .m 0x9000 = .word 0x13 ∧ clhWaits 0x13 = none ∧
       clhWaits 0x3FE0718B ≠ none) := by
  refine ⟨⟨by unfold Claims.MayIssue; decide, by decide, by decide, by decide, fun _ _ _ h hn => absurd (idle_one h) hn⟩,
    by unfold Claims.MayIssue Claims.Precedes; decide, by unfold Claims.MayIssue; decide, ?_, by decide, by decide⟩
  rintro sl sp g ⟨-, -, h, -⟩
  cases h

/-- Trace slot 0 of core 0 is on; the ring of its die has 128 records, and this many are in it. -/
def tracing (prod : Word32) : State := { stage mapped pU g64 { tctl := 0x0B81000000000000, traces := [(0, { on := true })] } with
  dies := [(0, { trbase := 0x4000, trprod := prod })] }

theorem witness_DebugAndSaves_trace :
    ∀ prod : Word32, prod = 0 ∨ prod = 127 ∨ prod = 128 → (tracing prod).group 0 0 = some ((tracing prod).grp x0) ∧
      (tracing prod).traced 0 0 = true ∧ (((tracing prod).core 0).trace 0).on = true ∧ ((tracing prod).core 0).full 0 = false ∧
      (∃ e ∈ ((tracing prod).grp x0).splits, e.2.mode = .u) ∧ (((tracing prod).core 0).trace 0).need = [] ∧
      ((tracing prod).core 0).emits < (((tracing prod).core 0).trace 0).since + 4096 ∧
      (prod = 128 → 2 ^ ((((tracing prod).die 0).trbase.extractLsb' 0 4).toNat + 7) ≤ (((tracing prod).die 0).trprod - 0).toNat) := by
  rintro prod (rfl | rfl | rfl) <;> decide

/-- The debug port addresses the group in slot 0, halted or not. -/
theorem witness_DebugAndSaves_one : (ported unit1 false { dunit := 0x200000 }).dbgTarget { dunit := 0x200000 } = some (1, some (0, 0)) ∧
    (ported unit1 true { dunit := 0x200000 }).dbgTarget { dunit := 0x200000 } = some (1, some (0, 0)) := by decide

/-- A final round of which the snapshot has reported nothing, something, and something in the fourth of them; a job with a placed unit. -/
theorem witness_Migration_rounds :
    (let s : State := { migrating 4 [] true with mig := { (migrating 4 [] true).mig with todo := [0x1000], reported := 1, finals := 3 } }
     s.mig.phase = 4 ∧ s.mig.todo = 0x1000 :: [] ∧ s.mig.reported ≠ 0 ∧ 3 ≤ s.mig.finals) ∧
    ((migrating 4 [] true).mig.reported = 0 ∧ (migrating 4 [] true).mig.finals < 3) ∧
    (let s : State := { migrating 1 [] true with units := [(1, { unit1 with job := 7 })] }
     s.jobUnits = [1] ∧ s.registered s.mig.job = true ∧ (s.unit 1).saving = false) := by decide

/-- The header of a record of this kind and of n bytes, from the sender, for page 0. -/
def recHead (kind n : Nat) : List Byte := leBytes (kind + 2 ^ 8 + 2 ^ 32 + n * 2 ^ 224) 32

/-- The receiver has applied OPEN, whose ranges are page 0; images are stored from 0x8000 on. -/
def receiving (size applied : Nat) : State := { flowing 7 with
  pins := [(0, (0xDF, 0))]
  mig := { (flowing 7).mig with opened := true, ranges := [(0, 1)], imgarea := 0x8000, imgsize := size, applied := applied } }

/-- Every body can be sealed for it: here are a DISCARD, an IMAGE that fits and one that does not, a JOB and a FIN of either kind. -/
theorem witness_Migration_received :
    (∀ s d kind, d.length < 2 ^ 32 → (s = receiving 64 0 ∨ s = receiving 63 0) →
      let q := aesGcmSeal s.migKey (streamNonce (BitVec.ofNat 256 (leValue (recHead kind d.length)))) (recHead kind d.length) d
      Claims.recordBody s (recHead kind d.length) q.1 q.2 = some d) ∧
    (∀ q ∈ [(3, 0), (4, 64), (5, 0), (6, 8)], let kind := q.1; let n := q.2
      (receiving 64 0).recvable 0 (recHead kind n) = true ∧
      hdrField (recHead kind n) 0 8 = kind ∧ hdrField (recHead kind n) 8 8 = 1 ∧ hdrField (recHead kind n) 16 16 = 0 ∧
      hdrField (recHead kind n) 128 32 = 0 ∧ hdrField (recHead kind n) 224 32 = n ∧ hdrField (recHead kind n) 160 48 = 0) ∧
    ((receiving 64 0).mig.phase = 7 ∧ (receiving 64 0).mig.opened = true ∧ (receiving 64 0).mig.held = [] ∧ (receiving 64 0).mig.fin = none ∧
      (receiving 64 0).frameAt 0 (sextVa 0) = some 0 ∧ (receiving 64 0).leaseCovers 0 0 = false ∧
      (receiving 64 0).frameLeased 0 = false) ∧
    ((receiving 64 0).mig.imgused + 64 ≤ (receiving 64 0).mig.imgsize ∧ (receiving 63 0).mig.imgsize < (receiving 63 0).mig.imgused + 64) ∧
    (leValue (leBytes 1 8) = (receiving 64 0).mig.applied + 1 ∧ leValue (leBytes 2 8) ≠ (receiving 64 0).mig.applied + 1) :=
  ⟨fun _ _ _ _ _ => aesGcmOpen_seal _ _ _ _, by decide, by decide, by decide, by decide⟩

/-- Both mailboxes ready, one BUSY that has its turn, and one that has not. -/
theorem witness_SecurityMailbox_ready :
    (∀ host, Claims.MailReady ready host) ∧
    (let s : State := { ready with sec := { ready.sec with host := { busy := true }, turn := [(true, 1, 0)] } }
     (s.mailbox true).busy = true ∧ s.sec.turn = (true, 1, 0) :: [] ∧ s.sec.runs = true) ∧
    (let s : State := { ready with sec := { ready.sec with host := { busy := true } } }
     (s.mailbox true).busy = true ∧ ∀ n rest, s.sec.turn ≠ (true, 1, n) :: rest) ∧
    (State.reset.power.ready = false ∧ (State.reset.mailbox true).busy = false ∧ State.reset.sec.turn = []) := by
  refine ⟨?_, by decide, ⟨rfl, fun _ _ h => by cases h⟩, by decide⟩
  intro host
  cases host <;> (unfold Claims.MailReady; decide)

/-- A connection before and after its algorithms, with an exchange under way and without; a block of leaves used up, the last one, and none
after it. -/
theorem witness_KeysAndSessions_blocks :
    ready.sec.spdm.stage ≠ 3 ∧ (let z : Security := { spdm := { stage := 3, fin := [1] } }; z.spdm.stage = 3 ∧ z.spdm.fin ≠ []) ∧
    (let z : Security := { spdm := { stage := 3 } }; z.spdm.fin = [] ∧ z.lcs ≠ 0 ∧ z.lcs ≠ 4) ∧
    (ready.sec.leaf = 1024 ∧ ready.sec.next + 1024 ≤ 2 ^ 20) ∧
    (let z : Security := { next0 := { seq := 1, value := 2 ^ 20 } }; z.leaf = 1024 ∧ 2 ^ 20 < z.next + 1024) := by decide

theorem witness_Package_power :
    (State.reset.power.off = false ∧ ({ State.reset with power := { off := true } } : State).power.off = true) ∧
    (let s : State := { State.reset with jobs := [(7, {})] }
     Map.find s.jobs (7 : BitVec 16).toNat ≠ none ∧ 0 + 64 ≤ 64 ∧ (s.die 0).badGroups = 0 ∧ s.regions = []) ∧
    (let p : Power := { bstep := 4 }
     p.ready = false ∧ p.failed = false ∧ 2 ≤ p.bstep.toNat ∧ p.bstep ≠ 0 ∧ p.bstep ≠ 1) ∧
    (let z : Security := { lcf := 31 }
     z.lcs = 4) ∧
    (State.reset.sec.acceptFirmware 0 [] [] = none) ∧ State.reset.sec.level.toNat < 2 ∧ (jobbed.power.exec = false) := by
  decide

/-! ## Words the spec prints, and what they stand for (the worked lines of 05, 06, 07, 08, 09, 10, 11, 12, 13, 14, 15, 17) -/

theorem test_printed_hart :
    decodeWord 0x3FE0718B#32 0#32 = some (.clh 0#2 7#3 7#3 7#3 0#3 0#3 3#4) ∧
    decodeWord 0x3FFC718B#32 0#32 = some (.clh 0#2 7#3 7#3 7#3 7#3 0#3 3#4) ∧
    decodeWord 0x0201610B#32 0#32 = some (.fmt 1#3 0#5 2#5 2#5) ∧
    decodeWord 0x47FC300B#32 0#32 = some (.waitc 7#3 7#3 7#3 0#3) ∧
    decodeWord 0x40FFB00B#32 0#32 = some (.waitc 0#3 7#3 7#3 7#3) ∧
    decodeWord 0x6415200B#32 0#32 = some (.movyYn 200#9 10#5) ∧
    decodeWord 0x0E00150B#32 0#32 = some (.lq 10#5 0#5) ∧
    decodeWord 0x0001900B#32 0#32 = some (.mpush 3#3) ∧
    decodeWord 0x1500300B#32 0#32 = some (.fenceS 2#2 5#3) ∧
    decodeWord 0x0B00300B#32 0#32 = some (.fenceS 1#2 3#3) ∧
    decodeWord 0x0500300B#32 0#32 = some (.fenceS 0#2 5#3) ∧
    decodeWord 0x2060300B#32 0#32 = some (.qfence 3#7) ∧
    decodeWord 0x2FE0300B#32 0#32 = some (.qfence 127#7) := by
  decide

theorem test_printed_units :
    decodeWord 0x4EC5850B#32 0#32 = some (.discard 10#5 11#5 12#5) ∧
    decodeWord 0x41C3800B#32 0#32 = some (.cpyk 7#5 28#5) ∧
    decodeWord 0x4262800B#32 0#32 = some (.barinit 5#5 6#5) ∧
    decodeWord 0x4602850B#32 0#32 = some (.barwait 10#5 5#5 0#5) ∧
    decodeWord 0x2002830B#32 0#32 = some (.tclaim 6#5 5#5) ∧
    decodeWord 0x2A028A8B#32 0#32 = some (.accalloc 21#5 5#5) ∧
    decodeWord 0x3400000B#32 0#32 = some .btake ∧
    decodeWord 0x25FF000B#32 0#32 = some (.tload 30#5 31#5) ∧
    decodeWord 0x2603000B#32 0#32 = some (.mma 6#5) ∧
    decodeWord 0x36028F0B#32 0#32 = some (.bpass 30#5 5#5) ∧
    decodeWord 0x31D30F0B#32 0#32 = some (.tgive 30#5 6#5 29#5) ∧
    decodeWord 0x32028A8B#32 0#32 = some (.ttake 21#5 5#5) ∧
    decodeWord 0x4C02850B#32 0#32 = some (.bar 10#5 5#5) ∧
    decodeWord 0x5002850B#32 0#32 = some (.barA 10#5 5#5) ∧
    decodeWord 0x52B2850B#32 0#32 = some (.barW 10#5 5#5 11#5) := by
  decide

theorem test_printed_tasks :
    decodeWord 0x60C38E8B#32 0#32 = some (.msend 29#5 7#5 12#5) ∧
    decodeWord 0x6250030B#32 0#32 = some (.mchan 6#5 0#5 5#5) ∧
    decodeWord 0x6400000B#32 0#32 = some .hend ∧
    decodeWord 0x66C5850B#32 0#32 = some (.spawn 10#5 11#5 12#5) ∧
    decodeWord 0x6800050B#32 0#32 = some (.steal 10#5 0#5 0#5) ∧
    decodeWord 0x6A00050B#32 0#32 = some (.tdone 10#5) ∧
    decodeWord 0x6C02850B#32 0#32 = some (.rfork 10#5 5#5) ∧
    decodeWord 0x6E06800B#32 0#32 = some (.join 13#5) ∧
    decodeWord 0x8405850B#32 0#32 = some (.depdec 10#5 11#5) ∧
    decodeWord 0x86C5850B#32 0#32 = some (.launch 10#5 11#5 12#5) ∧
    decodeWord 0x88C5850B#32 0#32 = some (.cancel 10#5 11#5 12#5) ∧
    decodeWord 0xA1E2830B#32 0#32 = some (.cbpush 6#5 5#5 30#5) ∧
    decodeWord 0xA200000B#32 0#32 = some (.cbdone 0#5) ∧
    decodeWord 0xA402830B#32 0#32 = some (.cbflush 6#5 5#5) ∧
    decodeWord 0xC002800B#32 0#32 = some (.gate 5#5) ∧
    decodeWord 0xC200000B#32 0#32 = some .gret ∧
    decodeWord 0xC462850B#32 0#32 = some (.gabort 10#5 5#5 6#5) := by
  decide

theorem test_printed_lanes :
    decodeWord 0x801000AB#32 0x2100#32 = some (.ladd (some 0x2100#32) 1#6 0#6 2#6) ∧
    decodeWord 0x822021AB#32 0x08000000#32 = some (.lsub (some 0x08000000#32) 3#6 1#6 4#6) ∧
    decodeWord 0x001862AB#32 0#32 = some (.ladd none 5#6 3#6 3#6) ∧
    decodeWord 0xAE0042AB#32 0x42#32 = some (.lmov (some 0x42#32) 5#6 2#6) ∧
    decodeWord 0x8010412B#32 0x21#32 = some (.ladd (some 0x21#32) 2#6 2#6 2#6) ∧
    decodeWord 0xAE00432B#32 0xA7#32 = some (.lmov (some 0xA7#32) 6#6 2#6) ∧
    decodeWord 0x300000AB#32 0#32 = some (.lidx none 1#6) ∧
    decodeWord 0x0FF8825B#32 0#32 = some (.laddi none 4#6 4#6 511#9) ∧
    decodeWord 0x0050A2FB#32 0#32 = some (.laddx none 5#6 5#6 10#5) ∧
    decodeWord 0x0028217B#32 0#32 = some (.laddx none 2#6 1#6 5#5) ∧
    decodeWord 0x70A0025B#32 0#32 = some (.lmovi none 4#6 20#9) ∧
    decodeWord 0x16082353#32 0#32 = some (.lfcvt none 6#6 1#6 1#3) ∧
    decodeWord 0x1A102153#32 0#32 = some (.lfcmpLt none 2#3 1#6 2#6) ∧
    decodeWord 0x06102443#32 0#32 = some (.lfma none 8#6 1#6 2#6 3#6) := by
  decide

theorem test_printed_groups :
    decodeWord 0x00002257#32 0#32 = some (.lmatch none 4#6 1#6) ∧
    decodeWord 0x02002257#32 0#32 = some (.lmatchF none 4#6 1#6) ∧
    decodeWord 0x0A0023D7#32 0#32 = some (.lreduceFadd none 7#6 1#6) ∧
    decodeWord 0x0C0041D7#32 0#32 = some (.lscanAdd none 3#6 2#6) ∧
    decodeWord 0x10002357#32 0#32 = some (.lballot none 6#6 1#6) ∧
    decodeWord 0x121020D7#32 0#32 = some (.lwhileLt none 1#3 1#6 2#6) ∧
    decodeWord 0x20102057#32 0#32 = some (.mand 0#3 1#3 2#3) ∧
    decodeWord 0x300841D7#32 0#32 = some (.lshflUp none 3#6 2#6 1#6) ∧
    decodeWord 0x344862D7#32 0#32 = some (.lshflIdx none 5#6 3#6 9#6) ∧
    decodeWord 0x08A04207#32 0#32 = some (.lld 2#6 0#1 0#2 4#6 10#5 2#5) ∧
    decodeWord 0x005422A7#32 0#32 = some (.lst 0#6 0#1 1#2 5#6 5#5 1#5) ∧
    decodeWord 0x2958637B#32 0#32 = some (.lldc none 2#2 1#2 6#6 11#5 3#6) ∧
    decodeWord 0x415043FB#32 0#32 = some (.latom none 0#1 0#2 1#3 7#6 10#5 2#6) ∧
    decodeWord 0x113002FB#32 0#32 = some (.accrd none 5#6 6#5) ∧
    decodeWord 0x123002FB#32 0#32 = some (.accwr none 5#6 6#5) ∧
    decodeWord 0x13A8257B#32 0#32 = some (.cbtake none 10#6 1#3 21#5) := by
  decide

/-- The words of an instruction of two words lie one after the other, each in little-endian order. -/
theorem test_decode_two_words :
    decode (bytesOfWord 0xAE0042AB#32 ++ bytesOfWord 0x42#32) = .ok (.lmov (some 0x42#32) 5#6 2#6, []) := by
  rfl

/-- All zeros, all ones and a word of an unassigned opcode are no instruction. -/
theorem test_decode_reserved :
    decodeWord 0#32 0#32 = none ∧ decodeWord 0xFFFFFFFF#32 0#32 = none ∧ decodeWord 0x0000700C#32 0#32 = none := by
  decide

/-! ## Single steps against the spec's worked examples -/

/-- The state after an instruction, or reset where it gives none. -/
def after (r : Result) : State :=
  match r with
  | .next t => t
  | .fault _ => State.reset
  | .refused _ => State.reset

/-- The lanes of a vector register with the values f. -/
def row (r : Nat) (f : Nat → Nat) : Map Word32 :=
  (List.range 32).filterMap (fun l => if f l % 2 ^ 32 = 0 then none else some (r * 32 + l, BitVec.ofNat 32 (f l)))

/-- What the lanes ls of a register hold. -/
def lanesOf (s : State) (r : BitVec 6) (ls : List Nat) : List Nat := ls.map (fun l => ((s.grp x0).v32 r l).toNat)

def lanesAt (p : Split) (v : Map Word32) : State := stage mapped p { g64 with v := v } {}

/-- Lanes 28-31 have exited and lanes 16-27 are active (07 Tables 7.12, 7.13). -/
def pEdge : Split := { pU with m0 := 0x0FFF0000, lanes := 0x0FFFFFFF }

def edgeExited : State := stage mapped pEdge { g64 with v := row 2 (fun l => 100 + l), exited := 0xF0000000 } {}

/-- 07 Table 7.13, v5: a lane reads the lane two above it, 0 from an exited lane; inactive lanes keep theirs. -/
theorem test_lmov_down :
    lanesOf (after (Sys2Proof.Machine.execLmov (some 0x42#32) 5#6 2#6 edgeExited)) 5#6 [15, 16, 17, 24, 25, 26, 27, 28] =
      [0, 118, 119, 126, 127, 0, 0, 0] := by
  decide +kernel

/-- The row of 07 Table 7.13 for v2, after the LADD. -/
def summed : Nat → Nat := fun l => if 16 ≤ l ∧ l < 28 then 231 + 2 * (l - 16) else 100 + l

/-- 07 Table 7.13, v2: a lane adds the old value of the lane below it. -/
theorem test_ladd_up :
    lanesOf (after (Sys2Proof.Machine.execLadd (some 0x21#32) 2#6 2#6 2#6 edgeExited)) 2#6 [15, 16, 17, 27, 28] =
      [115, 231, 233, 253, 128] := by
  decide +kernel

/-- 07 Table 7.13, v6: lane l reads lane (l + 37) mod 32. -/
theorem test_lmov_indexed :
    lanesOf (after (Sys2Proof.Machine.execLmov (some 0xA7#32) 6#6 2#6
      (stage mapped pEdge { g64 with v := row 2 summed ++ row 7 (fun l => l + 37), exited := 0xF0000000 } {}))) 6#6
      [16, 17, 22, 23, 26, 27] = [241, 243, 253, 0, 0, 100] := by
  decide +kernel

/-- The keys of 08 Table 8.3. -/
def keys : State :=
  lanesAt { pU with m0 := 0x7F } (row 1 (fun l => [0x3F800000, 0x80000000, 0, 0x7FC00000, 0x3F800000, 0x7FC00000, 0x7FC00001,
    0x3F800000].getD l 0) ++ row 4 (fun _ => 0xFFFFFFFF))

/-- 08 Table 8.3: bitwise keys; an inactive lane neither takes part nor is written. -/
theorem test_lmatch :
    lanesOf (after (Sys2Proof.Machine.execLmatch none 4#6 1#6 keys)) 4#6 [0, 1, 2, 3, 4, 5, 6, 7] =
      [0x11, 2, 4, 0x28, 0x11, 0x28, 0x40, 0xFFFFFFFF] := by
  decide +kernel

/-- 08 Table 8.3: numeric keys; zeros match, a NaN matches its own lane alone. -/
theorem test_lmatchF :
    lanesOf (after (Sys2Proof.Machine.execLmatchF none 4#6 1#6 keys)) 4#6 [0, 1, 2, 3, 4, 5, 6, 7] =
      [0x11, 6, 6, 8, 0x11, 0x20, 0x40, 0xFFFFFFFF] := by
  decide +kernel

/-- 08, a loop tail: lanes from the first failing lane on are cleared; lanes outside the active set keep their bits. -/
theorem test_lwhile :
    let v := fun m a => { (lanesAt { pU with m0 := m } (row 1 (fun l => if l = 3 then a else 40 + l) ++ row 2 (fun _ => 50))) with focus := 0 }
    let m1 := fun s => ((after (Sys2Proof.Machine.execLwhileLt none 1#3 1#6 2#6 s)).grp x0).mask 0 1#3
    m1 (v 0xFFFFFFFF 43) = 0x3FF ∧ m1 (v 0xFFFFFFF7 99) = 0x3F7 ∧ m1 (v 0xFFFFFFFF 99) = 7 := by
  decide +kernel

/-- The addends of 08, order of a floating sum: 2^24, 1, 1, 1. -/
def addends (rm : BitVec 3) : State :=
  let f := row 1 (fun l => if l = 0 then 0x4B800000 else 0x3F800000)
  let p : Split := { pU with m0 := 0xF, fmt := if rm = 0 then none else some (rm ++ 0#15) }
  stage mapped p { g64 with v := f } {}

/-- 08, order of a floating sum: under RNE every partial sum rounds back to 2^24. -/
theorem test_scan_rne :
    lanesOf (after (Sys2Proof.Machine.execLscanFadd none 2#6 1#6 (addends 0))) 2#6 [0, 1, 2, 3] =
      [0x4B800000, 0x4B800000, 0x4B800000, 0x4B800000] := by
  decide +kernel

/-- 08, order of a floating sum: under RUP the sums are 2^24 + 2, + 4, + 6. -/
theorem test_scan_rup :
    lanesOf (after (Sys2Proof.Machine.execLscanFadd none 2#6 1#6 (addends 3))) 2#6 [0, 1, 2, 3] =
      [0x4B800000, 0x4B800001, 0x4B800002, 0x4B800003] := by
  decide +kernel

/-- The two halves of 09 Table 9.4 before the rotate: v2 is 100 + l in half 0 and 200 + l in half 1. -/
def halves : State :=
  stageIn 0 mapped { pU with m0 := 0xFFFF, lanes := 0xFFFF }
    { g64 with lw16 := true, v := row 2 (fun l => if l < 16 then 100 + l else 184 + l) } {}

/-- 09 Table 9.4, v3: the rotate stays in the half. -/
theorem test_lshfl_half :
    lanesOf (after (Sys2Proof.Machine.execLshflUp none 3#6 2#6 1#6 halves)) 3#6 [0, 1, 4, 15, 16] = [115, 100, 103, 114, 0] := by
  decide +kernel

/-! ## Hart instructions on corner operands, results by hand from the ratified definitions (06 R119, R120) -/

/-- x5 = a and x6 = b in the split of the issue slot. -/
def two (a b : Word64) : State := (base.setX x0 5#5 a).setX x0 6#5 b

/-- x7 after an instruction. -/
def x7 (r : Result) : Word64 := (after r).x x0 7#5

theorem test_lui : x7 (Sys2Proof.Machine.execLui 7#5 0x80000#20 base) = 0xFFFFFFFF80000000 := by decide +kernel

theorem test_addw : x7 (Sys2Proof.Machine.execAddw 7#5 5#5 6#5 (two 0x7FFFFFFF 1)) = 0xFFFFFFFF80000000 := by decide +kernel

theorem test_sraw : x7 (Sys2Proof.Machine.execSraw 7#5 5#5 6#5 (two 0x80000000 33)) = 0xFFFFFFFFC0000000 := by decide +kernel

theorem test_mulh : x7 (Sys2Proof.Machine.execMulh 7#5 5#5 6#5 (two 0xFFFFFFFFFFFFFFFF 2)) = 0xFFFFFFFFFFFFFFFF := by decide +kernel

theorem test_sltu : x7 (Sys2Proof.Machine.execSltu 7#5 5#5 6#5 (two 1 0xFFFFFFFFFFFFFFFF)) = 1 := by decide +kernel

/-- x0 discards what is written. -/
theorem test_x0 : (after (Sys2Proof.Machine.execAddi 0#5 5#5 1#12 (two 4 0))).x x0 0#5 = 0 := by decide +kernel

/-- A jump clears bit 0 of its target and links past itself, from a register that is also its destination. -/
theorem test_jalr :
    let t := after (Sys2Proof.Machine.execJalr 5#5 5#5 0#12 (two 0x7F0000000101 0))
    (t.spl x0).pc = 0x7F0000000100 ∧ t.x x0 5#5 = 0x7F0000000004 := by decide +kernel

/-- A signed branch over a negative first operand is not taken. -/
theorem test_bge :
    ((after (Sys2Proof.Machine.execBge 5#5 6#5 8#12 (two 0xFFFFFFFFFFFFFFFF 0))).spl x0).pc = 0x7F0000000004 := by decide +kernel

/-- 06 R132: MPUSH keeps the old m0 on the stack and leaves its meet with the mask. -/
theorem test_mpush :
    let t := after (Sys2Proof.Machine.execMpush 3#3 (stage mapped { pU with m0 := 0xFF } { g64 with m := [(3, 0xF0F)] } {}))
    (t.spl x0).m0 = 0xF ∧ (t.spl x0).depth = 1 ∧ (t.spl x0).stack = [(0, 0xFF)] := by decide +kernel

/-- 16 R315-R317: an environment call of U-mode that M-mode delegates enters S-mode with cause 8 and the call's pc. -/
theorem test_ecall :
    let s := base.setSlot 0 0 { (base.slot 0 0) with medeleg := 0x100 }
    let t := after (Sys2Proof.Machine.execEcall s)
    (t.grp x0).csr.scause = 8 ∧ (t.grp x0).csr.sepc = 0x7F0000000000 ∧ (t.spl x0).mode = .s := by decide +kernel

/-- 09 R175: a 16-lane half sees its own lanes of a mask from bit 0. -/
theorem test_mrd_half :
    let s := stageIn 0 mapped { pU with m0 := 0xFFFF, lanes := 0xFFFF } { g64 with lw16 := true, m := [(3, 0x12345678)] } {}
    x7 (Sys2Proof.Machine.execMrd 7#5 3#3 s) = 0x5678 := by decide +kernel

/-! ## Well-formedness: a term that each check refuses (05 R92, R93, 07 Table 7.3) -/

theorem test_wf_counts :
    Instr.wf (.clh 0#2 7#3 7#3 7#3 7#3 0#3 0#4) = false ∧ Instr.wf (.clh 0#2 7#3 7#3 7#3 7#3 0#3 1#4) = true ∧
    Instr.wf (.fenceS 3#2 0#3) = false ∧ Instr.wf (.fenceS 2#2 0#3) = true ∧
    Instr.wf (.lq 1#5 9#5) = false ∧ Instr.wf (.lq 1#5 8#5) = true ∧
    Instr.wf (.lbr 4#3 0#3 0#14) = false ∧ Instr.wf (.lbr 3#3 0#3 0#14) = true := by
  decide

/-- A prefix names listed formats and a listed rounding mode. -/
theorem test_wf_fmt :
    Instr.wf (.fmt 0#3 6#5 0#5 0#5) = false ∧ Instr.wf (.fmt 0#3 0#5 7#5 0#5) = false ∧ Instr.wf (.fmt 0#3 0#5 0#5 11#5) = false ∧
    Instr.wf (.fmt 5#3 0#5 0#5 0#5) = false ∧ Instr.wf (.fmt 4#3 14#5 5#5 8#5) = true := by
  decide

/-- Register pairs and quads. -/
theorem test_wf_registers :
    Instr.wf (.msend 1#5 1#5 0#5) = false ∧ Instr.wf (.msend 1#5 1#5 6#5) = false ∧ Instr.wf (.msend 1#5 1#5 4#5) = true ∧
    Instr.wf (.steal 3#5 0#5 0#5) = false ∧ Instr.wf (.steal 0#5 0#5 0#5) = false ∧ Instr.wf (.steal 2#5 0#5 0#5) = true ∧
    Instr.wf (.rfork 5#5 1#5) = false ∧ Instr.wf (.rfork 0#5 1#5) = false ∧ Instr.wf (.rfork 4#5 1#5) = true := by
  decide

/-- Unassigned widths, hints and spaces; an instruction that takes no field of a modifier word. -/
theorem test_wf_spaces :
    Instr.wf (.lldc none 3#2 0#2 0#6 0#5 0#6) = false ∧ Instr.wf (.lldc none 0#2 3#2 0#6 0#5 0#6) = false ∧
    Instr.wf (.lstc none 3#2 0#2 0#6 0#5 0#6) = false ∧ Instr.wf (.lstc none 0#2 3#2 0#6 0#5 0#6) = false ∧
    Instr.wf (.lldc none 2#2 2#2 0#6 0#5 0#6) = true ∧ Instr.wf (.lldc (some 0x2100#32) 0#2 0#2 0#6 0#5 0#6) = false ∧
    Instr.wf (.lstc (some 0x01000000#32) 0#2 0#2 0#6 0#5 0#6) = false ∧ Instr.wf (.latom (some 0x2100#32) 0#1 0#2 0#3 0#6 0#5 0#6) = false ∧
    Instr.wf (.lld 0#6 0#1 3#2 0#6 0#5 0#5) = false ∧ Instr.wf (.lst 0#6 0#1 3#2 0#6 0#5 0#5) = false ∧
    Instr.wf (.lld 0#6 0#1 2#2 0#6 0#5 0#5) = true ∧ Instr.wf (.accrd (some 1#32) 0#6 0#5) = false ∧
    Instr.wf (.accwr (some 1#32) 0#6 0#5) = false ∧ Instr.wf (.cbtake (some 1#32) 0#6 0#3 0#5) = false := by
  decide

/-- Bit 31 of a modifier word is reserved, and route kinds 6 and 7 are. -/
theorem test_wf_modifier :
    Instr.wf (.ladd (some 0x80000000#32) 0#6 0#6 0#6) = false ∧ Instr.wf (.ladd (some 0xC0#32) 0#6 0#6 0#6) = false ∧
    Instr.wf (.ladd (some 0xE000#32) 0#6 0#6 0#6) = false ∧ Instr.wf (.lfma (some 0xC00000#32) 0#6 0#6 0#6 0#6) = false ∧
    Instr.wf (.ladd (some 0x7F00A742#32) 0#6 0#6 0#6) = true := by
  decide

/-! A route for a source that an instruction has not, or a result field that it does not accept. -/

theorem test_wf_lane_1 :
    Instr.wf (.ladd (some 0x10000#32) 1#6 1#6 1#6) = false ∧
    Instr.wf (.lsub (some 0x10000#32) 1#6 1#6 1#6) = false ∧
    Instr.wf (.lmul (some 0x10000#32) 1#6 1#6 1#6) = false ∧
    Instr.wf (.lmulh (some 0x08000000#32) 1#6 1#6 1#6) = false ∧
    Instr.wf (.lmulhu (some 0x08000000#32) 1#6 1#6 1#6) = false ∧
    Instr.wf (.lmin (some 0x08000000#32) 1#6 1#6 1#6) = false ∧
    Instr.wf (.lmax (some 0x08000000#32) 1#6 1#6 1#6) = false ∧
    Instr.wf (.lminu (some 0x08000000#32) 1#6 1#6 1#6) = false ∧
    Instr.wf (.lmaxu (some 0x08000000#32) 1#6 1#6 1#6) = false ∧
    Instr.wf (.land (some 0x08000000#32) 1#6 1#6 1#6) = false := by
  decide

theorem test_wf_lane_2 :
    Instr.wf (.lor (some 0x08000000#32) 1#6 1#6 1#6) = false ∧
    Instr.wf (.lxor (some 0x08000000#32) 1#6 1#6 1#6) = false ∧
    Instr.wf (.landn (some 0x08000000#32) 1#6 1#6 1#6) = false ∧
    Instr.wf (.lsll (some 0x08000000#32) 1#6 1#6 1#6) = false ∧
    Instr.wf (.lsrl (some 0x08000000#32) 1#6 1#6 1#6) = false ∧
    Instr.wf (.lsra (some 0x08000000#32) 1#6 1#6 1#6) = false ∧
    Instr.wf (.lbext (some 0x40000000#32) 1#6 1#6 1#6) = false ∧
    Instr.wf (.lbextu (some 0x40000000#32) 1#6 1#6 1#6) = false ∧
    Instr.wf (.lbins (some 0x40000000#32) 1#6 1#6 1#6) = false ∧
    Instr.wf (.lpopc (some 0x01000000#32) 1#6 1#6) = false := by
  decide

theorem test_wf_lane_3 :
    Instr.wf (.lclz (some 0x01000000#32) 1#6 1#6) = false ∧
    Instr.wf (.lctz (some 0x01000000#32) 1#6 1#6) = false ∧
    Instr.wf (.lsel (some 0x08000000#32) 1#6 1#6 1#6) = false ∧
    Instr.wf (.lmov (some 0x01000000#32) 1#6 1#6) = false ∧
    Instr.wf (.lidx (some 0x21#32) 1#6) = false ∧
    Instr.wf (.lcmpEq (some 0x40000000#32) 1#3 1#6 1#6) = false ∧
    Instr.wf (.lcmpNe (some 0x40000000#32) 1#3 1#6 1#6) = false ∧
    Instr.wf (.lcmpLt (some 0x40000000#32) 1#3 1#6 1#6) = false ∧
    Instr.wf (.lcmpGe (some 0x40000000#32) 1#3 1#6 1#6) = false ∧
    Instr.wf (.lcmpLtu (some 0x40000000#32) 1#3 1#6 1#6) = false := by
  decide

theorem test_wf_lane_4 :
    Instr.wf (.lcmpGeu (some 0x40000000#32) 1#3 1#6 1#6) = false ∧
    Instr.wf (.laddi (some 0x100#32) 1#6 1#6 1#9) = false ∧
    Instr.wf (.landi (some 0x01000000#32) 1#6 1#6 1#9) = false ∧
    Instr.wf (.lori (some 0x01000000#32) 1#6 1#6 1#9) = false ∧
    Instr.wf (.lxori (some 0x01000000#32) 1#6 1#6 1#9) = false ∧
    Instr.wf (.lslli (some 0x01000000#32) 1#6 1#6 1#5) = false ∧
    Instr.wf (.lsrli (some 0x01000000#32) 1#6 1#6 1#5) = false ∧
    Instr.wf (.lsrai (some 0x01000000#32) 1#6 1#6 1#5) = false ∧
    Instr.wf (.lmovi (some 0x21#32) 1#6 1#9) = false ∧
    Instr.wf (.laddx (some 0x100#32) 1#6 1#6 1#5) = false := by
  decide

theorem test_wf_lane_5 :
    Instr.wf (.lsubx (some 0x100#32) 1#6 1#6 1#5) = false ∧
    Instr.wf (.lmulx (some 0x100#32) 1#6 1#6 1#5) = false ∧
    Instr.wf (.lminx (some 0x01000000#32) 1#6 1#6 1#5) = false ∧
    Instr.wf (.lmaxx (some 0x01000000#32) 1#6 1#6 1#5) = false ∧
    Instr.wf (.landx (some 0x01000000#32) 1#6 1#6 1#5) = false ∧
    Instr.wf (.lorx (some 0x01000000#32) 1#6 1#6 1#5) = false ∧
    Instr.wf (.lxorx (some 0x01000000#32) 1#6 1#6 1#5) = false ∧
    Instr.wf (.lsllx (some 0x01000000#32) 1#6 1#6 1#5) = false ∧
    Instr.wf (.lsrlx (some 0x01000000#32) 1#6 1#6 1#5) = false ∧
    Instr.wf (.lsrax (some 0x01000000#32) 1#6 1#6 1#5) = false := by
  decide

theorem test_wf_lane_6 :
    Instr.wf (.lmovx (some 0x21#32) 1#6 1#5) = false ∧
    Instr.wf (.lcmpxEq (some 0x2100#32) 1#3 1#6 1#5) = false ∧
    Instr.wf (.lcmpxLt (some 0x2100#32) 1#3 1#6 1#5) = false ∧
    Instr.wf (.lcmpxLtu (some 0x2100#32) 1#3 1#6 1#5) = false ∧
    Instr.wf (.lfaddx (some 0x2100#32) 1#6 1#6 1#5) = false ∧
    Instr.wf (.lfmulx (some 0x2100#32) 1#6 1#6 1#5) = false ∧
    Instr.wf (.lfadd (some 0x210000#32) 1#6 1#6 1#6) = false ∧
    Instr.wf (.lfsub (some 0x210000#32) 1#6 1#6 1#6) = false ∧
    Instr.wf (.lfmul (some 0x210000#32) 1#6 1#6 1#6) = false ∧
    Instr.wf (.lfmin (some 0x210000#32) 1#6 1#6 1#6) = false := by
  decide

theorem test_wf_lane_7 :
    Instr.wf (.lfmax (some 0x210000#32) 1#6 1#6 1#6) = false ∧
    Instr.wf (.lfrcp (some 0x2100#32) 1#6 1#6) = false ∧
    Instr.wf (.lfrsq (some 0x2100#32) 1#6 1#6) = false ∧
    Instr.wf (.lfexp2 (some 0x2100#32) 1#6 1#6) = false ∧
    Instr.wf (.lflog2 (some 0x2100#32) 1#6 1#6) = false ∧
    Instr.wf (.lfsin (some 0x2100#32) 1#6 1#6) = false ∧
    Instr.wf (.lfcos (some 0x2100#32) 1#6 1#6) = false ∧
    Instr.wf (.lfcvt (some 0x2100#32) 1#6 1#6 1#3) = false ∧
    Instr.wf (.lfcmpEq (some 0x08000000#32) 1#3 1#6 1#6) = false ∧
    Instr.wf (.lfcmpLt (some 0x08000000#32) 1#3 1#6 1#6) = false := by
  decide

theorem test_wf_lane_8 :
    Instr.wf (.lfcmpLe (some 0x08000000#32) 1#3 1#6 1#6) = false ∧
    Instr.wf (.lfcmpUn (some 0x08000000#32) 1#3 1#6 1#6) = false ∧
    Instr.wf (.lfma (some 0x80000000#32) 1#6 1#6 1#6 1#6) = false ∧
    Instr.wf (.lfms (some 0x80000000#32) 1#6 1#6 1#6 1#6) = false ∧
    Instr.wf (.lfnms (some 0x80000000#32) 1#6 1#6 1#6 1#6) = false ∧
    Instr.wf (.lfnma (some 0x80000000#32) 1#6 1#6 1#6 1#6) = false ∧
    Instr.wf (.lmatch (some 0x2100#32) 1#6 1#6) = false ∧
    Instr.wf (.lmatchF (some 0x2100#32) 1#6 1#6) = false ∧
    Instr.wf (.lreduceAdd (some 0x2100#32) 1#6 1#6) = false ∧
    Instr.wf (.lreduceMin (some 0x08000000#32) 1#6 1#6) = false := by
  decide

theorem test_wf_lane_9 :
    Instr.wf (.lreduceMax (some 0x08000000#32) 1#6 1#6) = false ∧
    Instr.wf (.lreduceFadd (some 0x08000000#32) 1#6 1#6) = false ∧
    Instr.wf (.lscanAdd (some 0x2100#32) 1#6 1#6) = false ∧
    Instr.wf (.lscanFadd (some 0x08000000#32) 1#6 1#6) = false ∧
    Instr.wf (.lballot (some 0x2100#32) 1#6 1#6) = false ∧
    Instr.wf (.lwhileLt (some 0x08000000#32) 1#3 1#6 1#6) = false ∧
    Instr.wf (.lwhileLtu (some 0x08000000#32) 1#3 1#6 1#6) = false ∧
    Instr.wf (.lshflUp (some 0x21#32) 1#6 1#6 1#6) = false ∧
    Instr.wf (.lshflDn (some 0x21#32) 1#6 1#6 1#6) = false ∧
    Instr.wf (.lshflIdx (some 0x21#32) 1#6 1#6 1#6) = false := by
  decide

theorem test_wf_lane_10 :
    Instr.wf (.lshflXor (some 0x21#32) 1#6 1#6 1#6) = false := by
  decide

end Sys2Proof.Tests
end

section
/-! SUPPORT. LBR, the branch on a mask condition (06 R134): the traps that the checks of 05 R102 raise for a device instruction and for
a control transfer, what the branch tests and where it goes, and obligation O24. -/

namespace Sys2Proof.Machine

/-! ## Checks that fail -/

section Checks

variable {w : Word32} {req : Ctx → State → Req} {body : Ctx → State → Res} {x y : Ctx} {s : State} {r : Req}
  {xs : List (BitVec 5)} {vs : List (BitVec 6)}

/-- An instruction that fails a check of its own traps at its own word, and its effect does not happen (05 R102). -/
theorem issue_raise {code : Nat} {tval : Word64} (hcur : s.current = some x)
    (hc : (req (s.issuer x w) s).check (s.issuer x w) (s.grp x) (s.spl x) = some (code, tval, false)) :
    issue w req body s = .next (s.raise x.c x.sl x.sp code tval (s.spl x).pc (s.spl x).remaining) := by
  simp only [State.issuer, State.spl, State.grp] at hc
  simp only [issue, hcur, State.grp, hc, Bool.false_eq_true, if_false]
  rfl

/-- Without a prefix in force only the checks of the instruction itself are left. -/
theorem Issues.check_eq_checkOwn (h : Issues s x xs) (r : Req) (y : Ctx) :
    r.check y (s.grp x) (s.spl x) = r.checkOwn y (s.grp x) (s.spl x) := by
  simp only [Req.check, (Split.format_none h.plain).1]

/-- A broken constraint of its entry makes a word illegal, whatever else is wrong with it. -/
theorem Req.checkOwn_of_bad (y : Ctx) (g : Group) (p : Split) (hb : r.bad = true) :
    r.checkOwn y g p = some (2, y.word.setWidth 64, false) := by
  simp only [Req.checkOwn, Req.illegal, Req.barred, hb, Bool.or_true, if_true]

/-- A device instruction that may issue and keeps the constraints of its entry passes the illegal-instruction check. -/
theorem IssuesDev.illegal_eq_none (h : IssuesDev s x xs vs) (hy : y.handler = x.handler) (hv : r.vs = vs.map BitVec.toNat)
    (hmo : r.more = []) (hb : r.bad = false) (hm : r.mdOk = true) : r.illegal y (s.grp x) (s.spl x) = none := by
  have hlim : (vs.map BitVec.toNat).any
      (fun v => decide ((if y.handler = true then 16 else (s.grp x).vregs) ≤ v)) = false := by
    refine any_ge_eq_false fun v hv => ?_
    obtain ⟨q, hq, rfl⟩ := List.mem_map.1 hv
    rw [hy]
    exact (h.regs q hq).1
  simp [Req.illegal, Req.barred, Req.outOfReach, hv, hmo, hlim, hb, hm, h.mode, (Split.format_none h.plain).2]

/-- A control transfer of no engine class is malformed exactly where counted words follow it in its clause (05 R91). -/
theorem Req.malformed_eq_false_iff_lastWord (hctl : r.ctl = true) (he : r.eng = 0) :
    r.malformed (s.spl x) = false ↔ LastWord s x := by
  have h0 : (s.spl x).left = 0 ↔ (s.spl x).left.toNat = 0 := BitVec.toNat_inj.symm
  have h1 : (s.spl x).left = 1 ↔ (s.spl x).left.toNat = 1 := BitVec.toNat_inj.symm
  simp only [Req.malformed, LastWord, hctl, he, ne_eq, not_true_eq_false, decide_false, Bool.false_and, Bool.or_false,
    Bool.true_and, Bool.and_eq_false_iff, decide_eq_false_iff_not, not_not, h0, h1]
  omega

/-- A word whose entry's constraint is broken traps with cause 2 and itself as the value. -/
theorem Issues.issue_illegal (h : Issues s x xs) (hb : (req (s.issuer x w) s).bad = true) :
    issue w req body s = .next (s.raise x.c x.sl x.sp 2 (w.setWidth 64) (s.spl x).pc (s.spl x).remaining) :=
  issue_raise h.current ((h.check_eq_checkOwn _ _).trans (Req.checkOwn_of_bad _ _ _ hb))

/-- A device instruction that is a control transfer and not the last word of its clause traps with cause 30 (05 R91). -/
theorem IssuesDev.issue_clauseMalformed (h : IssuesDev s x xs vs) (hv : (req (s.issuer x w) s).vs = vs.map BitVec.toNat)
    (hmo : (req (s.issuer x w) s).more = []) (hb : (req (s.issuer x w) s).bad = false)
    (hm : (req (s.issuer x w) s).mdOk = true) (hctl : (req (s.issuer x w) s).ctl = true)
    (he : (req (s.issuer x w) s).eng = 0) (hl : ¬ LastWord s x) :
    issue w req body s = .next (s.raise x.c x.sl x.sp 30 (w.setWidth 64) (s.spl x).pc (s.spl x).remaining) := by
  have hmal : (req (s.issuer x w) s).malformed (s.spl x) = true :=
    Bool.eq_true_of_not_eq_false (mt (Req.malformed_eq_false_iff_lastWord hctl he).1 hl)
  have hill := h.illegal_eq_none (y := s.issuer x w) rfl hv hmo hb hm
  refine issue_raise h.current ((h.check_eq_checkOwn _ _).trans ?_)
  simp only [Req.checkOwn, hill, Req.checkRest, hmal, if_true]
  rfl

end Checks

/-! ## LBR (06 R134) -/

section MaskBranch

variable {s : State} {x : Ctx} {cond m : BitVec 3} {off : BitVec 14}

/-- The target lies four times the word offset from the pc. -/
theorem lbrTarget_eq (pc : Word64) (off : BitVec 14) : lbrTarget pc off = pc + off.signExtend 64 * 4 := by
  rw [lbrTarget, BitVec.shiftLeft_eq_mul_twoPow]
  rfl

/-- The condition, of which the function leaves the last of the four as the rest. -/
theorem lbrTaken_iff (hc : cond.toNat < 4) (t m0 : Word32) :
    lbrTaken cond t m0 = true ↔
      (cond = 0 ∧ t ≠ 0) ∨ (cond = 1 ∧ t = 0) ∨ (cond = 2 ∧ t = m0) ∨ (cond = 3 ∧ t ≠ m0) := by
  have hcases : cond = 0 ∨ cond = 1 ∨ cond = 2 ∨ cond = 3 := by bv_omega
  rcases hcases with rfl | rfl | rfl | rfl <;> simp [lbrTaken]

/-- Where LBR goes: to its target where the condition holds, else to the next word. -/
theorem execLbr_jump (h : IssuesDev s x [] []) (hc : cond.toNat < 4) (hl : LastWord s x) :
    execLbr cond m off s = .next (s.finish x
      (if lbrTaken cond ((s.grp x).rawMask x.sp m &&& (s.spl x).m0) (s.spl x).m0 then lbrTarget (s.spl x).pc off
        else (s.spl x).pc + 4) 1 false) :=
  issue_jump (h.issued rfl rfl (decide_eq_false (Nat.not_le.2 hc)) rfl
    ((Req.malformed_eq_false_iff_lastWord rfl rfl).2 hl) rfl rfl (fun _ _ => rfl) rfl) rfl

theorem execLbr_clauseMalformed (h : IssuesDev s x [] []) (hc : cond.toNat < 4) (hl : ¬ LastWord s x) :
    execLbr cond m off s = .next (s.raise x.c x.sl x.sp 30 ((encodeWord (.lbr cond m off)).setWidth 64) (s.spl x).pc
      (s.spl x).remaining) :=
  h.issue_clauseMalformed rfl rfl (decide_eq_false (Nat.not_le.2 hc)) rfl rfl rfl hl

theorem execLbr_illegal (h : IssuesDev s x [] []) (hc : 4 ≤ cond.toNat) :
    execLbr cond m off s = .next (s.raise x.c x.sl x.sp 2 ((encodeWord (.lbr cond m off)).setWidth 64) (s.spl x).pc
      (s.spl x).remaining) :=
  h.toIssues.issue_illegal (decide_eq_true hc)

end MaskBranch

/-- Settles O24: a listed condition at the last word of the clause branches, before it the clause is malformed, and any other
condition is illegal. -/
theorem maskBranch : Obligations.MaskBranch := by
  unfold Obligations.MaskBranch Claims.maskBranch
  intro s x cond m off h
  refine ⟨fun hc hl => (execLbr_jump h hc hl).trans ?_, fun hc hl => execLbr_clauseMalformed h hc hl,
    fun hc => execLbr_illegal h hc⟩
  simp only [lbrTaken_iff hc, lbrTarget_eq]

end Sys2Proof.Machine
end

section
/-! SUPPORT. The lane integer instructions (07 R147, R151, R153, R154): what stands in the elements of a packed value, what
finish_int gives for a modifier word, and obligations O26, O27 and O28. -/

namespace Sys2Proof.Machine

open Claims (ElementWise)

/-! ## Elements of a lane value (02 R29, 07 R149) -/

/-- The element width of the integer format in force. -/
def Ctx.elWidth (y : Ctx) : Nat := fmtWidth (y.fa fcINT32)

/-- The signedness of the integer format in force. -/
def Ctx.elSigned (y : Ctx) : Bool := fmtSigned (y.fa fcINT32)

section Elements

variable {w : Nat} {y : Ctx} {A B : Nat → Word32} {m0 : Word32} {f : Nat → Bool → Nat → Nat → Nat}

theorem elem_lt (w : Nat) (a : Word32) (i : Nat) : elem w a i < 2 ^ w := Nat.mod_lt _ (Nat.two_pow_pos w)

/-- The sum that packs n elements is the number whose digits in base 2^w they are. -/
theorem packSum_eq_ofDigits (w : Nat) (e : Nat → Nat) (n : Nat) :
    (List.range n).foldl (fun v i => v + e i % 2 ^ w * 2 ^ (w * i)) 0 =
      Nat.ofDigits (2 ^ w) ((List.range n).map (fun i => e i % 2 ^ w)) := by
  induction n with
  | zero => rfl
  | succ n ih =>
    rw [List.range_succ, List.foldl_append, ih, List.map_append, Nat.ofDigits_append, List.length_map, List.length_range,
      ← pow_mul, List.map_singleton, Nat.ofDigits_singleton, Nat.mul_comm (2 ^ (w * n))]
    rfl

theorem elem_packElems (e : Nat → Nat) {i : Nat} (hi : i < 32 / w) : elem w (packElems w e) i = e i % 2 ^ w := by
  have hw : 0 < w := Nat.pos_of_ne_zero fun h => by simp [h] at hi
  have hbase : 1 < 2 ^ w := Nat.one_lt_two_pow hw.ne'
  have hdig : ∀ d ∈ (List.range (32 / w)).map (fun i => e i % 2 ^ w), d < 2 ^ w := by
    intro d hd
    obtain ⟨j, -, rfl⟩ := List.mem_map.1 hd
    exact Nat.mod_lt _ (Nat.two_pow_pos w)
  have hfits : Nat.ofDigits (2 ^ w) ((List.range (32 / w)).map (fun i => e i % 2 ^ w)) < 2 ^ 32 := by
    calc _ < (2 ^ w) ^ (32 / w) := by simpa using Nat.ofDigits_lt_base_pow_length hbase hdig
      _ = 2 ^ (w * (32 / w)) := (pow_mul 2 w _).symm
      _ ≤ 2 ^ 32 := Nat.pow_le_pow_right (by decide) (Nat.mul_div_le 32 w)
  have hlen : i < ((List.range (32 / w)).map (fun i => e i % 2 ^ w)).length := by simpa using hi
  rw [elem, packElems, packSum_eq_ofDigits, BitVec.toNat_ofNat, Nat.mod_eq_of_lt hfits, pow_mul,
    Nat.ofDigits_div_pow_eq_ofDigits_drop i (Nat.two_pow_pos w) _ hdig, List.drop_eq_getElem_cons hlen,
    Nat.ofDigits_mod_eq_head!]
  simp

theorem elem_intElems (y : Ctx) (f : Nat → Bool → Nat → Nat → Nat) (a b : Word32) {i : Nat} (hi : i < 32 / y.elWidth) :
    elem y.elWidth (intElems y f a b) i =
      f y.elWidth y.elSigned (elem y.elWidth a i) (elem y.elWidth b i) % 2 ^ y.elWidth :=
  elem_packElems _ hi

theorem elem_immElems (y : Ctx) (imm : BitVec 9) {i : Nat} (hi : i < 32 / y.elWidth) :
    elem y.elWidth (immElems y imm) i = (imm.signExtend 32).toNat % 2 ^ y.elWidth :=
  (elem_packElems _ hi).trans (Nat.mod_mod _ _)

/-- On elements of width w, op cut to w bits is h. -/
def OnElements (w : Nat) (op h : Nat → Nat → Nat) : Prop :=
  ∀ a b, a < 2 ^ w → b < 2 ^ w → op a b % 2 ^ w = h a b

/-- An operation whose results are elements needs no cut. -/
theorem OnElements.of_lt {h : Nat → Nat → Nat} (hlt : ∀ a b, a < 2 ^ w → b < 2 ^ w → h a b < 2 ^ w) :
    OnElements w h h :=
  fun a b ha hb => Nat.mod_eq_of_lt (hlt a b ha hb)

theorem OnElements.congr {op g h : Nat → Nat → Nat} (hg : OnElements w op g)
    (he : ∀ a b, a < 2 ^ w → b < 2 ^ w → g a b = h a b) : OnElements w op h :=
  fun a b ha hb => (hg a b ha hb).trans (he a b ha hb)

/-- The model's elementwise operation is the table's, where the two agree on elements. -/
theorem intElems_elementWise {h : Nat → Nat → Nat} (hf : OnElements y.elWidth (f y.elWidth y.elSigned) h) :
    ElementWise y.elWidth (fun l => intElems y f (A l) (B l)) A B h m0 :=
  fun _ _ _ _ hi => (elem_intElems y f _ _ hi).trans (hf _ _ (elem_lt ..) (elem_lt ..))

end Elements

/-! ## Integers as elements, and the range of a format (02 R29, R30) -/

section Integers

variable {w : Nat} {sg : Bool} {v : Int}

theorem lowBits_cast (w : Nat) (v : Int) : (lowBits w v : Int) = v % 2 ^ w :=
  Int.toNat_of_nonneg (Int.emod_nonneg v (pow_ne_zero w (by decide)))

theorem lowBits_lt (w : Nat) (v : Int) : lowBits w v < 2 ^ w := by
  zify
  rw [lowBits_cast]
  exact Int.emod_lt_of_pos v (by positivity)

@[simp] theorem lowBits_natCast (w n : Nat) : lowBits w (n : Int) = n % 2 ^ w := by
  rw [lowBits]
  exact_mod_cast Int.toNat_natCast (n % 2 ^ w)

@[simp] theorem readInt_false (w n : Nat) : readInt w false n = n := by simp [readInt]

/-- Signed or unsigned, an element stands for its residue modulo 2^w. -/
theorem readInt_emod (w : Nat) (sg : Bool) (a : Nat) : readInt w sg a % 2 ^ w = a % 2 ^ w := by
  unfold readInt
  split
  · exact Int.sub_emod_right ..
  · rfl

theorem lowBits_readInt (w : Nat) (sg : Bool) (v : Int) : lowBits w (readInt w sg (lowBits w v)) = lowBits w v := by
  conv_lhs => rw [lowBits]
  rw [readInt_emod, lowBits_cast, Int.emod_emod, lowBits]

/-- The range of a format holds 2^w integers. -/
theorem intHi_sub_intLo (hw : 0 < w) (sg : Bool) : intHi w sg - intLo w sg = 2 ^ w - 1 := by
  cases sg
  · simp [intHi, intLo]
  · simp only [intHi, intLo, if_true, ← mul_pow_sub_one hw.ne' (2 : Int)]
    ring

/-- 0 lies in the range of every format. -/
theorem intLo_le_zero_le_intHi (w : Nat) (sg : Bool) : intLo w sg ≤ 0 ∧ 0 ≤ intHi w sg := by
  have hw : (0 : Int) < 2 ^ w := by positivity
  have hw' : (0 : Int) < 2 ^ (w - 1) := by positivity
  cases sg <;> simp only [intLo, intHi, Bool.false_eq_true, if_false, if_true] <;> omega

theorem readInt_range (hw : 0 < w) (sg : Bool) {a : Nat} (ha : a < 2 ^ w) :
    intLo w sg ≤ readInt w sg a ∧ readInt w sg a ≤ intHi w sg := by
  have hdouble := mul_pow_sub_one hw.ne' (2 : Int)
  have ha' : (a : Int) < 2 ^ w := by exact_mod_cast ha
  have hhalf : 2 ^ (w - 1) ≤ a ↔ (2 : Int) ^ (w - 1) ≤ a := by norm_cast
  cases sg
  · simp only [readInt_false, intLo, intHi, Bool.false_eq_true, if_false]
    omega
  · simp only [readInt, intLo, intHi, if_true, Bool.true_and, decide_eq_true_eq, hhalf]
    split <;> omega

/-- In the range of a format an integer is determined by its residue. -/
theorem eq_of_emod_eq_of_range (hw : 0 < w) {u v : Int} (hu : intLo w sg ≤ u ∧ u ≤ intHi w sg)
    (hv : intLo w sg ≤ v ∧ v ≤ intHi w sg) (h : u % 2 ^ w = v % 2 ^ w) : u = v := by
  have hsize := intHi_sub_intLo hw sg
  have habs : |u - v| < 2 ^ w := by rw [abs_lt]; omega
  exact Int.sub_eq_zero.1 (Int.eq_zero_of_abs_lt_dvd (Int.ModEq.dvd (Eq.symm h)) habs)

theorem readInt_lowBits (hw : 0 < w) (hv : intLo w sg ≤ v ∧ v ≤ intHi w sg) : readInt w sg (lowBits w v) = v :=
  eq_of_emod_eq_of_range hw (readInt_range hw sg (lowBits_lt w v)) hv (by rw [readInt_emod, lowBits_cast, Int.emod_emod])

end Integers

/-! ## The element operations of Table 7.6 -/

section Operations

variable {w a b : Nat} {sg : Bool}

theorem finishInt_lt (md : Option Word32) (w : Nat) (sg : Bool) (v : Int) : finishInt md w sg v < 2 ^ w := lowBits_lt ..

/-- What passes through finish_int is an element. -/
theorem arith_onElements (md : Option Word32) (op : Int → Int → Int) :
    OnElements w (arith md op w sg) (fun a b => finishInt md w sg (op (readInt w sg a) (readInt w sg b))) :=
  .of_lt fun _ _ _ _ => finishInt_lt ..

theorem elMulHigh_onElements (sgn : Bool) :
    OnElements w (elMulHigh sgn w sg) (fun a b => lowBits w (readInt w sgn a * readInt w sgn b / 2 ^ w)) :=
  .of_lt fun _ _ _ _ => lowBits_lt ..

/-- The high half of an unsigned product is below 2^w, so nothing is cut from it. -/
theorem elMulHigh_false_onElements : OnElements w (elMulHigh false w sg) (fun a b => a * b / 2 ^ w) := by
  refine (elMulHigh_onElements false).congr fun a b ha hb => ?_
  have hlt : a * b / 2 ^ w < 2 ^ w := Nat.div_lt_of_lt_mul (Nat.mul_lt_mul'' ha hb)
  calc lowBits w (readInt w false a * readInt w false b / 2 ^ w)
      = lowBits w ((a * b / 2 ^ w : Nat) : Int) := by simp only [readInt_false]; norm_cast
    _ = a * b / 2 ^ w := by rw [lowBits_natCast, Nat.mod_eq_of_lt hlt]

theorem pickMin_eq (sgn sg : Bool) (w a b : Nat) :
    pickMin sgn w sg a b = if readInt w sgn a ≤ readInt w sgn b then a else b := by
  simp only [pickMin, ← Int.not_le, ite_not]

theorem pickMax_eq (sgn sg : Bool) (w a b : Nat) :
    pickMax sgn w sg a b = if readInt w sgn b ≤ readInt w sgn a then a else b := by
  simp only [pickMax, ← Int.not_le, ite_not]

/-- A minimum is one of the two elements. -/
theorem pickMin_onElements (sgn : Bool) :
    OnElements w (pickMin sgn w sg) (fun a b => if readInt w sgn a ≤ readInt w sgn b then a else b) := by
  refine (OnElements.of_lt fun a b ha hb => ?_).congr fun a b _ _ => pickMin_eq sgn sg w a b
  unfold pickMin
  split
  · exact hb
  · exact ha

theorem pickMax_onElements (sgn : Bool) :
    OnElements w (pickMax sgn w sg) (fun a b => if readInt w sgn b ≤ readInt w sgn a then a else b) := by
  refine (OnElements.of_lt fun a b ha hb => ?_).congr fun a b _ _ => pickMax_eq sgn sg w a b
  unfold pickMax
  split
  · exact hb
  · exact ha

theorem pickMin_false_onElements : OnElements w (pickMin false w sg) (fun a b => min a b) :=
  (pickMin_onElements false).congr fun a b _ _ => by simp only [readInt_false, Int.ofNat_le, Nat.min_def]

theorem pickMax_false_onElements : OnElements w (pickMax false w sg) (fun a b => max a b) :=
  (pickMax_onElements false).congr fun a b _ _ => by
    simp only [readInt_false, Int.ofNat_le, Nat.max_comm a b, Nat.max_def]

theorem elAnd_lt (ha : a < 2 ^ w) : elAnd w sg a b < 2 ^ w := Nat.lt_of_le_of_lt Nat.and_le_left ha

theorem elOr_lt (ha : a < 2 ^ w) (hb : b < 2 ^ w) : elOr w sg a b < 2 ^ w := Nat.or_lt_two_pow ha hb

theorem elXor_lt (ha : a < 2 ^ w) (hb : b < 2 ^ w) : elXor w sg a b < 2 ^ w := Nat.xor_lt_two_pow ha hb

theorem elAndn_lt (ha : a < 2 ^ w) : elAndn w sg a b < 2 ^ w := Nat.lt_of_le_of_lt Nat.and_le_left ha

theorem elSll_lt (w : Nat) (sg : Bool) (a b : Nat) : elSll w sg a b < 2 ^ w := Nat.mod_lt _ (Nat.two_pow_pos w)

theorem elSrl_lt (ha : a < 2 ^ w) : elSrl w sg a b < 2 ^ w := Nat.lt_of_le_of_lt (Nat.div_le_self ..) ha

theorem elSra_lt (w : Nat) (sg : Bool) (a b : Nat) : elSra w sg a b < 2 ^ w := lowBits_lt ..

end Operations

/-! ## The shapes of integer instructions -/

section Shapes

variable {s : State} {x : Ctx} {word : Word32} {sh : Shape} {md : Option Word32} {vd va vb : BitVec 6}
  {f : Nat → Bool → Nat → Nat → Nat}

/-- A two-source instruction writes to the elements of vd what its operation gives on the elements of its routed
sources (07 R151). -/
theorem twoSource_elementWise {h : Nat → Nat → Nat}
    (hf : OnElements (s.withFormat x).elWidth (f (s.withFormat x).elWidth (s.withFormat x).elSigned) h)
    (hi : IssuesLane s x sh md [] [vd, va, vb]) :
    ∃ v, WritesLanes s x md (laneCycles (s.grp x) md) vd v
        (laneOp word sh md [va, vb] vd
          (fun x g l => intElems x f (g.route x.sp va (mdA md) l) (g.route x.sp vb (mdB md) l)) s) ∧
      ElementWise (s.withFormat x).elWidth v ((s.grp x).route x.sp va (mdA md))
        ((s.grp x).route x.sp vb (mdB md)) h (s.spl x).m0 :=
  ⟨_, laneOp_writes word _ hi, intElems_elementWise (y := s.issuer x word) hf⟩

/-- An immediate instruction does so with the low bits of the immediate in the place of the second element (07 R154). -/
theorem immediate_elementWise {imm : BitVec 9} {h : Nat → Nat → Nat}
    (hf : OnElements (s.withFormat x).elWidth (f (s.withFormat x).elWidth (s.withFormat x).elSigned) h)
    (hi : IssuesLane s x sh md [] [vd, va]) :
    ∃ v, WritesLanes s x md (laneCycles (s.grp x) md) vd v
        (laneOp word sh md [va] vd
          (fun x g l => intElems x f (g.route x.sp va (mdA md) l) (immElems x imm)) s) ∧
      ElementWise (s.withFormat x).elWidth v ((s.grp x).route x.sp va (mdA md))
        ((s.grp x).route x.sp va (mdA md))
        (fun a _ => h a ((imm.signExtend 32).toNat % 2 ^ (s.withFormat x).elWidth)) (s.spl x).m0 := by
  refine ⟨_, laneOp_writes word _ hi, fun l hl hb i hlt => ?_⟩
  have he := intElems_elementWise (y := s.issuer x word) (A := (s.grp x).route x.sp va (mdA md))
    (B := fun _ => immElems (s.issuer x word) imm) hf l hl hb i hlt
  exact he.trans (congrArg _ (elem_immElems (s.issuer x word) imm hlt))

/-- A shift by an immediate applies the operation to each element and the amount. -/
theorem shiftImm_elementWise {sh : BitVec 5} {h : Nat → Nat}
    (hf : OnElements (s.withFormat x).elWidth
      (fun a _ => f (s.withFormat x).elWidth (s.withFormat x).elSigned a sh.toNat) (fun a _ => h a))
    (hi : IssuesLane s x shLogic1 md [] [vd, va]) :
    ∃ v, WritesLanes s x md (laneCycles (s.grp x) md) vd v (laneShiftImm word md vd va sh f s) ∧
      ElementWise (s.withFormat x).elWidth v ((s.grp x).route x.sp va (mdA md))
        ((s.grp x).route x.sp va (mdA md)) (fun a _ => h a) (s.spl x).m0 :=
  ⟨_, laneOp_writes word _ hi, intElems_elementWise (y := s.issuer x word) (B := fun _ => 0)
    (f := fun w sg a _ => f w sg a sh.toNat) hf⟩

/-- LMOVI writes the low bits of the immediate to every element (07 R154). -/
theorem moveImm_elementWise {imm : BitVec 9} {A : Nat → Word32} (hi : IssuesLane s x sh md [] [vd]) :
    ∃ v, WritesLanes s x md (laneCycles (s.grp x) md) vd v (laneOp word sh md [] vd (fun x _ _ => immElems x imm) s) ∧
      ElementWise (s.withFormat x).elWidth v A A
        (fun _ _ => (imm.signExtend 32).toNat % 2 ^ (s.withFormat x).elWidth) (s.spl x).m0 :=
  ⟨_, laneOp_writes word _ hi, fun _ _ _ _ hlt => elem_immElems (s.issuer x word) imm hlt⟩

theorem WritesMask.congr {n : Nat} {k : BitVec 3} {p q : Nat → Bool} {r : Result} (h : WritesMask s x md n k p r)
    (he : ∀ l, p l = q l) : WritesMask s x md n k q r :=
  funext he ▸ h

/-- A compare writes to its mask the condition on the routed sources (07 R153). -/
theorem compare_writesMask (p : Word32 → Word32 → Bool) {q : Nat → Bool} {k : BitVec 3}
    (he : ∀ l, p ((s.grp x).route x.sp va (mdA md) l) ((s.grp x).route x.sp vb (mdB md) l) = q l)
    (hi : IssuesLane s x sh md [] [va, vb]) :
    WritesMask s x md (laneCycles (s.grp x) md) k q
      (laneCmp word sh md [va, vb] [] k
        (fun x g l => p (g.route x.sp va (mdA md) l) (g.route x.sp vb (mdB md) l)) s) :=
  (laneCmp_writes word _ hi).congr he

/-- A compare with a uniform source puts the low 32 bits of the x register in the place of the second source (07 R155). -/
theorem compareUniform_writesMask (p : Word32 → Word32 → Bool) {q : Nat → Bool} {k : BitVec 3} {xs : BitVec 5}
    (he : ∀ l, p ((s.grp x).route x.sp va (mdA md) l) ((s.x x xs).extractLsb' 0 32) = q l)
    (hi : IssuesLane s x sh md [xs] [va]) :
    WritesMask s x md (laneCycles (s.grp x) md) k q
      (laneCmp word sh md [va] [xs] k
        (fun x g l => p (g.route x.sp va (mdA md) l) ((g.x x.sp xs).setWidth 32)) s) := by
  refine (laneCmp_writes word _ hi).congr fun l => ?_
  rw [BitVec.setWidth_eq_extractLsb' (by decide)]
  exact he l

end Shapes

/-! ## finish_int (07 R147) -/

section Finish

variable {w : Nat} {sg : Bool} {m : Word32} {v : Int}

theorem clampInt_eq {lo hi : Int} (h : lo ≤ hi) (v : Int) :
    clampInt lo hi v = if v < lo then lo else if hi < v then hi else v := by
  unfold clampInt
  split_ifs <;> omega

theorem clampInt_range {lo hi : Int} (h : lo ≤ hi) (v : Int) : lo ≤ clampInt lo hi v ∧ clampInt lo hi v ≤ hi := by
  unfold clampInt
  omega

/-- The exact result after SCALE and SIGN, before SAT and CLAMP. -/
def scaledSigned (m : Word32) (v : Int) : Int :=
  applySign (mdSign m) (if 0 ≤ mdScale m then v * 2 ^ (mdScale m).toNat else v / 2 ^ (-mdScale m).toNat)

theorem finishInt_wrap (hs : mdSat m = false) (hc : mdClamp m = false) :
    finishInt (some m) w sg v = lowBits w (scaledSigned m v) := by
  simp only [finishInt, Option.getD_some, hs, hc, Bool.false_and, Bool.false_eq_true, if_false]
  exact lowBits_readInt ..

theorem finishInt_sat (hs : mdSat m = true) (hc : mdClamp m = false) :
    finishInt (some m) w sg v = lowBits w (clampInt (intLo w sg) (intHi w sg) (scaledSigned m v)) := by
  simp only [finishInt, Option.getD_some, hs, hc, Bool.false_and, Bool.false_eq_true, if_false, if_true]
  rfl

theorem finishInt_clamp (hs : mdSat m = false) (hc : mdClamp m = true) :
    finishInt (some m) w sg v = lowBits w (max 0 (readInt w sg (lowBits w (scaledSigned m v)))) := by
  simp only [finishInt, Option.getD_some, hs, hc, Bool.true_and, Bool.false_eq_true, if_false, decide_eq_true_eq]
  congr 1
  change (if readInt w sg (lowBits w (scaledSigned m v)) < 0 then 0 else readInt w sg (lowBits w (scaledSigned m v))) = _
  omega

/-- The integer that a saturated result stands for. -/
theorem readInt_finishInt_sat (hw : 0 < w) (hs : mdSat m = true) (hc : mdClamp m = false) :
    readInt w sg (finishInt (some m) w sg v) = clampInt (intLo w sg) (intHi w sg) (scaledSigned m v) := by
  have hle : intLo w sg ≤ intHi w sg := (intLo_le_zero_le_intHi w sg).elim le_trans
  rw [finishInt_sat hs hc, readInt_lowBits hw (clampInt_range hle _)]

/-- The integer that a clamped result stands for. -/
theorem readInt_finishInt_clamp (hw : 0 < w) (hs : mdSat m = false) (hc : mdClamp m = true) :
    readInt w sg (finishInt (some m) w sg v) = max 0 (readInt w sg (lowBits w (scaledSigned m v))) := by
  obtain ⟨hlo, hhi⟩ := intLo_le_zero_le_intHi w sg
  obtain ⟨-, hr⟩ := readInt_range hw sg (lowBits_lt w (scaledSigned m v))
  rw [finishInt_clamp hs hc, readInt_lowBits hw ⟨hlo.trans (le_max_left ..), max_le hhi hr⟩]

/-- With SCALE 0 only SIGN acts on the exact result. -/
theorem scaledSigned_of_scale_eq_zero (hscale : mdScale m = 0) : scaledSigned m v = applySign (mdSign m) v := by
  simp [scaledSigned, hscale]

/-- .h2 halves, rounding toward -inf. -/
theorem scaledSigned_h2 (v : Int) : scaledSigned 0x07000000 v = v / 2 := rfl

/-- .s2 doubles. -/
theorem scaledSigned_s2 (v : Int) : scaledSigned 0x01000000 v = v * 2 := rfl

/-- .neg negates. -/
theorem scaledSigned_neg (v : Int) : scaledSigned 0x20000000 v = -v := scaledSigned_of_scale_eq_zero rfl

end Finish

/-! ## The obligations -/

/-- finish_int without a modifier word and with .sat, .clamp, .h2, .s2 and .neg. -/
theorem finishInt_of_modifiers : Claims.finishedIntegers := by
  intro w sg v hw lo hi
  have hpos : 0 < w := by omega
  have hunsigned : ∀ m, mdScale m = 0 → mdSign m = 0 → scaledSigned m v = v := fun m hscale hsign =>
    (scaledSigned_of_scale_eq_zero hscale).trans (by rw [hsign]; rfl)
  refine ⟨?_, ?_, ?_, ?_, ?_, ?_⟩
  · exact (finishInt_wrap (m := 0) rfl rfl).trans (congrArg _ (hunsigned 0 rfl rfl))
  · have hle : lo ≤ hi := (intLo_le_zero_le_intHi w sg).elim le_trans
    rw [readInt_finishInt_sat hpos rfl rfl, hunsigned _ rfl rfl]
    exact clampInt_eq hle v
  · rintro rfl
    rw [readInt_finishInt_clamp hpos rfl rfl, hunsigned _ rfl rfl]
    rfl
  · rw [finishInt_wrap rfl rfl, scaledSigned_h2]
    rfl
  · rw [finishInt_wrap rfl rfl, scaledSigned_s2]
    rfl
  · rw [finishInt_wrap rfl rfl, scaledSigned_neg]
    rfl

/-- Table 7.6, row by row. -/
theorem twoSource_results : Claims.laneIntegerResults := by
  intro s x md vd va vb g fc w n i gives
  exact ⟨twoSource_elementWise (arith_onElements md (· + ·)), twoSource_elementWise (arith_onElements md (· - ·)),
    twoSource_elementWise (arith_onElements md (· * ·)), twoSource_elementWise (elMulHigh_onElements true),
    twoSource_elementWise elMulHigh_false_onElements, twoSource_elementWise (pickMin_onElements true),
    twoSource_elementWise (pickMax_onElements true), twoSource_elementWise pickMin_false_onElements,
    twoSource_elementWise pickMax_false_onElements,
    twoSource_elementWise (.of_lt fun _ _ ha _ => elAnd_lt ha),
    twoSource_elementWise (.of_lt fun _ _ ha hb => elOr_lt ha hb),
    twoSource_elementWise (.of_lt fun _ _ ha hb => elXor_lt ha hb),
    twoSource_elementWise (.of_lt fun _ _ ha _ => elAndn_lt ha),
    twoSource_elementWise (.of_lt fun _ _ _ _ => elSll_lt ..),
    twoSource_elementWise (.of_lt fun _ _ ha _ => elSrl_lt ha),
    twoSource_elementWise (.of_lt fun _ _ _ _ => elSra_lt ..)⟩

/-- Settles O26: each row of Table 7.6 is its operation on elements, and finish_int gives what each modifier word asks. -/
theorem laneIntegerResults : Obligations.LaneIntegerResults :=
  ⟨twoSource_results, finishInt_of_modifiers⟩

/-- Settles O27: each row of Table 7.8 is the operation of Table 7.6 with the immediate as its second element. -/
theorem laneImmediateResults : Obligations.LaneImmediateResults := by
  unfold Obligations.LaneImmediateResults
  intro s x md vd va imm sh g fc w n i A c gives
  exact ⟨immediate_elementWise (arith_onElements md (· + ·)),
    immediate_elementWise (.of_lt fun _ _ ha _ => elAnd_lt ha),
    immediate_elementWise (.of_lt fun _ _ ha hb => elOr_lt ha hb),
    immediate_elementWise (.of_lt fun _ _ ha hb => elXor_lt ha hb),
    shiftImm_elementWise (.of_lt fun _ _ _ _ => elSll_lt ..),
    shiftImm_elementWise (.of_lt fun _ _ ha _ => elSrl_lt ha),
    shiftImm_elementWise (.of_lt fun _ _ _ _ => elSra_lt ..),
    moveImm_elementWise⟩

/-- Settles O28: each compare writes its condition to the bits of the active lanes. -/
theorem laneCompareResults : Obligations.LaneCompareResults := by
  unfold Obligations.LaneCompareResults
  intro s x md k va vb xs g A B U gives givesX
  exact ⟨compare_writesMask (fun a b => a = b) fun _ => rfl, compare_writesMask (fun a b => a ≠ b) fun _ => rfl,
    compare_writesMask BitVec.slt fun _ => rfl,
    compare_writesMask (fun a b => !a.slt b) fun _ => (BitVec.sle_eq_not_slt ..).symm,
    compare_writesMask BitVec.ult fun _ => rfl,
    compare_writesMask (fun a b => !a.ult b) fun _ => (BitVec.ule_eq_not_ult ..).symm,
    compareUniform_writesMask (fun a b => a = b) fun _ => rfl, compareUniform_writesMask BitVec.slt fun _ => rfl,
    compareUniform_writesMask BitVec.ult fun _ => rfl⟩

end Sys2Proof.Machine
end
